-- ==== Sys2Proof/Word.lean ====
section
/-! DEFINITION. The word types of the Oblar OB880 (spec/01 R11, spec/03 R61). -/

namespace Sys2Proof

/-- A 64-bit payload, instruction word or literal word (R11, R61). -/
abbrev Word := BitVec 64

/-- One byte of memory. -/
abbrev Byte := BitVec 8

/-- A 32-lane mask, bit i for lane i (R17). -/
abbrev Mask := BitVec 32

end Sys2Proof
end

