-- ==== Sys2Proof/Syntax.lean ====
section
/-! DEFINITION. Operands, modifiers and the one instruction type: one constructor per row of the
opcode table. The encoded instructions come first (spec/03 R86); after them the steps of the device
that no instruction word names (dispatch, engines, timers, host, management, links, power). -/

namespace Sys2Proof

/-- The thirteen tags of R11, in code order 0x0 to 0xC. Codes 0xD to 0xF are reserved and no
register holds one (R14). -/
inductive Tag where
  | int | f64 | f32 | raw | ref | fwd | tile | sym | ts | bool | nil | code | hdr
  deriving DecidableEq, Repr

/-- A register operand (R16, R67). -/
inductive Reg where
  | v (n : BitVec 8)
  | s (n : BitVec 6)
  | m (n : BitVec 3)
  | t (n : BitVec 5)
  | zr
  deriving DecidableEq, Repr

/-- A source operand field (R67, R68): a register, a latch, a channel (popped or peeked) or the
literal word under a tag. -/
inductive Src where
  | reg (r : Reg)
  | latch (k : BitVec 3)
  | chan (pop : Bool) (n : BitVec 4)
  | lit (t : Tag) (w : Word)
  deriving DecidableEq, Repr

/-- A destination operand field (R67): a register, no write-back, or a channel push. -/
inductive Dst where
  | reg (r : Reg)
  | nowb
  | chan (n : BitVec 4)
  deriving DecidableEq, Repr

/-- The first register of a run (R130): a vector or a scalar register. -/
inductive Run where
  | v (n : BitVec 8)
  | s (n : BitVec 6)
  deriving DecidableEq, Repr

/-- The guard of an instruction word (R62, R75). m = 0 means no guard. -/
structure Guard where
  m : BitVec 3
  neg : Bool
  deriving DecidableEq, Repr

/-- The memory operand of format M (R63, R65). -/
structure MemOp where
  base : Src
  idx : Src
  sc : BitVec 2
  disp : BitVec 9
  deriving DecidableEq, Repr

/-- The memory operand of the atomics, LDA and STL: no index, a scope code in its place (R331). -/
structure ScopeOp where
  base : Src
  scope : BitVec 4
  disp : BitVec 9
  deriving DecidableEq, Repr

/-- OV of R131. -/
inductive Ov where
  | wrap | ss | us
  deriving DecidableEq, Repr

/-- CND of ICMP (R131). -/
inductive Cnd where
  | eq | ne | lt | le | gt | ge | ltu | leu
  deriving DecidableEq, Repr

/-- CND of FCMP (R143). -/
inductive FCnd where
  | eq | ne | lt | le | gt | ge | un | ord
  deriving DecidableEq, Repr

/-- The rounding-mode codes of an instruction field (R48). Code 0b110 is reserved. -/
inductive Rm where
  | rne | rtz | rdn | rup | rna | sr | dyn
  deriving DecidableEq, Repr

/-- The format codes shared by CVT, PACK, UNPK, LDT, STT, LDS and STS (R152, R154, R173, R339). -/
inductive Fmt where
  | i64 | f64 | f32 | f16 | bf16 | e4m3 | e5m2 | e8m0
  | i8 | n8 | i16 | n16 | i32 | n32 | ts | raw
  deriving DecidableEq, Repr

/-- AOP of ATOM (R333). -/
inductive AOp where
  | add | smin | smax | umin | umax | and | or | xor | xchg | fadds | faddd
  deriving DecidableEq, Repr

/-- ORD of the atomics (R332). -/
inductive AOrd where
  | none | acq | rel | ar
  deriving DecidableEq, Repr

/-- OP of REDW, SCANW and GBAR (R217). -/
inductive ROp where
  | add | min | max | and | or | xor | argmin | argmax
  deriving DecidableEq, Repr

/-- TY of the ranking instructions (R209). -/
inductive Ty where
  | i | ts | f32 | f64
  deriving DecidableEq, Repr

/-- MODE of VOTE (R213). -/
inductive VoteMode where
  | some | every | same | none
  deriving DecidableEq, Repr

/-- MODE of SHFL (R214). -/
inductive ShflMode where
  | lane | rot | shift | swap
  deriving DecidableEq, Repr

/-- KIND of PHASE (R337). -/
inductive PhaseKind where
  | rel | acq | full
  deriving DecidableEq, Repr

/-- KIND of CHBIND (R347). -/
inductive ChKind where
  | free | deq | enq | fin | fout | dec
  deriving DecidableEq, Repr

/-- OP of SADD (R364). -/
inductive SOp where
  | add | min | max
  deriving DecidableEq, Repr

/-- WHAT of SSTAT (R370). -/
inductive StatWhat where
  | ent | nodes | free | ret | cap | hgt | eng
  deriving DecidableEq, Repr

/-- PAIR of MMA (R419). -/
inductive Pair where
  | bf16 | f16 | e4m3 | e4m3e5m2 | e5m2e4m3 | e5m2 | i8 | e4m3k8 | e5m2k8
  deriving DecidableEq, Repr

/-- OF of ACCOUT (R425). -/
inductive OutFmt where
  | f32 | bf16 | f16 | e4m3 | e5m2 | i32 | i8
  deriving DecidableEq, Repr

/-- SZ of PINV (R457). -/
inductive PageSz where
  | k64 | m64 | g64
  deriving DecidableEq, Repr

/-- The place of a core: compute die, column, row (R3). -/
structure Pos where
  die : Nat
  col : Nat
  row : Nat
  deriving DecidableEq, Repr

/-- A tagged word that a request of another device carries. -/
structure TagWord where
  t : Tag
  w : Word
  deriving DecidableEq, Repr

/-- A sparse operation that another device sends to this one's engines (R361, R506). -/
inductive RemoteSp where
  | sld
  | sst (v : TagWord)
  | sxch (v : TagWord)
  | sadd (op : SOp) (v : TagWord)
  | scas (e n : TagWord)
  | snext (ge : Bool)
  | sscan (n : BitVec 5) (ge : Bool) (lim : Option Word)
  | sstat (what : StatWhat) (all : Bool)
  deriving DecidableEq, Repr

/-- What a device of the domain asks of this one (R506): physical addresses in this device's DRAM. `raw` tells a raw
page, by the requester's leaf; `storePart` writes `2 ^ lg` bytes. A copy moves bytes, or whole tagged words. -/
inductive RemoteOp where
  | load (addr : Nat) (raw : Bool)
  | store (addr : Nat) (raw : Bool) (x : TagWord)
  | storePart (addr : Nat) (raw : Bool) (lg : BitVec 2) (w : Word)
  | atomic (op : AOp) (addr : Nat) (raw : Bool) (x : TagWord)
  | cas (addr : Nat) (raw : Bool) (e n : TagWord)
  | cas2 (addr : Nat) (raw : Bool) (e0 e1 n0 n1 : TagWord)
  | walk (addr : Nat)
  | copyRead (addr : Nat) (raw : Bool)
  | copyWrite (addr : Nat) (raw : Bool) (b : Byte)
  | copyWord (addr : Nat) (raw : Bool) (x : TagWord)
  | sparse (asid : Nat) (desc : Nat) (key : Word) (str : BitVec 3) (op : RemoteSp)
  deriving DecidableEq, Repr

/-- An access of a system or queue core (R521, R524). -/
inductive FwAccess where
  | read (addr : Nat)
  | write (addr : Nat) (w : Word)
  | fetch (addr : Nat)
  | enq (q : Nat) (line : List Word)
  | deq (q : Nat)
  | hostRead (addr : Nat) (line : List Word)
  | hostWrite (addr : Nat) (line : List Word)
  deriving DecidableEq, Repr

/-- What a host driver does at the hub register at an address, or at a control field of a function, which has none
(R514-R516, R523; log 31). -/
inductive HubAcc where
  | write (w : Word)
  | read
  | bar (w : Word)
  | msix (w : Word)
  | report
  deriving DecidableEq, Repr

/-- The instructions and device steps of the OB880: one constructor per row of the opcode table. -/
inductive Instr where
  -- Generic operations and tag instructions (spec/04 R96)
  | add (g : Guard) (d : Dst) (a b : Src)
  | sub (g : Guard) (d : Dst) (a b : Src)
  | mul (g : Guard) (d : Dst) (a b : Src)
  | div (g : Guard) (d : Dst) (a b : Src)
  | idiv (g : Guard) (d : Dst) (a b : Src)
  | mod (g : Guard) (d : Dst) (a b : Src)
  | neg (g : Guard) (d : Dst) (a : Src)
  | abs (g : Guard) (d : Dst) (a : Src)
  | min (g : Guard) (d : Dst) (a b : Src)
  | max (g : Guard) (d : Dst) (a b : Src)
  | ceq (g : Guard) (d : Dst) (a b : Src)
  | cne (g : Guard) (d : Dst) (a b : Src)
  | clt (g : Guard) (d : Dst) (a b : Src)
  | cle (g : Guard) (d : Dst) (a b : Src)
  | truth (g : Guard) (d : Dst) (a : Src)
  | tagof (g : Guard) (d : Dst) (a : Src)
  | tagset (g : Guard) (t : BitVec 4) (d : Dst) (a : Src)
  | tagsetDyn (g : Guard) (d : Dst) (a b : Src)
  | tagis (g : Guard) (d : Dst) (a b : Src)
  | mov (g : Guard) (d : Dst) (a : Src)
  -- Typed integer instructions (spec/05 R131)
  | iadd (g : Guard) (ov : Ov) (d : Dst) (a b : Src)
  | isub (g : Guard) (ov : Ov) (d : Dst) (a b : Src)
  | imul (g : Guard) (ov : Ov) (d : Dst) (a b : Src)
  | imulh (g : Guard) (u : Bool) (d : Dst) (a b : Src)
  | idivt (g : Guard) (u : Bool) (d : Dst) (a b : Src)
  | iremt (g : Guard) (u : Bool) (d : Dst) (a b : Src)
  | imad (g : Guard) (ov : Ov) (d : Dst) (a b c : Src)
  | and (g : Guard) (d : Dst) (a b : Src)
  | or (g : Guard) (d : Dst) (a b : Src)
  | xor (g : Guard) (d : Dst) (a b : Src)
  | andn (g : Guard) (d : Dst) (a b : Src)
  | not (g : Guard) (d : Dst) (a : Src)
  | shl (g : Guard) (wide : Bool) (d : Dst) (a b : Src)
  | shr (g : Guard) (wide : Bool) (d : Dst) (a b : Src)
  | sar (g : Guard) (wide : Bool) (d : Dst) (a b : Src)
  | rol (g : Guard) (d : Dst) (a b : Src)
  | popc (g : Guard) (d : Dst) (a : Src)
  | clz (g : Guard) (d : Dst) (a : Src)
  | ctz (g : Guard) (d : Dst) (a : Src)
  | brev (g : Guard) (d : Dst) (a : Src)
  | bfx (g : Guard) (sx : Bool) (d : Dst) (a b : Src)
  | bfi (g : Guard) (d : Dst) (a b c : Src)
  | imin (g : Guard) (d : Dst) (a b : Src)
  | imax (g : Guard) (d : Dst) (a b : Src)
  | nmin (g : Guard) (d : Dst) (a b : Src)
  | nmax (g : Guard) (d : Dst) (a b : Src)
  | icmp (g : Guard) (cnd : Cnd) (d : Dst) (a b : Src)
  | sel (g : Guard) (mask : Bool) (d : Dst) (a b c : Src)
  | lea (g : Guard) (sc : BitVec 2) (d : Dst) (a b c : Src)
  -- Floating-point instructions (spec/05 R143)
  | fadd (g : Guard) (dbl : Bool) (rm : Rm) (d : Dst) (a b : Src)
  | fsub (g : Guard) (dbl : Bool) (rm : Rm) (d : Dst) (a b : Src)
  | fmul (g : Guard) (dbl : Bool) (rm : Rm) (d : Dst) (a b : Src)
  | ffma (g : Guard) (dbl : Bool) (rm : Rm) (d : Dst) (a b c : Src)
  | fdiv (g : Guard) (dbl : Bool) (rm : Rm) (d : Dst) (a b : Src)
  | fsqrt (g : Guard) (dbl : Bool) (rm : Rm) (d : Dst) (a : Src)
  | fmin (g : Guard) (dbl : Bool) (d : Dst) (a b : Src)
  | fmax (g : Guard) (dbl : Bool) (d : Dst) (a b : Src)
  | fcmp (g : Guard) (dbl : Bool) (cnd : FCnd) (d : Dst) (a b : Src)
  | frnd (g : Guard) (dbl : Bool) (rm : Rm) (d : Dst) (a : Src)
  | fabs (g : Guard) (dbl : Bool) (d : Dst) (a : Src)
  | fneg (g : Guard) (dbl : Bool) (d : Dst) (a : Src)
  -- Special functions (spec/05 R149)
  | log2 (g : Guard) (dbl : Bool) (d : Dst) (a : Src)
  | exp2 (g : Guard) (dbl : Bool) (d : Dst) (a : Src)
  | rcp (g : Guard) (dbl : Bool) (d : Dst) (a : Src)
  | rsq (g : Guard) (dbl : Bool) (d : Dst) (a : Src)
  | sin (g : Guard) (dbl : Bool) (d : Dst) (a : Src)
  | cos (g : Guard) (dbl : Bool) (d : Dst) (a : Src)
  -- Conversions, HASH and RNDU (spec/05 R152-R158)
  | cvt (g : Guard) (df : Fmt) (rm : Rm) (d : Dst) (a : Src)
  | pack (g : Guard) (ef : Fmt) (md : BitVec 3) (d : Dst) (a : Run)
  | unpk (g : Guard) (ef : Fmt) (w : Bool) (d : Run) (a : Src)
  | k8dec (g : Guard) (f16 : Bool) (j : BitVec 2) (d : Run) (a : Src)
  | hash (g : Guard) (d : Dst) (a b : Src)
  | rndu (g : Guard) (d : Dst) (a b : Src)
  -- Control flow (spec/06 R160)
  | jmp (g : Guard) (off : BitVec 33)
  | br (g : Guard) (n : Bool) (c : Src) (off : BitVec 33)
  | call (g : Guard) (l : Dst) (off : BitVec 33)
  | callr (g : Guard) (l : Dst) (t : Src)
  | ret (g : Guard) (t : Src)
  | loopd (g : Guard) (c : BitVec 6) (off : BitVec 33)
  | exit (g : Guard)
  | nop (g : Guard)
  -- Lane memory (spec/06 R160)
  | ld (g : Guard) (ln nh : Bool) (d : Dst) (m : MemOp)
  | st (g : Guard) (ln : Bool) (d : Src) (m : MemOp)
  | ldt (g : Guard) (fmt : Fmt) (d : Dst) (m : MemOp)
  | stt (g : Guard) (fmt : Fmt) (md : BitVec 3) (d : Src) (m : MemOp)
  | hld (g : Guard) (d : Dst) (m : MemOp)
  | hst (g : Guard) (d : Src) (m : MemOp)
  | alloc (g : Guard) (d : Dst) (a b : Src)
  | ldl (g : Guard) (n : BitVec 3) (nh : Bool) (d : BitVec 8) (m : MemOp)
  -- System instructions (spec/06 R160)
  | trap (g : Guard) (a : Src)
  | sysc (g : Guard) (a : Src)
  | hret (a : Src)
  | bkpt (g : Guard)
  | mfs (g : Guard) (d : Dst) (sr : BitVec 8)
  | mts (g : Guard) (a : Src) (sr : BitVec 8)
  | snap (g : Guard) (a : Src)
  -- Mask and cross-lane instructions (spec/08 R206)
  | mand (g : Guard) (d : Dst) (a b : Src)
  | mor (g : Guard) (d : Dst) (a b : Src)
  | mxor (g : Guard) (d : Dst) (a b : Src)
  | mnot (g : Guard) (d : Dst) (a : Src)
  | mpopc (g : Guard) (d : Dst) (a : Src)
  | mffs (g : Guard) (hi : Bool) (d : Dst) (a : Src)
  | mset (g : Guard) (mrg : Bool) (d : Dst) (a : Src)
  | mget (g : Guard) (d : Dst) (a : Src)
  | brd (g : Guard) (n : Bool) (c : Src) (off : BitVec 33) (join : BitVec 33)
  | vote (g : Guard) (md : VoteMode) (d : Dst) (a : Src)
  | shfl (g : Guard) (md : ShflMode) (fill : Option Src) (d : Dst) (a b : Src)
  | lgather (g : Guard) (n : BitVec 3) (d : Dst) (a : BitVec 8) (b : Src)
  | bcast (g : Guard) (lane : Option Src) (d : Dst) (a : Src)
  | redw (g : Guard) (op : ROp) (ty : Ty) (d : Dst) (a b : Src)
  | scanw (g : Guard) (op : ROp) (ty : Ty) (ex : Bool) (d : Dst) (a : Src)
  | topk (g : Guard) (n : BitVec 3) (ty : Ty) (nf nz : Bool) (d a : BitVec 8) (b : Src)
  | merge (g : Guard) (ty : Ty) (d a b : BitVec 8)
  | sortw (g : Guard) (ty : Ty) (desc : Bool) (d a : BitVec 8)
  | gbar (g : Guard) (op : ROp) (ty : Ty) (slot : BitVec 2) (d : Dst) (a b : Src)
  | spawn (g : Guard) (cls : BitVec 4) (k : BitVec 2) (flush : Bool) (a : BitVec 8)
  | join (g : Guard) (a b : Src)
  | jadd (g : Guard) (d : Dst) (a b : Src)
  | regs (g : Guard) (a : Src)
  | launch (g : Guard) (d : Dst) (a : Src)
  -- Atomics, ordering, scratchpad, windows, queues (spec/14 R331)
  | atom (g : Guard) (op : AOp) (ord : AOrd) (d : Reg) (m : ScopeOp)
  | cas (g : Guard) (ord : AOrd) (d : Run) (m : ScopeOp)
  | cas2 (g : Guard) (ord : AOrd) (d : Run) (m : ScopeOp)
  | lda (g : Guard) (d : Dst) (m : ScopeOp)
  | stl (g : Guard) (d : Src) (m : ScopeOp)
  | phase (g : Guard) (kind : PhaseKind) (scope : BitVec 4)
  | cflush (g : Guard) (rl : Bool) (m : MemOp)
  | cinvl (g : Guard) (rl : Bool) (m : MemOp)
  | pref (g : Guard) (l2 : Bool) (m : MemOp)
  | lds (g : Guard) (fmt : Fmt) (d : Dst) (m : MemOp)
  | sts (g : Guard) (fmt : Fmt) (md : BitVec 3) (d : Src) (m : MemOp)
  | ldw (g : Guard) (sz : BitVec 2) (d : Dst) (m : MemOp)
  | stw (g : Guard) (sz : BitVec 2) (d : Src) (m : MemOp)
  | chbind (g : Guard) (kind : ChKind) (ch : BitVec 4) (a : Src)
  | enq (g : Guard) (try_ : Bool) (d : BitVec 8) (m : MemOp)
  | deq (g : Guard) (try_ : Bool) (d : BitVec 8) (m : MemOp)
  -- Sparse regions (spec/15 R364)
  | sld (g : Guard) (d : Dst) (h k : Src)
  | sst (g : Guard) (h k v : Src)
  | sadd (g : Guard) (op : SOp) (d : Dst) (h k v : Src)
  | sxch (g : Guard) (d : Dst) (h k v : Src)
  | scas (g : Guard) (d : Run) (h k : Src) (c : Run)
  | snext (g : Guard) (ge : Bool) (d : Run) (h k : Src)
  | sscan (g : Guard) (n : BitVec 5) (ge : Bool) (lim : Option Src) (d : BitVec 8) (h k : Src)
  | sstat (g : Guard) (what : StatWhat) (all : Bool) (d : Dst) (h x : Src)
  -- Copies and gauges (spec/16 R375)
  | cpy (g : Guard) (tg : Bool) (d : Dst) (dst src gauge : Src)
  | cpyg (g : Guard) (slot : BitVec 2) (tg : Bool) (d : Dst) (dst src gauge : Src)
  | cpym (g : Guard) (tg : Bool) (d : Dst) (dst src gauge : Src) (follow : Word)
  | cpyd (g : Guard) (d : Dst) (cd gauge : Src)
  | cpys (g : Guard) (d : Dst) (cd gauge : Src)
  | cpyx (g : Guard) (d : Dst) (job gauge : Src)
  | gwait (g : Guard) (d : Dst) (gauge t : Src)
  | gtest (g : Guard) (d : Dst) (gauge t : Src)
  | garm (g : Guard) (slot : BitVec 2) (gauge t h : Src)
  | gdis (g : Guard) (slot : BitVec 2) (d : Dst)
  | cpyq (g : Guard) (d : Dst) (k : Src)
  | cpyqCancel (g : Guard) (d : Dst) (k : Src)
  -- The matrix engine (spec/17 R416)
  | tshape (g : Guard) (t x : Src)
  | tld (g : Guard) (t r : Src)
  | tst (g : Guard) (t r : Src)
  | mma (g : Guard) (pair : Pair) (set blk : Bool) (acc : BitVec 3) (ta tb : Src)
  | sacc (g : Guard) (f32 : Bool) (ad ap : BitVec 3) (sa sb : Src)
  | acq (g : Guard) (acc : BitVec 3)
  | rel (g : Guard) (acc : BitVec 3)
  | accout (g : Guard) (of : OutFmt) (rm : BitVec 3) (acc : BitVec 3) (off gauge desc : Src)
  | accz (g : Guard) (i32 : Bool) (acc : BitVec 3)
  | mfence (g : Guard) (d : Dst)
  | mwait (g : Guard) (n : Src)
  | cbld (g : Guard) (off : Src)
  -- Privileged instructions (spec/20, 21, 23, 24)
  | sret (m : Src)
  | sretHost (m : Src)
  | pmap (g : Guard) (any : Bool) (d : Dst) (a b : Src)
  | pmapAttr (g : Guard) (d : Dst) (a b : Src)
  | pmapUnmap (g : Guard) (d : Dst) (a : Src)
  | pinv (g : Guard) (sz : PageSz) (a : Src)
  | pinvAll (g : Guard)
  | pmigStart (d : Dst) (a b : Src)
  | pmigStat (d : Dst) (a : Src)
  | icinvLine (a : Src)
  | icinvPage (a : Src)
  | icinvAsid
  | rdctlShb (w : Option Src) (d : Dst)
  | rdctlItab (w : Option Src) (d : Dst)
  | rdctlRbase (w : Option Src) (d : Dst)
  | rdctlRsize (w : Option Src) (d : Dst)
  | rdctlCtl (w : Option Src) (d : Dst)
  | rdctlRhead (w : Option Src) (d : Dst)
  | rdctlRtail (w : Option Src) (d : Dst)
  | rdctlRdrop (w : Option Src) (d : Dst)
  | sdeclCreate (g : Guard) (d : Dst) (a b : Src)
  | sdeclGrow (g : Guard) (d : Dst) (a b : Src)
  | sdeclRetire (g : Guard) (d : Dst) (a : Src)
  | gtblSpill (g : Guard) (d : Dst) (a b : Src)
  | gtblCont (g : Guard) (d : Dst) (a b : Src)
  -- The repeat prefix and the unassigned encodings (spec/03 R77, R87)
  | rep (count : BitVec 6) (ds as bs cs : BitVec 4)
  | unassignedOpcode (w : Word)
  -- Steps of the device. A warp is named by its number in the model's list, a core by its place.
  | comparatorBreakpoint (w : Nat)
  | spawnBinTimeout (die bin : Nat)
  | submissionLine (die : Nat)
  | warpDispatch (die rec : Nat) (p : Pos) (slot : Nat)
  | warpRetirement (w : Nat)
  | loadCompletion (w : Nat)
  | rowGrant (p : Pos) (quad : Nat)
  | eviction (p : Pos) (quad : Nat)
  | gbarWaitYield (w : Nat)
  | agingPromotion (die rec : Nat)
  | timeSliceExpiry (p : Pos)
  | contextStreamOut (p : Pos) (asid : Nat)
  | contextRestore (p : Pos) (asid : Nat)
  | copyBegin (p : Pos) (slot : Nat)
  | copyTransfer (p : Pos) (slot n : Nat)
  | copyCompletion (p : Pos) (slot : Nat)
  | copyFaultDelivery (w : Nat)
  | decoderOutput (p : Pos) (job : Nat)
  | decoderJobEnd (p : Pos) (job : Nat)
  | alarmDelivery (w : Nat)
  | mmaExecution (p : Pos)
  | saccExecution (p : Pos)
  | acczExecution (p : Pos)
  | accoutExecution (p : Pos)
  | matrixNanTrapDelivery (w : Nat)
  | nanTrapDelivery (w : Nat)
  | sparseEngineOperation (eng : Nat)
  | nodeReclamation (eng : Nat)
  | watchdogExpiry (w : Nat)
  | lostWriteMachineCheck (w addr : Nat)
  | migrationLineMove (id : Nat)
  | migrationCompletion (id : Nat)
  | hostCxlMemRead (addr : Nat)
  | hostCxlMemWrite (addr : Nat) (data : List Byte)
  | hostSnoopResponse (line : Nat)
  | enqPortWrite (fn q : Nat) (data : List Word)
  | deqPortRead (fn q : Nat)
  | contextLive (fn asid : Nat)
  | contextEnd (asid : Nat)
  | hostWaitResume (asid id : Nat)
  | hostWaitSkip (asid id : Nat)
  | hostWaitExit (asid id : Nat)
  | hostWaitReenter (asid id : Nat)
  | fpoolWrite (die frame : Nat)
  | fretWrite (w : Word)
  | frameFillCompletion (frame : Nat)
  | devnumWrite (n : Nat)
  | scrivenerMailboxRequest (fn asid addr size : Nat) (base : Nat)
  | hubRegisterWrite (fn addr : Nat) (acc : HubAcc)
  | bltctlWrite (w : Word)
  | blotiRisingEdge
  | bltcmpMatch
  | lockInterfaceRequest (vf : Nat)
  | startInterfaceRequest (vf : Nat)
  | stopInterfaceRequest (vf : Nat)
  | interfaceBreach (vf : Nat)
  | coldReset
  | warmReset
  | functionLevelReset (vf : Nat)
  | dvfsPointSelect (die point : Nat)
  | powerTrip
  | thermalLimit (die : Nat)
  | thermtrip
  | dieLinkRetrain (link : Nat)
  | scaleupRequestTimeout (w : Nat)
  | deviceUnreachable (dev : Nat)
  | linkRecalibration (link : Nat)
  | patrolScrub (line : Nat)
  | dramRefresh (die bank : Nat)
  | telemetrySample
  | remoteDeviceRequest (dev : Nat) (op : RemoteOp)
  | flitResend (link : Nat)
  | dieLinkRetrainComplete (link : Nat)
  | scaleUpRouteTrained (dev : Nat)
  | firmwareCoreAccess (core : Nat) (acc : FwAccess)
  | blotoPulseEnd
  deriving DecidableEq, Repr

end Sys2Proof
end

