-- ==== Sys2Proof/WellFormed.lean ====
section
/-! DEFINITION. Which instruction terms the encoding admits (spec/03 R64, R67, R68, R75, and the
encoding tables of each instruction's chapter). A term that is not well-formed has no word; the
checks on data (allotment, tags, values) are made by the machine. -/

namespace Sys2Proof

/-- The tags a literal may name (R68): 0x0-0x4 and 0x7-0xC. -/
def Tag.litOk : Tag → Bool
  | .fwd => false
  | .tile => false
  | _ => true

/-- GRD = 0 with GNG = 1 is refused (R75). -/
def Guard.wf (g : Guard) : Bool := g.m != 0#3 || !g.neg

/-- No guard (R62). -/
def Guard.always : Guard := ⟨0#3, false⟩

def Src.isLit : Src → Bool
  | .lit _ _ => true
  | _ => false

def Src.wf : Src → Bool
  | .lit t _ => t.litOk
  | _ => true

/-- The operands of one instruction: every literal tag is allowed and at most one field names the
literal (R68). -/
def srcsWf (l : List Src) : Bool := l.all Src.wf && (l.filter Src.isLit).length ≤ 1

/-- The same where the description allows no literal. -/
def srcsNoLit (l : List Src) : Bool := l.all fun s => !s.isLit

/-- A scalar destination (R207): a scalar register or zr. -/
def Dst.isScalar : Dst → Bool
  | .reg (.s _) => true
  | .reg .zr => true
  | _ => false

/-- A scalar destination of two registers (R207, R376): s0 to s62. -/
def Dst.isScalarPair : Dst → Bool
  | .reg (.s n) => n != 63#6
  | _ => false

/-- A mask destination (R207). A tile register is refused when the instruction issues (R17). -/
def Dst.isMask : Dst → Bool
  | .reg (.m _) => true
  | .reg (.t _) => true
  | .reg (.s _) => true
  | .reg .zr => true
  | _ => false

/-- The destination of an instruction that runs as Vector (R206): anything but a scalar or mask register. A tile register is
refused when the instruction issues (R17). DEDUCED, log 21. -/
def Dst.isVector : Dst → Bool
  | .reg (.v _) => true
  | .reg (.t _) => true
  | .reg .zr => true
  | .nowb => true
  | .chan _ => true
  | _ => false

/-- A destination that makes the instruction execute once (R70). -/
def Dst.isOnce : Dst → Bool
  | .reg (.s _) => true
  | .reg (.m _) => true
  | _ => false

/-- A destination for per-lane or scalar data: a vector or scalar register, ^ or zr (R455). A tile register is refused when
the instruction issues (R17). -/
def Dst.isData : Dst → Bool
  | .reg (.v _) => true
  | .reg (.t _) => true
  | .reg (.s _) => true
  | .reg .zr => true
  | .nowb => true
  | _ => false

/-- A tile operand is no channel (R409). -/
def Src.tileOk : Src → Bool
  | .chan _ _ => false
  | _ => true

/-- A field that must be zero names v0 (R64). -/
def Src.isZeroField (s : Src) : Bool := s == .reg (.v 0#8)

/-- A scalar source by its form (R70): not a vector register and not a latch or channel, whose shape
only the machine knows. -/
def Src.isScalarReg : Src → Bool
  | .reg (.s _) => true
  | .reg (.m _) => true
  | .reg (.t _) => true
  | .reg .zr => true
  | .lit _ _ => true
  | _ => false

def Fmt.isInt : Fmt → Bool
  | .i8 | .n8 | .i16 | .n16 | .i32 | .n32 => true
  | _ => false

/-- EF of PACK and UNPK (R154): 2 to 13. -/
def Fmt.packOk : Fmt → Bool
  | .i64 | .f64 | .ts | .raw => false
  | _ => true

/-- The mode field of STT and STS (R173, R339) and of PACK (R154, where `sr` is allowed). -/
def storeModeOk (f : Fmt) (md : BitVec 3) (sr : Bool) : Bool :=
  match f with
  | .ts | .raw => md == 0#3
  | .i8 | .n8 | .i16 | .n16 | .i32 | .n32 => md == 0#3 || md == 1#3
  | _ => md != 6#3 && (sr || md != 5#3)

/-- OP and TY combinations of R217. -/
def ROp.okFor (op : ROp) (ty : Ty) : Bool :=
  match op, ty with
  | .add, .ts => false
  | .and, .i => true
  | .or, .i => true
  | .xor, .i => true
  | .and, _ => false
  | .or, _ => false
  | .xor, _ => false
  | _, _ => true

def ROp.isArg : ROp → Bool
  | .argmin | .argmax => true
  | _ => false

/-- ORD and scope of the atomics (R332). -/
def scopeOk (sc : BitVec 4) : Bool := decide (2 ≤ sc.toNat ∧ sc.toNat ≤ 8)

def ordScopeOk (o : AOrd) (sc : BitVec 4) : Bool :=
  match o with
  | .none => sc == 0#4
  | _ => scopeOk sc

def OutFmt.converts : OutFmt → Bool
  | .bf16 | .f16 | .e4m3 | .e5m2 => true
  | _ => false

def Reg.isAtomDst : Reg → Bool
  | .v _ | .s _ | .zr => true
  | _ => false

def MemOp.srcs (m : MemOp) : List Src := [m.base, m.idx]

/-- The operand of a write of RDCTL (R477), and the bound of SSCAN (R369), when there is one. -/
def optWf : Option Src → Bool
  | none => true
  | some s => s.wf

/-- A source field that R67 lists, the literal apart. -/
def srcFieldWf (f : BitVec 11) : Bool :=
  let n := f.toNat
  decide (n < 0x148 ∨ (0x180 ≤ n ∧ n < 0x1A0) ∨ n = 0x1FF ∨ (0x200 ≤ n ∧ n < 0x208) ∨ (0x400 ≤ n ∧ n < 0x410) ∨
    (0x600 ≤ n ∧ n < 0x610))

/-- The follow-on word of CPYM (R375, R389): a word of MMA or SACC (R416, R419) with GRD, GNG and LX zero. -/
def followWf (w : Word) : Bool :=
  let d := (w.extractLsb' 41 11).toNat
  let a := w.extractLsb' 30 11
  let b := w.extractLsb' 19 11
  let c := w.extractLsb' 8 11
  let md := (w.extractLsb' 1 7).toNat
  w.extractLsb' 53 3 == 0#3 && w.extractLsb' 52 1 == 0#1 && w.extractLsb' 0 1 == 0#1 && decide (d < 8) &&
    ((w.extractLsb' 56 8 == 0xD3#8 && decide (md < 64 ∧ md % 16 ≤ 8) && c == 0#11 && srcFieldWf a && srcFieldWf b) ||
      (w.extractLsb' 56 8 == 0xD4#8 && decide (md < 2 ∧ a.toNat < 8) && srcFieldWf b && srcFieldWf c))

/-- The encoding admits the instruction. Device steps carry plain numbers and are always admitted. -/
def Instr.wf : Instr → Bool
  | .add g _ a b | .sub g _ a b | .mul g _ a b | .div g _ a b | .idiv g _ a b | .mod g _ a b
  | .min g _ a b | .max g _ a b | .ceq g _ a b | .cne g _ a b | .clt g _ a b | .cle g _ a b
  | .tagsetDyn g _ a b | .tagis g _ a b
  | .and g _ a b | .or g _ a b | .xor g _ a b | .andn g _ a b | .rol g _ a b
  | .imin g _ a b | .imax g _ a b | .nmin g _ a b | .nmax g _ a b
  | .hash g _ a b | .rndu g _ a b | .alloc g _ a b => g.wf && srcsWf [a, b]
  | .neg g _ a | .abs g _ a | .truth g _ a | .tagof g _ a | .mov g _ a
  | .not g _ a | .popc g _ a | .clz g _ a | .ctz g _ a | .brev g _ a => g.wf && srcsWf [a]
  | .tagset g _ _ a => g.wf && srcsWf [a]
  | .iadd g _ _ a b | .isub g _ _ a b | .imul g _ _ a b => g.wf && srcsWf [a, b]
  | .imulh g _ _ a b | .idivt g _ _ a b | .iremt g _ _ a b
  | .shl g _ _ a b | .shr g _ _ a b | .sar g _ _ a b | .bfx g _ _ a b => g.wf && srcsWf [a, b]
  | .icmp g _ _ a b => g.wf && srcsWf [a, b]
  | .imad g _ _ a b c => g.wf && srcsWf [a, b, c]
  | .bfi g _ a b c => g.wf && srcsWf [a, b, c]
  | .sel g _ _ a b c => g.wf && srcsWf [a, b, c]
  | .lea g _ _ a b c => g.wf && srcsWf [a, b, c]
  | .fadd g _ rm _ a b | .fsub g _ rm _ a b | .fmul g _ rm _ a b | .fdiv g _ rm _ a b =>
      g.wf && rm != .sr && srcsWf [a, b]
  | .ffma g _ rm _ a b c => g.wf && rm != .sr && srcsWf [a, b, c]
  | .fsqrt g _ rm _ a | .frnd g _ rm _ a => g.wf && rm != .sr && srcsWf [a]
  | .fmin g _ _ a b | .fmax g _ _ a b => g.wf && srcsWf [a, b]
  | .fcmp g _ _ _ a b => g.wf && srcsWf [a, b]
  | .fabs g _ _ a | .fneg g _ _ a | .log2 g _ _ a | .exp2 g _ _ a | .rcp g _ _ a | .rsq g _ _ a
  | .sin g _ _ a | .cos g _ _ a => g.wf && srcsWf [a]
  | .cvt g df _ _ a => g.wf && df != .ts && df != .raw && srcsWf [a]
  | .pack g ef md _ _ => g.wf && ef.packOk && storeModeOk ef md true
  | .unpk g ef w _ a => g.wf && ef.packOk && !(ef.isInt && w) && srcsWf [a]
  | .k8dec g _ _ _ a => g.wf && srcsWf [a]
  | .jmp g _ | .loopd g _ _ | .exit g | .nop g | .bkpt g => g.wf
  | .br g _ c _ => g.wf && srcsNoLit [c]
  | .call g l _ => g.wf && l.isScalar
  | .callr g l t => g.wf && l.isScalar && srcsWf [t]
  | .ret g t => g.wf && srcsWf [t]
  | .ld g ln _ d m => g.wf && !(ln && d.isOnce) && srcsWf m.srcs
  | .st g ln d m => g.wf && !(ln && d.isScalarReg) && srcsWf (d :: m.srcs)
  | .ldt g f _ m => g.wf && f != .raw && srcsWf m.srcs
  | .stt g f md d m => g.wf && f != .raw && storeModeOk f md false && srcsWf (d :: m.srcs)
  | .hld g _ m => g.wf && srcsWf m.srcs
  | .hst g d m => g.wf && srcsWf (d :: m.srcs)
  | .ldl g _ _ _ m => g.wf && srcsWf m.srcs
  | .trap g a | .sysc g a | .snap g a => g.wf && srcsWf [a]
  | .hret a => srcsWf [a]
  | .mfs g _ sr => g.wf && decide (sr.toNat < 40)
  | .mts g a sr => g.wf && decide (sr.toNat < 40) && srcsWf [a]
  | .mand g d a b | .mor g d a b | .mxor g d a b => g.wf && d.isMask && srcsWf [a, b]
  | .mnot g d a => g.wf && d.isMask && srcsWf [a]
  | .mpopc g d a => g.wf && d.isScalar && srcsWf [a]
  | .mffs g _ d a => g.wf && d.isScalar && srcsWf [a]
  | .mset g _ d a => g.wf && d.isMask && srcsWf [a]
  | .mget g d a => g.wf && d.isVector && srcsWf [a]
  | .brd g _ c _ _ => g.wf && srcsNoLit [c]
  | .vote g _ d a => g.wf && d.isScalar && srcsWf [a]
  | .shfl g _ fill d a b => g.wf && d.isVector && srcsWf (a :: b :: fill.toList)
  | .lgather g _ d _ b => g.wf && d.isVector && srcsWf [b]
  | .bcast g lane d a => g.wf && d.isScalar && srcsWf (a :: lane.toList)
  | .redw g op ty d a b => g.wf && op.okFor ty && srcsWf [a, b] &&
      (if op.isArg then d.isScalarPair else d.isScalar && b.isZeroField)
  | .scanw g op ty _ d a => g.wf && !op.isArg && op.okFor ty && d.isVector && srcsWf [a]
  | .topk g _ _ _ _ _ _ b => g.wf && srcsWf [b]
  | .merge g ty _ _ _ => g.wf && ty != .f32
  | .sortw g _ _ _ _ => g.wf
  | .gbar g op ty _ d a b => g.wf && op.okFor ty && srcsWf [a, b] &&
      (if op.isArg then d.isScalarPair else d.isScalar && b.isZeroField)
  | .spawn g _ _ _ _ => g.wf
  | .join g a b => g.wf && srcsWf [a, b]
  | .jadd g d a b => g.wf && d.isScalar && srcsWf [a, b]
  | .regs g a => g.wf && srcsWf [a]
  | .launch g d a => g.wf && d.isScalar && srcsWf [a]
  | .atom g _ o d m => g.wf && d.isAtomDst && ordScopeOk o m.scope && srcsWf [m.base]
  | .cas g o _ m | .cas2 g o _ m => g.wf && ordScopeOk o m.scope && srcsWf [m.base]
  | .lda g _ m => g.wf && scopeOk m.scope && srcsWf [m.base]
  | .stl g d m => g.wf && scopeOk m.scope && srcsWf [d, m.base]
  | .phase g _ sc => g.wf && scopeOk sc
  | .cflush g _ m | .cinvl g _ m | .pref g _ m => g.wf && srcsWf m.srcs
  | .lds g _ _ m => g.wf && srcsWf m.srcs
  | .sts g f md d m => g.wf && storeModeOk f md false && srcsWf (d :: m.srcs)
  | .ldw g _ _ m => g.wf && srcsWf m.srcs
  | .stw g _ d m => g.wf && srcsWf (d :: m.srcs)
  | .chbind g _ _ a => g.wf && srcsWf [a]
  | .enq g _ _ m | .deq g _ _ m => g.wf && srcsWf m.srcs
  | .sld g _ h k => g.wf && srcsWf [h, k]
  | .sst g h k v => g.wf && srcsWf [h, k, v]
  | .sadd g _ _ h k v | .sxch g _ h k v => g.wf && srcsWf [h, k, v]
  | .scas g _ h k _ => g.wf && srcsWf [h, k]
  | .snext g _ _ h k => g.wf && srcsWf [h, k]
  | .sscan g _ _ lim _ h k => g.wf && srcsWf (h :: k :: lim.toList)
  | .sstat g what all _ h s => g.wf && srcsWf [h, s] && !(all && (what == .eng || !s.isZeroField))
  | .cpy g _ d x y z | .cpyg g _ _ d x y z => g.wf && d.isScalar && srcsNoLit [x, y, z]
  | .cpym g _ d x y z f => g.wf && d.isScalar && srcsNoLit [x, y, z] && followWf f
  | .cpyd g d x y | .cpys g d x y | .cpyx g d x y => g.wf && d.isScalar && srcsNoLit [x, y]
  | .gwait g d x y | .gtest g d x y => g.wf && d.isScalar && srcsWf [x, y]
  | .garm g _ x y z => g.wf && srcsWf [x, y, z]
  | .gdis g _ d => g.wf && d.isScalar
  | .cpyq g d k | .cpyqCancel g d k => g.wf && d.isScalarPair && srcsWf [k]
  | .tshape g t s => g.wf && srcsWf [t, s] && t.tileOk
  | .tld g t r | .tst g t r => g.wf && srcsWf [t, r] && t.tileOk
  | .mma g _ _ _ _ x y => g.wf && srcsWf [x, y] && x.tileOk && y.tileOk
  | .sacc g _ _ _ x y => g.wf && srcsWf [x, y]
  | .acq g _ | .rel g _ | .accz g _ _ => g.wf
  | .accout g of_ rm _ x y z => g.wf && srcsWf [x, y, z] &&
      (if of_.converts then rm != 6#3 else rm == 0#3)
  | .mfence g d => g.wf && d.isScalar
  | .mwait g n => g.wf && srcsWf [n]
  | .cbld g o => g.wf && srcsWf [o]
  | .sret m | .sretHost m => srcsWf [m]
  | .pmap g _ d a b | .pmapAttr g d a b => g.wf && d.isData && srcsWf [a, b]
  | .pmapUnmap g d a => g.wf && d.isData && srcsWf [a]
  | .pinv g _ a => g.wf && srcsWf [a]
  | .pinvAll g => g.wf
  | .pmigStart d a b => d.isScalar && srcsWf [a, b]
  | .pmigStat d a => d.isScalar && srcsWf [a]
  | .icinvLine a | .icinvPage a => srcsWf [a]
  | .icinvAsid => true
  | .rdctlShb w d | .rdctlItab w d | .rdctlRbase w d | .rdctlRsize w d | .rdctlCtl w d
  | .rdctlRhead w d | .rdctlRtail w d | .rdctlRdrop w d => d.isScalar && optWf w
  | .sdeclCreate g _ a b | .sdeclGrow g _ a b => g.wf && srcsWf [a, b]
  | .sdeclRetire g _ a => g.wf && srcsWf [a]
  | .gtblSpill g _ a b | .gtblCont g _ a b => g.wf && srcsWf [a, b]
  | .rep _ _ _ _ _ => true
  | .unassignedOpcode _ => false
  | .comparatorBreakpoint _ | .spawnBinTimeout _ _ | .submissionLine _ | .warpDispatch _ _ _ _
  | .warpRetirement _ | .loadCompletion _ | .rowGrant _ _ | .eviction _ _ | .gbarWaitYield _
  | .agingPromotion _ _ | .timeSliceExpiry _ | .contextStreamOut _ _ | .contextRestore _ _
  | .copyBegin _ _ | .copyTransfer _ _ _ | .copyCompletion _ _ | .copyFaultDelivery _
  | .decoderOutput _ _ | .decoderJobEnd _ _ | .alarmDelivery _ | .mmaExecution _
  | .saccExecution _ | .acczExecution _ | .accoutExecution _ | .matrixNanTrapDelivery _
  | .nanTrapDelivery _ | .sparseEngineOperation _ | .nodeReclamation _ | .watchdogExpiry _
  | .lostWriteMachineCheck _ _ | .migrationLineMove _ | .migrationCompletion _
  | .hostCxlMemRead _ | .hostCxlMemWrite _ _ | .hostSnoopResponse _ | .enqPortWrite _ _ _
  | .deqPortRead _ _ | .contextLive _ _ | .contextEnd _ | .hostWaitResume _ _ | .hostWaitSkip _ _
  | .hostWaitExit _ _ | .hostWaitReenter _ _ | .fpoolWrite _ _ | .fretWrite _
  | .frameFillCompletion _ | .devnumWrite _ | .scrivenerMailboxRequest _ _ _ _ _
  | .hubRegisterWrite _ _ _ | .bltctlWrite _ | .blotiRisingEdge | .bltcmpMatch
  | .lockInterfaceRequest _ | .startInterfaceRequest _ | .stopInterfaceRequest _
  | .interfaceBreach _ | .coldReset | .warmReset | .functionLevelReset _ | .dvfsPointSelect _ _
  | .powerTrip | .thermalLimit _ | .thermtrip | .dieLinkRetrain _ | .scaleupRequestTimeout _
  | .deviceUnreachable _ | .linkRecalibration _ | .patrolScrub _ | .dramRefresh _ _
  | .telemetrySample | .remoteDeviceRequest _ _ | .flitResend _ | .dieLinkRetrainComplete _
  | .scaleUpRouteTrained _ | .firmwareCoreAccess _ _ | .blotoPulseEnd => true

/-- The instruction stands in an instruction word: not a device step, and not an encoding that level
2.0 leaves unassigned. -/
def Instr.isWord : Instr → Bool
  | .unassignedOpcode _ => false
  | .comparatorBreakpoint _ | .spawnBinTimeout _ _ | .submissionLine _ | .warpDispatch _ _ _ _
  | .warpRetirement _ | .loadCompletion _ | .rowGrant _ _ | .eviction _ _ | .gbarWaitYield _
  | .agingPromotion _ _ | .timeSliceExpiry _ | .contextStreamOut _ _ | .contextRestore _ _
  | .copyBegin _ _ | .copyTransfer _ _ _ | .copyCompletion _ _ | .copyFaultDelivery _
  | .decoderOutput _ _ | .decoderJobEnd _ _ | .alarmDelivery _ | .mmaExecution _
  | .saccExecution _ | .acczExecution _ | .accoutExecution _ | .matrixNanTrapDelivery _
  | .nanTrapDelivery _ | .sparseEngineOperation _ | .nodeReclamation _ | .watchdogExpiry _
  | .lostWriteMachineCheck _ _ | .migrationLineMove _ | .migrationCompletion _
  | .hostCxlMemRead _ | .hostCxlMemWrite _ _ | .hostSnoopResponse _ | .enqPortWrite _ _ _
  | .deqPortRead _ _ | .contextLive _ _ | .contextEnd _ | .hostWaitResume _ _ | .hostWaitSkip _ _
  | .hostWaitExit _ _ | .hostWaitReenter _ _ | .fpoolWrite _ _ | .fretWrite _
  | .frameFillCompletion _ | .devnumWrite _ | .scrivenerMailboxRequest _ _ _ _ _
  | .hubRegisterWrite _ _ _ | .bltctlWrite _ | .blotiRisingEdge | .bltcmpMatch
  | .lockInterfaceRequest _ | .startInterfaceRequest _ | .stopInterfaceRequest _
  | .interfaceBreach _ | .coldReset | .warmReset | .functionLevelReset _ | .dvfsPointSelect _ _
  | .powerTrip | .thermalLimit _ | .thermtrip | .dieLinkRetrain _ | .scaleupRequestTimeout _
  | .deviceUnreachable _ | .linkRecalibration _ | .patrolScrub _ | .dramRefresh _ _
  | .telemetrySample | .remoteDeviceRequest _ _ | .flitResend _ | .dieLinkRetrainComplete _
  | .scaleUpRouteTrained _ | .firmwareCoreAccess _ _ | .blotoPulseEnd => false
  | _ => true

end Sys2Proof
end

