-- ==== Sys2Proof/Decode.lean ====
section
/-! DEFINITION. Instruction words (spec/03): the fields of a word, the operand fields, the decoder of
one word with its literal, and the encoder written from the same tables. Total: what level 2.0 does
not assign is refused by name, and an unassigned opcode is an instruction of its own (R87). -/

namespace Sys2Proof

/-- Why a word is no level-2.0 instruction (R64, R67, R68, R75, R87). -/
inductive DecodeError where
  | unusedField   -- a field the instruction does not use is not zero (R64)
  | operandField  -- an operand encoding that R67 does not list, or that the form refuses
  | modValue      -- a MOD value the instruction does not define (R64)
  | literalRule   -- a breach of R68
  | guardField    -- GRD = 0 with GNG = 1 (R75), or a guard where none is allowed
  | registerNumber -- a reserved special register number (R160)
  | truncated     -- fewer bytes than the word and its literal need
  deriving DecidableEq, Repr

/-- The fields of an instruction word (R62, R63). Formats A, M and B share their boundaries: in format
M field c is SC and DISP, in format B field d is A and a, b, c together are OFF. -/
structure Raw where
  op : BitVec 8
  grd : BitVec 3
  gng : BitVec 1
  d : BitVec 11
  a : BitVec 11
  b : BitVec 11
  c : BitVec 11
  md : BitVec 7
  lx : BitVec 1
  lit : Word
  deriving DecidableEq, Repr

/-- The fields of word `w` followed by literal word `lit` (R62, R63). -/
def Raw.ofWord (w lit : Word) : Raw where
  op := w.extractLsb' 56 8
  grd := w.extractLsb' 53 3
  gng := w.extractLsb' 52 1
  d := w.extractLsb' 41 11
  a := w.extractLsb' 30 11
  b := w.extractLsb' 19 11
  c := w.extractLsb' 8 11
  md := w.extractLsb' 1 7
  lx := w.extractLsb' 0 1
  lit := lit

/-- The instruction word that holds the fields (R62, R63). -/
def Raw.toWord (r : Raw) : Word :=
  r.op ++ r.grd ++ r.gng ++ r.d ++ r.a ++ r.b ++ r.c ++ r.md ++ r.lx

/-- Tag codes of R11. -/
def Tag.toNat : Tag → Nat
  | .int => 0 | .f64 => 1 | .f32 => 2 | .raw => 3 | .ref => 4 | .fwd => 5 | .tile => 6
  | .sym => 7 | .ts => 8 | .bool => 9 | .nil => 10 | .code => 11 | .hdr => 12

/-- The tag of a code; none for the reserved codes 0xD to 0xF (R11, R14). -/
def Tag.ofNat? : Nat → Option Tag
  | 0 => some .int | 1 => some .f64 | 2 => some .f32 | 3 => some .raw | 4 => some .ref
  | 5 => some .fwd | 6 => some .tile | 7 => some .sym | 8 => some .ts | 9 => some .bool
  | 10 => some .nil | 11 => some .code | 12 => some .hdr | _ => none

/-- A register's code in bits 8:0 (R16, R67). -/
def Reg.enc : Reg → BitVec 11
  | .v n => 0#3 ++ n
  | .s n => 0b00100#5 ++ n
  | .m n => 0b00101000#8 ++ n
  | .t n => 0b001100#6 ++ n
  | .zr => 0x1FF#11

/-- A register field (R67, K = 0, LT = 0). -/
def Reg.dec (f : BitVec 11) : Option Reg :=
  let n := f.toNat
  if n < 0x100 then some (.v (f.extractLsb' 0 8))
  else if n < 0x140 then some (.s (f.extractLsb' 0 6))
  else if n < 0x148 then some (.m (f.extractLsb' 0 3))
  else if 0x180 ≤ n ∧ n < 0x1A0 then some (.t (f.extractLsb' 0 5))
  else if n = 0x1FF then some .zr
  else none

/-- A source field (R67, R68). -/
def Src.enc : Src → BitVec 11
  | .reg r => r.enc
  | .latch k => 0b01000000#8 ++ k
  | .chan p n => (if p then 0b1100000#7 else 0b1000000#7) ++ n
  | .lit t _ => 0b1011111#7 ++ BitVec.ofNat 4 t.toNat

def Src.dec (f : BitVec 11) (lit : Word) : Except DecodeError Src :=
  let n := f.toNat
  match Reg.dec f with
  | some r => .ok (.reg r)
  | none =>
    if 0x200 ≤ n ∧ n < 0x208 then .ok (.latch (f.extractLsb' 0 3))
    else if 0x400 ≤ n ∧ n < 0x410 then .ok (.chan false (f.extractLsb' 0 4))
    else if 0x600 ≤ n ∧ n < 0x610 then .ok (.chan true (f.extractLsb' 0 4))
    else if 0x5F0 ≤ n ∧ n < 0x600 then
      match Tag.ofNat? (n - 0x5F0) with
      | some t => if t.litOk then .ok (.lit t lit) else .error .literalRule
      | none => .error .literalRule
    else .error .operandField

/-- A destination field (R67). -/
def Dst.enc : Dst → BitVec 11
  | .reg r => r.enc
  | .nowb => 0x200#11
  | .chan n => 0b1000000#7 ++ n

def Dst.dec (f : BitVec 11) : Except DecodeError Dst :=
  let n := f.toNat
  match Reg.dec f with
  | some r => .ok (.reg r)
  | none =>
    if n = 0x200 then .ok .nowb
    else if 0x400 ≤ n ∧ n < 0x410 then .ok (.chan (f.extractLsb' 0 4))
    else .error .operandField

/-- The first register of a run (R130). -/
def Run.enc : Run → BitVec 11
  | .v n => (Reg.v n).enc
  | .s n => (Reg.s n).enc

def Run.dec (f : BitVec 11) : Except DecodeError Run :=
  match Reg.dec f with
  | some (.v n) => .ok (.v n)
  | some (.s n) => .ok (.s n)
  | _ => .error .operandField

/-- A field that must name a vector register. -/
def vregDec (f : BitVec 11) : Except DecodeError (BitVec 8) :=
  match Reg.dec f with
  | some (.v n) => .ok n
  | _ => .error .operandField

def Src.litWord : Src → Word
  | .lit _ w => w
  | _ => 0#64

/-- The literal word of an operand list: that of the one operand that names it (R68). -/
def litOf : List Src → Word
  | [] => 0#64
  | s :: l => if s.isLit then s.litWord else litOf l

def lxOf (l : List Src) : BitVec 1 := if l.any Src.isLit then 1#1 else 0#1

/-- LX is 1 exactly when one field names the literal (R68). -/
def litRule (r : Raw) (l : List Src) : Except DecodeError Unit :=
  if (l.filter Src.isLit).length ≤ 1 ∧ r.lx = lxOf l then .ok () else .error .literalRule

/-- A field the instruction does not use (R64). -/
def zeroField (f : BitVec 11) : Except DecodeError Unit :=
  if f = 0#11 then .ok () else .error .unusedField

def modIs (r : Raw) (n : Nat) : Except DecodeError Unit :=
  if r.md.toNat = n then .ok () else .error .modValue

def modBelow (r : Raw) (n : Nat) : Except DecodeError Unit :=
  if r.md.toNat < n then .ok () else .error .modValue

def orMod {α : Type} : Option α → Except DecodeError α
  | some x => .ok x
  | none => .error .modValue

def check (b : Bool) (e : DecodeError) : Except DecodeError Unit :=
  if b then .ok () else .error e

def guardDec (r : Raw) : Except DecodeError Guard :=
  if r.grd = 0#3 ∧ r.gng = 1#1 then .error .guardField
  else .ok ⟨r.grd, r.gng = 1#1⟩

def noGuard (r : Raw) : Except DecodeError Unit :=
  if r.grd = 0#3 ∧ r.gng = 0#1 then .ok () else .error .guardField

/-! ### MOD sub-fields -/

def bitN (n k : Nat) : Bool := n / 2 ^ k % 2 = 1

def Ov.code : Ov → Nat
  | .wrap => 0 | .ss => 1 | .us => 2
def Ov.ofCode : Nat → Option Ov
  | 0 => some .wrap | 1 => some .ss | 2 => some .us | _ => none

def Cnd.code : Cnd → Nat
  | .eq => 0 | .ne => 1 | .lt => 2 | .le => 3 | .gt => 4 | .ge => 5 | .ltu => 6 | .leu => 7
def Cnd.ofCode : Nat → Option Cnd
  | 0 => some .eq | 1 => some .ne | 2 => some .lt | 3 => some .le | 4 => some .gt
  | 5 => some .ge | 6 => some .ltu | 7 => some .leu | _ => none

def FCnd.code : FCnd → Nat
  | .eq => 0 | .ne => 1 | .lt => 2 | .le => 3 | .gt => 4 | .ge => 5 | .un => 6 | .ord => 7
def FCnd.ofCode : Nat → Option FCnd
  | 0 => some .eq | 1 => some .ne | 2 => some .lt | 3 => some .le | 4 => some .gt
  | 5 => some .ge | 6 => some .un | 7 => some .ord | _ => none

def Rm.code : Rm → Nat
  | .rne => 0 | .rtz => 1 | .rdn => 2 | .rup => 3 | .rna => 4 | .sr => 5 | .dyn => 7
def Rm.ofCode : Nat → Option Rm
  | 0 => some .rne | 1 => some .rtz | 2 => some .rdn | 3 => some .rup | 4 => some .rna
  | 5 => some .sr | 7 => some .dyn | _ => none

def Fmt.code : Fmt → Nat
  | .i64 => 0 | .f64 => 1 | .f32 => 2 | .f16 => 3 | .bf16 => 4 | .e4m3 => 5 | .e5m2 => 6
  | .e8m0 => 7 | .i8 => 8 | .n8 => 9 | .i16 => 10 | .n16 => 11 | .i32 => 12 | .n32 => 13
  | .ts => 14 | .raw => 15
def Fmt.ofCode : Nat → Option Fmt
  | 0 => some .i64 | 1 => some .f64 | 2 => some .f32 | 3 => some .f16 | 4 => some .bf16
  | 5 => some .e4m3 | 6 => some .e5m2 | 7 => some .e8m0 | 8 => some .i8 | 9 => some .n8
  | 10 => some .i16 | 11 => some .n16 | 12 => some .i32 | 13 => some .n32 | 14 => some .ts
  | 15 => some .raw | _ => none

def AOp.code : AOp → Nat
  | .add => 0 | .smin => 1 | .smax => 2 | .umin => 3 | .umax => 4 | .and => 5 | .or => 6
  | .xor => 7 | .xchg => 8 | .fadds => 9 | .faddd => 10
def AOp.ofCode : Nat → Option AOp
  | 0 => some .add | 1 => some .smin | 2 => some .smax | 3 => some .umin | 4 => some .umax
  | 5 => some .and | 6 => some .or | 7 => some .xor | 8 => some .xchg | 9 => some .fadds
  | 10 => some .faddd | _ => none

def AOrd.code : AOrd → Nat
  | .none => 0 | .acq => 1 | .rel => 2 | .ar => 3
def AOrd.ofCode : Nat → Option AOrd
  | 0 => some .none | 1 => some .acq | 2 => some .rel | 3 => some .ar | _ => Option.none

def ROp.code : ROp → Nat
  | .add => 0 | .min => 1 | .max => 2 | .and => 3 | .or => 4 | .xor => 5 | .argmin => 6
  | .argmax => 7
def ROp.ofCode : Nat → Option ROp
  | 0 => some .add | 1 => some .min | 2 => some .max | 3 => some .and | 4 => some .or
  | 5 => some .xor | 6 => some .argmin | 7 => some .argmax | _ => none

def Ty.code : Ty → Nat
  | .i => 0 | .ts => 1 | .f32 => 2 | .f64 => 3
def Ty.ofCode : Nat → Option Ty
  | 0 => some .i | 1 => some .ts | 2 => some .f32 | 3 => some .f64 | _ => none

def VoteMode.code : VoteMode → Nat
  | .some => 0 | .every => 1 | .same => 2 | .none => 3
def VoteMode.ofCode : Nat → Option VoteMode
  | 0 => Option.some .some | 1 => Option.some .every | 2 => Option.some .same
  | 3 => Option.some .none | _ => Option.none

def ShflMode.code : ShflMode → Nat
  | .lane => 0 | .rot => 1 | .shift => 2 | .swap => 3
def ShflMode.ofCode : Nat → Option ShflMode
  | 0 => some .lane | 1 => some .rot | 2 => some .shift | 3 => some .swap | _ => none

def PhaseKind.code : PhaseKind → Nat
  | .rel => 1 | .acq => 2 | .full => 3
def PhaseKind.ofCode : Nat → Option PhaseKind
  | 1 => some .rel | 2 => some .acq | 3 => some .full | _ => none

def ChKind.code : ChKind → Nat
  | .free => 0 | .deq => 1 | .enq => 2 | .fin => 3 | .fout => 4 | .dec => 5
def ChKind.ofCode : Nat → Option ChKind
  | 0 => some .free | 1 => some .deq | 2 => some .enq | 3 => some .fin | 4 => some .fout
  | 5 => some .dec | _ => none

def SOp.code : SOp → Nat
  | .add => 0 | .min => 1 | .max => 2
def SOp.ofCode : Nat → Option SOp
  | 0 => some .add | 1 => some .min | 2 => some .max | _ => none

def StatWhat.code : StatWhat → Nat
  | .ent => 0 | .nodes => 1 | .free => 2 | .ret => 3 | .cap => 4 | .hgt => 5 | .eng => 6
def StatWhat.ofCode : Nat → Option StatWhat
  | 0 => some .ent | 1 => some .nodes | 2 => some .free | 3 => some .ret | 4 => some .cap
  | 5 => some .hgt | 6 => some .eng | _ => none

def Pair.code : Pair → Nat
  | .bf16 => 0 | .f16 => 1 | .e4m3 => 2 | .e4m3e5m2 => 3 | .e5m2e4m3 => 4 | .e5m2 => 5
  | .i8 => 6 | .e4m3k8 => 7 | .e5m2k8 => 8
def Pair.ofCode : Nat → Option Pair
  | 0 => some .bf16 | 1 => some .f16 | 2 => some .e4m3 | 3 => some .e4m3e5m2
  | 4 => some .e5m2e4m3 | 5 => some .e5m2 | 6 => some .i8 | 7 => some .e4m3k8
  | 8 => some .e5m2k8 | _ => none

def OutFmt.code : OutFmt → Nat
  | .f32 => 0 | .bf16 => 1 | .f16 => 2 | .e4m3 => 3 | .e5m2 => 4 | .i32 => 5 | .i8 => 6
def OutFmt.ofCode : Nat → Option OutFmt
  | 0 => some .f32 | 1 => some .bf16 | 2 => some .f16 | 3 => some .e4m3 | 4 => some .e5m2
  | 5 => some .i32 | 6 => some .i8 | _ => none

def PageSz.code : PageSz → Nat
  | .k64 => 0 | .m64 => 1 | .g64 => 2
def PageSz.ofCode : Nat → Option PageSz
  | 0 => some .k64 | 1 => some .m64 | 2 => some .g64 | _ => none

def boolN (b : Bool) : Nat := if b then 1 else 0

/-! ### Shapes shared by many instructions -/

/-- OFF of format B (R66): fields a, b and c together. -/
def Raw.off (r : Raw) : BitVec 33 := r.a ++ r.b ++ r.c

/-- The memory operand of format M (R63). -/
def memDec (r : Raw) : Except DecodeError MemOp := do
  let base ← Src.dec r.a r.lit
  let idx ← Src.dec r.b r.lit
  return ⟨base, idx, r.c.extractLsb' 9 2, r.c.extractLsb' 0 9⟩

/-- The memory operand of R331: IDX holds a scope code, SC is 0. -/
def scopeDec (r : Raw) : Except DecodeError ScopeOp := do
  let base ← Src.dec r.a r.lit
  check (r.b.toNat < 16) .unusedField
  check (r.c.toNat < 512) .unusedField
  return ⟨base, r.b.extractLsb' 0 4, r.c.extractLsb' 0 9⟩

/-- D, A, B with field C zero. -/
def decDAB (r : Raw) (k : Guard → Dst → Src → Src → Instr) : Except DecodeError Instr := do
  let g ← guardDec r
  zeroField r.c
  let d ← Dst.dec r.d
  let a ← Src.dec r.a r.lit
  let b ← Src.dec r.b r.lit
  litRule r [a, b]
  return k g d a b

/-- D, A with fields B and C zero. -/
def decDA (r : Raw) (k : Guard → Dst → Src → Instr) : Except DecodeError Instr := do
  let g ← guardDec r
  zeroField r.b
  zeroField r.c
  let d ← Dst.dec r.d
  let a ← Src.dec r.a r.lit
  litRule r [a]
  return k g d a

/-- D, A, B, C. -/
def decDABC (r : Raw) (k : Guard → Dst → Src → Src → Src → Instr) : Except DecodeError Instr := do
  let g ← guardDec r
  let d ← Dst.dec r.d
  let a ← Src.dec r.a r.lit
  let b ← Src.dec r.b r.lit
  let c ← Src.dec r.c r.lit
  litRule r [a, b, c]
  return k g d a b c

/-- Only A. -/
def decA (r : Raw) (k : Guard → Src → Instr) : Except DecodeError Instr := do
  let g ← guardDec r
  zeroField r.d
  zeroField r.b
  zeroField r.c
  let a ← Src.dec r.a r.lit
  litRule r [a]
  return k g a

/-- No operand. -/
def decNone (r : Raw) (k : Guard → Instr) : Except DecodeError Instr := do
  let g ← guardDec r
  zeroField r.d
  zeroField r.a
  zeroField r.b
  zeroField r.c
  litRule r []
  return k g

/-- A destination and a memory operand. -/
def decLoad (r : Raw) (k : Guard → Dst → MemOp → Instr) : Except DecodeError Instr := do
  let g ← guardDec r
  let d ← Dst.dec r.d
  let m ← memDec r
  litRule r m.srcs
  return k g d m

/-- Store data and a memory operand. -/
def decStore (r : Raw) (k : Guard → Src → MemOp → Instr) : Except DecodeError Instr := do
  let g ← guardDec r
  let d ← Src.dec r.d r.lit
  let m ← memDec r
  litRule r (d :: m.srcs)
  return k g d m

/-- A memory operand alone. -/
def decHint (r : Raw) (k : Guard → MemOp → Instr) : Except DecodeError Instr := do
  let g ← guardDec r
  zeroField r.d
  let m ← memDec r
  litRule r m.srcs
  return k g m

/-- Format B with an operand in field A and no literal (R66). -/
def decBr (r : Raw) (k : Guard → BitVec 33 → Except DecodeError Instr) : Except DecodeError Instr := do
  let g ← guardDec r
  check (r.lx == 0#1) .literalRule
  k g r.off

/-- P in MOD bit 3 and RM in bits 2:0, SR refused (R143). -/
def decFRm (r : Raw) : Except DecodeError (Bool × Rm) := do
  modBelow r 16
  let rm ← orMod (Rm.ofCode (r.md.toNat % 8))
  check (rm != .sr) .modValue
  return (bitN r.md.toNat 3, rm)

/-- P in MOD bit 3, every other bit zero. -/
def decP (r : Raw) : Except DecodeError Bool :=
  if r.md.toNat = 0 then .ok false else if r.md.toNat = 8 then .ok true else .error .modValue

/-- A single MOD bit 0. -/
def decBit (r : Raw) : Except DecodeError Bool :=
  if r.md.toNat = 0 then .ok false else if r.md.toNat = 1 then .ok true else .error .modValue

def optField (b : Bool) (f : BitVec 11) (lit : Word) : Except DecodeError (Option Src) :=
  if b then do let s ← Src.dec f lit; return some s
  else do zeroField f; return none

/-- RDCTL (R477): W in MOD bit 3; the operand in field A when W = 1, else zero. -/
def decRdctl (r : Raw) (k : Option Src → Dst → Instr) : Except DecodeError Instr := do
  noGuard r
  zeroField r.b
  zeroField r.c
  let d ← Dst.dec r.d
  let w ← optField (bitN r.md.toNat 3) r.a r.lit
  litRule r w.toList
  return k w d

/-- An accumulator field (R416). -/
def accField (f : BitVec 11) : Except DecodeError (BitVec 3) :=
  if f.toNat < 8 then .ok (f.extractLsb' 0 3) else .error .operandField

/-- After decoding, the well-formedness that the form itself adds (destination shape, legal
combinations of MOD fields). -/
def formOk (i : Instr) (e : DecodeError) : Except DecodeError Instr :=
  if i.wf then .ok i else .error e


/-! ### Instructions with a shape of their own -/

/-- TAGSET (R124): MOD 0 to 15 name the tag, MOD 16 is .dyn. -/
def decTagset (r : Raw) : Except DecodeError Instr :=
  if r.md.toNat < 16 then decDA r (.tagset · (r.md.extractLsb' 0 4))
  else if r.md.toNat = 16 then decDAB r .tagsetDyn
  else .error .modValue

def decCvt (r : Raw) : Except DecodeError Instr := do
  let f ← orMod (Fmt.ofCode (r.md.toNat / 8))
  let rm ← orMod (Rm.ofCode (r.md.toNat % 8))
  let i ← decDA r (.cvt · f rm)
  formOk i .modValue

def decPack (r : Raw) : Except DecodeError Instr := do
  let g ← guardDec r
  let f ← orMod (Fmt.ofCode (r.md.toNat / 8))
  zeroField r.b
  zeroField r.c
  litRule r []
  let d ← Dst.dec r.d
  let a ← Run.dec r.a
  formOk (.pack g f (r.md.extractLsb' 0 3) d a) .modValue

def decUnpk (r : Raw) : Except DecodeError Instr := do
  let g ← guardDec r
  let f ← orMod (Fmt.ofCode (r.md.toNat / 8))
  check (r.md.toNat % 8 < 2) .modValue
  zeroField r.b
  zeroField r.c
  let d ← Run.dec r.d
  let a ← Src.dec r.a r.lit
  litRule r [a]
  formOk (.unpk g f (bitN r.md.toNat 0) d a) .modValue

def decK8 (r : Raw) : Except DecodeError Instr := do
  modBelow r 8
  let g ← guardDec r
  zeroField r.b
  zeroField r.c
  let d ← Run.dec r.d
  let a ← Src.dec r.a r.lit
  litRule r [a]
  return .k8dec g (bitN r.md.toNat 2) (r.md.extractLsb' 0 2) d a

def decCallr (r : Raw) : Except DecodeError Instr := do
  modIs r 0
  let i ← decDA r .callr
  formOk i .operandField

def decLoopd (r : Raw) : Except DecodeError Instr := do
  modIs r 0
  let c ← match Reg.dec r.d with
    | some (.s n) => pure n
    | _ => throw DecodeError.operandField
  decBr r fun g o => .ok (.loopd g c o)

def decLdl (r : Raw) : Except DecodeError Instr := do
  modBelow r 16
  let g ← guardDec r
  let d ← vregDec r.d
  let m ← memDec r
  litRule r m.srcs
  return .ldl g (r.md.extractLsb' 0 3) (bitN r.md.toNat 3) d m

/-- The special-register number in bits 7:0 of field C (R160). -/
def srField (r : Raw) : Except DecodeError (BitVec 8) :=
  if r.c.toNat < 40 then .ok (r.c.extractLsb' 0 8)
  else if r.c.toNat < 256 then .error .registerNumber else .error .unusedField

def decMfs (r : Raw) : Except DecodeError Instr := do
  modIs r 0
  let g ← guardDec r
  zeroField r.a
  zeroField r.b
  let n ← srField r
  litRule r []
  let d ← Dst.dec r.d
  return .mfs g d n

def decMts (r : Raw) : Except DecodeError Instr := do
  modIs r 0
  let g ← guardDec r
  zeroField r.d
  zeroField r.b
  let n ← srField r
  let a ← Src.dec r.a r.lit
  litRule r [a]
  return .mts g a n

/-- BRD (R212): LX = 1, the literal word holds the sign-extended join offset. -/
def decBrd (r : Raw) : Except DecodeError Instr := do
  let n ← decBit r
  let g ← guardDec r
  let c ← Src.dec r.d r.lit
  check (!c.isLit) .literalRule
  check (r.lx == 1#1) .literalRule
  let j : BitVec 33 := r.lit.extractLsb' 0 33
  check (r.lit == j.signExtend 64) .literalRule
  return .brd g n c r.off j

def decShfl (r : Raw) : Except DecodeError Instr := do
  modBelow r 8
  let g ← guardDec r
  let m ← orMod (ShflMode.ofCode (r.md.toNat % 4))
  let d ← Dst.dec r.d
  let a ← Src.dec r.a r.lit
  let b ← Src.dec r.b r.lit
  let f ← optField (bitN r.md.toNat 2) r.c r.lit
  litRule r (a :: b :: f.toList)
  formOk (.shfl g m f d a b) .operandField

def decLgather (r : Raw) : Except DecodeError Instr := do
  modBelow r 8
  let g ← guardDec r
  zeroField r.c
  let d ← Dst.dec r.d
  let a ← vregDec r.a
  let b ← Src.dec r.b r.lit
  litRule r [b]
  formOk (.lgather g (r.md.extractLsb' 0 3) d a b) .operandField

/-- BCAST (R216): with FIRST, field B is zero. -/
def decBcast (r : Raw) : Except DecodeError Instr := do
  let f ← decBit r
  let g ← guardDec r
  zeroField r.c
  let d ← Dst.dec r.d
  let a ← Src.dec r.a r.lit
  let l ← optField (!f) r.b r.lit
  litRule r (a :: l.toList)
  formOk (.bcast g l d a) .operandField

def decRedw (r : Raw) : Except DecodeError Instr := do
  check (r.md.toNat % 4 == 0) .modValue
  let op ← orMod (ROp.ofCode (r.md.toNat / 16))
  let ty ← orMod (Ty.ofCode (r.md.toNat / 4 % 4))
  let i ← decDAB r (.redw · op ty)
  formOk i .operandField

def decScanw (r : Raw) : Except DecodeError Instr := do
  check (r.md.toNat % 2 == 0) .modValue
  let op ← orMod (ROp.ofCode (r.md.toNat / 16))
  let ty ← orMod (Ty.ofCode (r.md.toNat / 4 % 4))
  let i ← decDA r (.scanw · op ty (bitN r.md.toNat 1))
  formOk i .modValue

def decTopk (r : Raw) : Except DecodeError Instr := do
  let g ← guardDec r
  let ty ← orMod (Ty.ofCode (r.md.toNat / 4 % 4))
  zeroField r.c
  let d ← vregDec r.d
  let a ← vregDec r.a
  let b ← Src.dec r.b r.lit
  litRule r [b]
  return .topk g (r.md.extractLsb' 4 3) ty (bitN r.md.toNat 1) (bitN r.md.toNat 0) d a b

def decMerge (r : Raw) : Except DecodeError Instr := do
  let g ← guardDec r
  check (r.md.toNat % 4 == 0 && r.md.toNat < 16) .modValue
  let ty ← orMod (Ty.ofCode (r.md.toNat / 4))
  zeroField r.c
  litRule r []
  let d ← vregDec r.d
  let a ← vregDec r.a
  let b ← vregDec r.b
  formOk (.merge g ty d a b) .modValue

def decSortw (r : Raw) : Except DecodeError Instr := do
  let g ← guardDec r
  check (r.md.toNat % 2 == 0 && r.md.toNat < 16) .modValue
  let ty ← orMod (Ty.ofCode (r.md.toNat / 4))
  zeroField r.b
  zeroField r.c
  litRule r []
  let d ← vregDec r.d
  let a ← vregDec r.a
  return .sortw g ty (bitN r.md.toNat 1) d a

def decGbar (r : Raw) : Except DecodeError Instr := do
  let op ← orMod (ROp.ofCode (r.md.toNat / 16))
  let ty ← orMod (Ty.ofCode (r.md.toNat / 4 % 4))
  let i ← decDAB r (.gbar · op ty (r.md.extractLsb' 0 2))
  formOk i .operandField

def decSpawn (r : Raw) : Except DecodeError Instr := do
  let g ← guardDec r
  zeroField r.d
  zeroField r.b
  zeroField r.c
  litRule r []
  let a ← vregDec r.a
  return .spawn g (r.md.extractLsb' 3 4) (r.md.extractLsb' 1 2) (bitN r.md.toNat 0) a

def decJoin (r : Raw) : Except DecodeError Instr := do
  modIs r 0
  zeroField r.d
  decDAB r fun g _ a b => .join g a b

def decAtom (r : Raw) : Except DecodeError Instr := do
  let g ← guardDec r
  check (r.md.toNat % 2 == 0) .modValue
  let op ← orMod (AOp.ofCode (r.md.toNat / 8))
  let o ← orMod (AOrd.ofCode (r.md.toNat / 2 % 4))
  let d ← match Reg.dec r.d with
    | some x => pure x
    | none => throw DecodeError.operandField
  let m ← scopeDec r
  litRule r [m.base]
  formOk (.atom g op o d m) .modValue

def decCas (r : Raw) (k : Guard → AOrd → Run → ScopeOp → Instr) : Except DecodeError Instr := do
  let g ← guardDec r
  check (r.md.toNat % 2 == 0 && r.md.toNat < 8) .modValue
  let o ← orMod (AOrd.ofCode (r.md.toNat / 2))
  let d ← Run.dec r.d
  let m ← scopeDec r
  litRule r [m.base]
  formOk (k g o d m) .modValue

def decPhase (r : Raw) : Except DecodeError Instr := do
  check (r.md.toNat / 4 % 2 == 0) .modValue
  let k ← orMod (PhaseKind.ofCode (r.md.toNat % 4))
  let i ← decNone r (.phase · k (r.md.extractLsb' 3 4))
  formOk i .modValue

def decChbind (r : Raw) : Except DecodeError Instr := do
  let k ← orMod (ChKind.ofCode r.md.toNat)
  let g ← guardDec r
  zeroField r.b
  zeroField r.c
  let d ← Dst.dec r.d
  let a ← Src.dec r.a r.lit
  litRule r [a]
  match d with
  | .chan n => return .chbind g k n a
  | _ => throw .operandField

def decQueue (r : Raw) (k : Guard → Bool → BitVec 8 → MemOp → Instr) : Except DecodeError Instr := do
  let t ← decBit r
  let g ← guardDec r
  let d ← vregDec r.d
  let m ← memDec r
  litRule r m.srcs
  return k g t d m

def decScas (r : Raw) : Except DecodeError Instr := do
  modIs r 0
  let g ← guardDec r
  let d ← Run.dec r.d
  let h ← Src.dec r.a r.lit
  let k ← Src.dec r.b r.lit
  let c ← Run.dec r.c
  litRule r [h, k]
  return .scas g d h k c

def decSnext (r : Raw) : Except DecodeError Instr := do
  let ge ← decBit r
  let g ← guardDec r
  zeroField r.c
  let d ← Run.dec r.d
  let h ← Src.dec r.a r.lit
  let k ← Src.dec r.b r.lit
  litRule r [h, k]
  return .snext g ge d h k

def decSscan (r : Raw) : Except DecodeError Instr := do
  let g ← guardDec r
  let d ← vregDec r.d
  let h ← Src.dec r.a r.lit
  let k ← Src.dec r.b r.lit
  let l ← optField (bitN r.md.toNat 6) r.c r.lit
  litRule r (h :: k :: l.toList)
  return .sscan g (r.md.extractLsb' 0 5) (bitN r.md.toNat 5) l d h k

def decSstat (r : Raw) : Except DecodeError Instr := do
  modBelow r 16
  let w ← orMod (StatWhat.ofCode (r.md.toNat % 8))
  let i ← decDAB r (.sstat · w (bitN r.md.toNat 3))
  formOk i .modValue

/-- CPYM (R375, R389): LX = 1, the literal word is the follow-on. -/
def followOk (w : Word) : Bool := followWf w

def decCpym (r : Raw) : Except DecodeError Instr := do
  let t ← decBit r
  let g ← guardDec r
  let d ← Dst.dec r.d
  let a ← Src.dec r.a r.lit
  let b ← Src.dec r.b r.lit
  let c ← Src.dec r.c r.lit
  check (r.lx == 1#1 && followOk r.lit) .literalRule
  formOk (.cpym g t d a b c r.lit) .operandField

def decGdis (r : Raw) : Except DecodeError Instr := do
  modBelow r 4
  let g ← guardDec r
  zeroField r.a
  zeroField r.b
  zeroField r.c
  litRule r []
  let d ← Dst.dec r.d
  formOk (.gdis g (r.md.extractLsb' 0 2) d) .operandField

def decCpyq (r : Raw) : Except DecodeError Instr := do
  let c ← decBit r
  let i ← decDA r (fun g d k => if c then .cpyqCancel g d k else .cpyq g d k)
  formOk i .operandField

/-- A tile operand in field D and a scalar in field A (R416). -/
def decTile (r : Raw) (k : Guard → Src → Src → Instr) : Except DecodeError Instr := do
  let g ← guardDec r
  zeroField r.b
  zeroField r.c
  let t ← Src.dec r.d r.lit
  let s ← Src.dec r.a r.lit
  litRule r [t, s]
  formOk (k g t s) .operandField

def decMma (r : Raw) : Except DecodeError Instr := do
  modBelow r 64
  let p ← orMod (Pair.ofCode (r.md.toNat % 16))
  let g ← guardDec r
  zeroField r.c
  let x ← accField r.d
  let a ← Src.dec r.a r.lit
  let b ← Src.dec r.b r.lit
  litRule r [a, b]
  formOk (.mma g p (bitN r.md.toNat 4) (bitN r.md.toNat 5) x a b) .operandField

def decSacc (r : Raw) : Except DecodeError Instr := do
  let f ← decBit r
  let g ← guardDec r
  let x ← accField r.d
  let y ← accField r.a
  let a ← Src.dec r.b r.lit
  let b ← Src.dec r.c r.lit
  litRule r [a, b]
  return .sacc g f x y a b

def decAcc (r : Raw) (k : Guard → BitVec 3 → Instr) : Except DecodeError Instr := do
  let g ← guardDec r
  zeroField r.a
  zeroField r.b
  zeroField r.c
  litRule r []
  let x ← accField r.d
  return k g x

def decAccout (r : Raw) : Except DecodeError Instr := do
  let o ← orMod (OutFmt.ofCode (r.md.toNat / 8))
  let g ← guardDec r
  let x ← accField r.d
  let a ← Src.dec r.a r.lit
  let b ← Src.dec r.b r.lit
  let c ← Src.dec r.c r.lit
  litRule r [a, b, c]
  formOk (.accout g o (r.md.extractLsb' 0 3) x a b c) .modValue

def decMfence (r : Raw) : Except DecodeError Instr := do
  modIs r 0
  let g ← guardDec r
  zeroField r.a
  zeroField r.b
  zeroField r.c
  litRule r []
  let d ← Dst.dec r.d
  formOk (.mfence g d) .operandField

/-- SRET (R450): GRD, GNG and fields D, B, C zero. -/
def decSret (r : Raw) : Except DecodeError Instr := do
  let h ← decBit r
  noGuard r
  decA r fun _ m => if h then .sretHost m else .sret m

/-- PMAP (R455, R456): bit 0 ANY, bits 2:1 the operation. -/
def decPmap (r : Raw) : Except DecodeError Instr :=
  match r.md.toNat with
  | 0 => do let i ← decDAB r (.pmap · false); formOk i .operandField
  | 1 => do let i ← decDAB r (.pmap · true); formOk i .operandField
  | 2 => do let i ← decDAB r .pmapAttr; formOk i .operandField
  | 4 => do
      check (r.b == Reg.zr.enc) .operandField
      let g ← guardDec r
      zeroField r.c
      let d ← Dst.dec r.d
      let a ← Src.dec r.a r.lit
      litRule r [a]
      formOk (.pmapUnmap g d a) .operandField
  | _ => .error .modValue

/-- PINV (R457): bits 1:0 SZ, bit 2 ALL with field A zr. -/
def decPinv (r : Raw) : Except DecodeError Instr :=
  if r.md.toNat < 4 then do
    let sz ← orMod (PageSz.ofCode r.md.toNat)
    decA r (.pinv · sz)
  else if r.md.toNat = 4 then do
    let g ← guardDec r
    zeroField r.d
    check (r.a == Reg.zr.enc) .operandField
    zeroField r.b
    zeroField r.c
    litRule r []
    return .pinvAll g
  else .error .modValue

/-- PMIG (R498). -/
def decPmig (r : Raw) : Except DecodeError Instr := do
  noGuard r
  zeroField r.c
  let d ← Dst.dec r.d
  let a ← Src.dec r.a r.lit
  let b ← Src.dec r.b r.lit
  match r.md.toNat with
  | 0 => do litRule r [a, b]; formOk (.pmigStart d a b) .operandField
  | 1 => do
      check (b == .reg .zr) .operandField
      litRule r [a]
      formOk (.pmigStat d a) .operandField
  | _ => throw .modValue

/-- ICINV (R491). -/
def decIcinv (r : Raw) : Except DecodeError Instr := do
  noGuard r
  zeroField r.d
  zeroField r.b
  zeroField r.c
  let a ← Src.dec r.a r.lit
  litRule r [a]
  match r.md.toNat with
  | 0 => return .icinvLine a
  | 1 => return .icinvPage a
  | 2 => if a = .reg .zr then return .icinvAsid else throw .operandField
  | _ => throw .modValue

def decRdctls (r : Raw) : Except DecodeError Instr := do
  modBelow r 16
  let i ← match r.md.toNat % 8 with
    | 0 => decRdctl r .rdctlShb
    | 1 => decRdctl r .rdctlItab
    | 2 => decRdctl r .rdctlRbase
    | 3 => decRdctl r .rdctlRsize
    | 4 => decRdctl r .rdctlCtl
    | 5 => decRdctl r .rdctlRhead
    | 6 => decRdctl r .rdctlRtail
    | _ => decRdctl r .rdctlRdrop
  formOk i .operandField

/-- SDECL (R458): .retire takes zr in field B. -/
def decSdecl (r : Raw) : Except DecodeError Instr :=
  match r.md.toNat with
  | 0 => decDAB r .sdeclCreate
  | 1 => decDAB r .sdeclGrow
  | 2 => do
      check (r.b == Reg.zr.enc) .operandField
      let g ← guardDec r
      zeroField r.c
      let d ← Dst.dec r.d
      let a ← Src.dec r.a r.lit
      litRule r [a]
      return .sdeclRetire g d a
  | _ => .error .modValue

/-- GTBL (R459). -/
def decGtbl (r : Raw) : Except DecodeError Instr :=
  match r.md.toNat with
  | 0 => decDAB r .gtblSpill
  | 1 => decDAB r .gtblCont
  | _ => .error .modValue

/-- REP (R63 format P, R77): GRD, GNG and bits 29:0 zero. -/
def decRep (r : Raw) : Except DecodeError Instr := do
  noGuard r
  zeroField r.b
  zeroField r.c
  modIs r 0
  check (r.lx == 0#1) .literalRule
  let p : BitVec 22 := r.d ++ r.a
  return .rep (p.extractLsb' 16 6) (p.extractLsb' 12 4) (p.extractLsb' 8 4) (p.extractLsb' 4 4)
    (p.extractLsb' 0 4)

/-! ### The opcode map (R86) -/

/-- Opcodes 0x01-0x13. -/
def opGeneric (r : Raw) : List (Nat × Except DecodeError Instr) := [
  (0x01, do modIs r 0; decDAB r .add),
  (0x02, do modIs r 0; decDAB r .sub),
  (0x03, do modIs r 0; decDAB r .mul),
  (0x04, do modIs r 0; decDAB r .div),
  (0x05, do modIs r 0; decDAB r .idiv),
  (0x06, do modIs r 0; decDAB r .mod),
  (0x07, do modIs r 0; decDA r .neg),
  (0x08, do modIs r 0; decDA r .abs),
  (0x09, do modIs r 0; decDAB r .min),
  (0x0A, do modIs r 0; decDAB r .max),
  (0x0B, do modIs r 0; decDAB r .ceq),
  (0x0C, do modIs r 0; decDAB r .cne),
  (0x0D, do modIs r 0; decDAB r .clt),
  (0x0E, do modIs r 0; decDAB r .cle),
  (0x0F, do modIs r 0; decDA r .truth),
  (0x10, do modIs r 0; decDA r .tagof),
  (0x11, decTagset r),
  (0x12, do modIs r 0; decDAB r .tagis),
  (0x13, do modIs r 0; decDA r .mov)]

/-- Opcodes 0x14-0x30. -/
def opInt (r : Raw) : List (Nat × Except DecodeError Instr) := [
  (0x14, do let ov ← orMod (Ov.ofCode r.md.toNat); decDAB r (.iadd · ov)),
  (0x15, do let ov ← orMod (Ov.ofCode r.md.toNat); decDAB r (.isub · ov)),
  (0x16, do let ov ← orMod (Ov.ofCode r.md.toNat); decDAB r (.imul · ov)),
  (0x17, do let u ← decBit r; decDAB r (.imulh · u)),
  (0x18, do let u ← decBit r; decDAB r (.idivt · u)),
  (0x19, do let u ← decBit r; decDAB r (.iremt · u)),
  (0x1A, do let ov ← orMod (Ov.ofCode r.md.toNat); decDABC r (.imad · ov)),
  (0x1B, do modIs r 0; decDAB r .and),
  (0x1C, do modIs r 0; decDAB r .or),
  (0x1D, do modIs r 0; decDAB r .xor),
  (0x1E, do modIs r 0; decDAB r .andn),
  (0x1F, do modIs r 0; decDA r .not),
  (0x20, do let w ← decBit r; decDAB r (.shl · w)),
  (0x21, do let w ← decBit r; decDAB r (.shr · w)),
  (0x22, do let w ← decBit r; decDAB r (.sar · w)),
  (0x23, do modIs r 0; decDAB r .rol),
  (0x24, do modIs r 0; decDA r .popc),
  (0x25, do modIs r 0; decDA r .clz),
  (0x26, do modIs r 0; decDA r .ctz),
  (0x27, do modIs r 0; decDA r .brev),
  (0x28, do let x ← decBit r; decDAB r (.bfx · x)),
  (0x29, do modIs r 0; decDABC r .bfi),
  (0x2A, do modIs r 0; decDAB r .imin),
  (0x2B, do modIs r 0; decDAB r .imax),
  (0x2C, do modIs r 0; decDAB r .nmin),
  (0x2D, do modIs r 0; decDAB r .nmax),
  (0x2E, do let c ← orMod (Cnd.ofCode r.md.toNat); decDAB r (.icmp · c)),
  (0x2F, do let s ← decBit r; decDABC r (.sel · s)),
  (0x30, do modBelow r 4; decDABC r (.lea · (r.md.extractLsb' 0 2)))]

/-- Opcodes 0x40-0x57. -/
def opFloat (r : Raw) : List (Nat × Except DecodeError Instr) := [
  (0x40, do let p ← decFRm r; decDAB r (.fadd · p.1 p.2)),
  (0x41, do let p ← decFRm r; decDAB r (.fsub · p.1 p.2)),
  (0x42, do let p ← decFRm r; decDAB r (.fmul · p.1 p.2)),
  (0x44, do let p ← decFRm r; decDAB r (.fdiv · p.1 p.2)),
  (0x43, do let p ← decFRm r; decDABC r (.ffma · p.1 p.2)),
  (0x45, do let p ← decFRm r; decDA r (.fsqrt · p.1 p.2)),
  (0x49, do let p ← decFRm r; decDA r (.frnd · p.1 p.2)),
  (0x46, do let p ← decP r; decDAB r (.fmin · p)),
  (0x47, do let p ← decP r; decDAB r (.fmax · p)),
  (0x48, do modBelow r 16; let c ← orMod (FCnd.ofCode (r.md.toNat % 8)); decDAB r (.fcmp · (bitN r.md.toNat 3) c)),
  (0x4A, do let p ← decP r; decDA r (.fabs · p)),
  (0x4B, do let p ← decP r; decDA r (.fneg · p)),
  (0x4C, do let p ← decP r; decDA r (.log2 · p)),
  (0x4D, do let p ← decP r; decDA r (.exp2 · p)),
  (0x4E, do let p ← decP r; decDA r (.rcp · p)),
  (0x4F, do let p ← decP r; decDA r (.rsq · p)),
  (0x50, do let p ← decP r; decDA r (.sin · p)),
  (0x51, do let p ← decP r; decDA r (.cos · p)),
  (0x52, decCvt r),
  (0x53, decPack r),
  (0x54, decUnpk r),
  (0x55, decK8 r),
  (0x56, do modIs r 0; decDAB r .hash),
  (0x57, do modIs r 0; decDAB r .rndu)]

/-- Opcodes 0x60-0x76. -/
def opControl (r : Raw) : List (Nat × Except DecodeError Instr) := [
  (0x60, do modIs r 0; zeroField r.d; decBr r fun g o => .ok (.jmp g o)),
  (0x61, do let n ← decBit r; let c ← Src.dec r.d r.lit; check (!c.isLit) .literalRule; decBr r fun g o => .ok (.br g n c o)),
  (0x62, do modIs r 0; let l ← Dst.dec r.d; decBr r fun g o => formOk (.call g l o) .operandField),
  (0x63, decCallr r),
  (0x64, do modIs r 0; decA r .ret),
  (0x65, decLoopd r),
  (0x66, do modIs r 0; decNone r .exit),
  (0x67, do modIs r 0; decNone r .nop),
  (0x68, do modBelow r 4; let i ← decLoad r (.ld · (bitN r.md.toNat 1) (bitN r.md.toNat 0)); formOk i .operandField),
  (0x69, do check (r.md.toNat == 0 || r.md.toNat == 2) .modValue; let i ← decStore r (.st · (bitN r.md.toNat 1)); formOk i .operandField),
  (0x6A, do check (r.md.toNat % 8 == 0) .modValue; let f ← orMod (Fmt.ofCode (r.md.toNat / 8)); let i ← decLoad r (.ldt · f); formOk i .modValue),
  (0x6B, do let f ← orMod (Fmt.ofCode (r.md.toNat / 8)); let i ← decStore r (.stt · f (r.md.extractLsb' 0 3)); formOk i .modValue),
  (0x6C, do modIs r 0; decLoad r .hld),
  (0x6D, do modIs r 0; decStore r .hst),
  (0x6E, do modIs r 0; decDAB r .alloc),
  (0x6F, decLdl r),
  (0x70, do modIs r 0; decA r .trap),
  (0x71, do modIs r 0; decA r .sysc),
  (0x72, do modIs r 0; noGuard r; decA r fun _ a => .hret a),
  (0x73, do modIs r 0; decNone r .bkpt),
  (0x74, decMfs r),
  (0x75, decMts r),
  (0x76, do modIs r 0; decA r .snap)]

/-- Opcodes 0x80-0x97. -/
def opLanes (r : Raw) : List (Nat × Except DecodeError Instr) := [
  (0x80, do modIs r 0; let i ← decDAB r .mand; formOk i .operandField),
  (0x81, do modIs r 0; let i ← decDAB r .mor; formOk i .operandField),
  (0x82, do modIs r 0; let i ← decDAB r .mxor; formOk i .operandField),
  (0x83, do modIs r 0; let i ← decDA r .mnot; formOk i .operandField),
  (0x84, do modIs r 0; let i ← decDA r .mpopc; formOk i .operandField),
  (0x85, do let h ← decBit r; let i ← decDA r (.mffs · h); formOk i .operandField),
  (0x86, do let h ← decBit r; let i ← decDA r (.mset · h); formOk i .operandField),
  (0x87, do modIs r 0; let i ← decDA r .mget; formOk i .operandField),
  (0x88, decBrd r),
  (0x89, do let m ← orMod (VoteMode.ofCode r.md.toNat); let i ← decDA r (.vote · m); formOk i .operandField),
  (0x8A, decShfl r),
  (0x8B, decLgather r),
  (0x8C, decBcast r),
  (0x8D, decRedw r),
  (0x8E, decScanw r),
  (0x8F, decTopk r),
  (0x90, decMerge r),
  (0x91, decSortw r),
  (0x92, decGbar r),
  (0x93, decSpawn r),
  (0x94, decJoin r),
  (0x95, do modIs r 0; let i ← decDAB r .jadd; formOk i .operandField),
  (0x96, do modIs r 0; decA r .regs),
  (0x97, do modIs r 0; let i ← decDA r .launch; formOk i .operandField)]

/-- Opcodes 0xA0-0xAF. -/
def opMemory (r : Raw) : List (Nat × Except DecodeError Instr) := [
  (0xA0, decAtom r),
  (0xA1, decCas r .cas),
  (0xA2, decCas r .cas2),
  (0xA3, do modIs r 0; let g ← guardDec r; let d ← Dst.dec r.d; let m ← scopeDec r; litRule r [m.base]; formOk (.lda g d m) .modValue),
  (0xA4, do modIs r 0; let g ← guardDec r; let d ← Src.dec r.d r.lit; let m ← scopeDec r; litRule r [d, m.base]; formOk (.stl g d m) .modValue),
  (0xA5, decPhase r),
  (0xA6, do let b ← decBit r; decHint r (.cflush · b)),
  (0xA7, do let b ← decBit r; decHint r (.cinvl · b)),
  (0xA8, do let b ← decBit r; decHint r (.pref · b)),
  (0xA9, do check (r.md.toNat % 8 == 0) .modValue; let f ← orMod (Fmt.ofCode (r.md.toNat / 8)); decLoad r (.lds · f)),
  (0xAA, do let f ← orMod (Fmt.ofCode (r.md.toNat / 8)); let i ← decStore r (.sts · f (r.md.extractLsb' 0 3)); formOk i .modValue),
  (0xAB, do modBelow r 4; decLoad r (.ldw · (r.md.extractLsb' 0 2))),
  (0xAC, do modBelow r 4; decStore r (.stw · (r.md.extractLsb' 0 2))),
  (0xAD, decChbind r),
  (0xAE, decQueue r .enq),
  (0xAF, decQueue r .deq)]

/-- Opcodes 0xB0-0xB7. -/
def opSparse (r : Raw) : List (Nat × Except DecodeError Instr) := [
  (0xB0, do modIs r 0; decDAB r .sld),
  (0xB1, do modIs r 0; zeroField r.d; decDABC r (fun g _ a b c => .sst g a b c)),
  (0xB2, do let o ← orMod (SOp.ofCode r.md.toNat); decDABC r (.sadd · o)),
  (0xB3, do modIs r 0; decDABC r .sxch),
  (0xB4, decScas r),
  (0xB5, decSnext r),
  (0xB6, decSscan r),
  (0xB7, decSstat r)]

/-- Opcodes 0xC0-0xCA. -/
def opCopy (r : Raw) : List (Nat × Except DecodeError Instr) := [
  (0xC0, do let t ← decBit r; let i ← decDABC r (.cpy · t); formOk i .operandField),
  (0xC1, do modBelow r 8; let i ← decDABC r (.cpyg · (r.md.extractLsb' 1 2) (bitN r.md.toNat 0)); formOk i .operandField),
  (0xC2, decCpym r),
  (0xC3, do modIs r 0; let i ← decDAB r .cpyd; formOk i .operandField),
  (0xC4, do modIs r 0; let i ← decDAB r .cpys; formOk i .operandField),
  (0xC5, do modIs r 0; let i ← decDAB r .cpyx; formOk i .operandField),
  (0xC6, do modIs r 0; let i ← decDAB r .gwait; formOk i .operandField),
  (0xC7, do modIs r 0; let i ← decDAB r .gtest; formOk i .operandField),
  (0xC8, do modBelow r 4; zeroField r.d; decDABC r (fun g _ a b c => .garm g (r.md.extractLsb' 0 2) a b c)),
  (0xC9, decGdis r),
  (0xCA, decCpyq r)]

/-- Opcodes 0xD0-0xDB. -/
def opMatrix (r : Raw) : List (Nat × Except DecodeError Instr) := [
  (0xD0, do modIs r 0; decTile r .tshape),
  (0xD1, do modIs r 0; decTile r .tld),
  (0xD2, do modIs r 0; decTile r .tst),
  (0xD3, decMma r),
  (0xD4, decSacc r),
  (0xD5, do modIs r 0; decAcc r .acq),
  (0xD6, do modIs r 0; decAcc r .rel),
  (0xD7, decAccout r),
  (0xD8, do let t ← decBit r; decAcc r (.accz · t)),
  (0xD9, decMfence r),
  (0xDA, do modIs r 0; decA r .mwait),
  (0xDB, do modIs r 0; decA r .cbld)]

/-- Opcodes 0xE0-0xE7 and 0xFC. -/
def opSystem (r : Raw) : List (Nat × Except DecodeError Instr) := [
  (0xE0, decSret r),
  (0xE1, decPmap r),
  (0xE2, decPinv r),
  (0xE3, decPmig r),
  (0xE4, decIcinv r),
  (0xE5, decRdctls r),
  (0xE6, decSdecl r),
  (0xE7, decGtbl r),
  (0xFC, decRep r)]

/-- Every assigned opcode with the decoding of its words (R86). -/
def opTable (r : Raw) : List (Nat × Except DecodeError Instr) :=
  opGeneric r ++ opInt r ++ opFloat r ++ opControl r ++ opLanes r ++ opMemory r ++ opSparse r ++ opCopy r ++ opMatrix r ++ opSystem r

/-- The instruction in the fields of a word. An opcode that R86 does not assign is the instruction of R87. -/
def decodeRaw (r : Raw) : Except DecodeError Instr :=
  match (opTable r).lookup r.op.toNat with
  | some x => x
  | none => .ok (.unassignedOpcode r.toWord)

/-- The instruction of a word and the literal word that follows it. -/
def decodeWord (w lit : Word) : Except DecodeError Instr := decodeRaw (Raw.ofWord w lit)

/-! ### The encoder -/

def guardBits (g : Guard) : BitVec 3 × BitVec 1 := (g.m, if g.neg then 1#1 else 0#1)

/-- A word of format A or M from its parts. -/
def mkRaw (op : Nat) (g : Guard) (d a b c : BitVec 11) (md : Nat) (l : List Src) : Raw where
  op := BitVec.ofNat 8 op
  grd := g.m
  gng := if g.neg then 1#1 else 0#1
  d := d
  a := a
  b := b
  c := c
  md := BitVec.ofNat 7 md
  lx := lxOf l
  lit := litOf l

def mkDAB (op md : Nat) (g : Guard) (d : Dst) (a b : Src) : Raw :=
  mkRaw op g d.enc a.enc b.enc 0#11 md [a, b]
def mkDA (op md : Nat) (g : Guard) (d : Dst) (a : Src) : Raw :=
  mkRaw op g d.enc a.enc 0#11 0#11 md [a]
def mkDABC (op md : Nat) (g : Guard) (d : Dst) (a b c : Src) : Raw :=
  mkRaw op g d.enc a.enc b.enc c.enc md [a, b, c]
def mkA (op md : Nat) (g : Guard) (a : Src) : Raw := mkRaw op g 0#11 a.enc 0#11 0#11 md [a]
def mkNone (op md : Nat) (g : Guard) : Raw := mkRaw op g 0#11 0#11 0#11 0#11 md []
def memC (m : MemOp) : BitVec 11 := m.sc ++ m.disp
def mkMem (op md : Nat) (g : Guard) (d : BitVec 11) (m : MemOp) (l : List Src) : Raw :=
  mkRaw op g d m.base.enc m.idx.enc (memC m) md l
def scopeB (m : ScopeOp) : BitVec 11 := 0#7 ++ m.scope
def scopeC (m : ScopeOp) : BitVec 11 := 0#2 ++ m.disp
def mkScope (op md : Nat) (g : Guard) (d : BitVec 11) (m : ScopeOp) (l : List Src) : Raw :=
  mkRaw op g d m.base.enc (scopeB m) (scopeC m) md l
def mkBr (op md : Nat) (g : Guard) (d : BitVec 11) (off : BitVec 33) : Raw :=
  mkRaw op g d (off.extractLsb' 22 11) (off.extractLsb' 11 11) (off.extractLsb' 0 11) md []
def vreg (n : BitVec 8) : BitVec 11 := (Reg.v n).enc
def accEnc (n : BitVec 3) : BitVec 11 := 0#8 ++ n
def optEnc : Option Src → BitVec 11
  | none => 0#11
  | some s => s.enc
def mkRdctl (kind : Nat) (w : Option Src) (d : Dst) : Raw :=
  mkRaw 0xE5 Guard.always d.enc (optEnc w) 0#11 0#11 (kind + 8 * boolN w.isSome) w.toList

/-- The fields of REP (R63 format P, R77). -/
def mkRep (n : BitVec 6) (ds as bs cs : BitVec 4) : Raw :=
  let p : BitVec 22 := n ++ ds ++ as ++ bs ++ cs
  mkRaw 0xFC Guard.always (p.extractLsb' 11 11) (p.extractLsb' 0 11) 0#11 0#11 0 []

/-- The fields of an instruction's word. A device step has no word; the fields given for one are those
of the word 0, which is unassigned. -/
def toRaw : Instr → Raw
  | .add g d a b => mkDAB 0x01 0 g d a b
  | .sub g d a b => mkDAB 0x02 0 g d a b
  | .mul g d a b => mkDAB 0x03 0 g d a b
  | .div g d a b => mkDAB 0x04 0 g d a b
  | .idiv g d a b => mkDAB 0x05 0 g d a b
  | .mod g d a b => mkDAB 0x06 0 g d a b
  | .neg g d a => mkDA 0x07 0 g d a
  | .abs g d a => mkDA 0x08 0 g d a
  | .min g d a b => mkDAB 0x09 0 g d a b
  | .max g d a b => mkDAB 0x0A 0 g d a b
  | .ceq g d a b => mkDAB 0x0B 0 g d a b
  | .cne g d a b => mkDAB 0x0C 0 g d a b
  | .clt g d a b => mkDAB 0x0D 0 g d a b
  | .cle g d a b => mkDAB 0x0E 0 g d a b
  | .truth g d a => mkDA 0x0F 0 g d a
  | .tagof g d a => mkDA 0x10 0 g d a
  | .tagset g t d a => mkDA 0x11 t.toNat g d a
  | .tagsetDyn g d a b => mkDAB 0x11 16 g d a b
  | .tagis g d a b => mkDAB 0x12 0 g d a b
  | .mov g d a => mkDA 0x13 0 g d a
  | .iadd g ov d a b => mkDAB 0x14 ov.code g d a b
  | .isub g ov d a b => mkDAB 0x15 ov.code g d a b
  | .imul g ov d a b => mkDAB 0x16 ov.code g d a b
  | .imulh g u d a b => mkDAB 0x17 (boolN u) g d a b
  | .idivt g u d a b => mkDAB 0x18 (boolN u) g d a b
  | .iremt g u d a b => mkDAB 0x19 (boolN u) g d a b
  | .shl g u d a b => mkDAB 0x20 (boolN u) g d a b
  | .shr g u d a b => mkDAB 0x21 (boolN u) g d a b
  | .sar g u d a b => mkDAB 0x22 (boolN u) g d a b
  | .bfx g u d a b => mkDAB 0x28 (boolN u) g d a b
  | .imad g ov d a b c => mkDABC 0x1A ov.code g d a b c
  | .and g d a b => mkDAB 0x1B 0 g d a b
  | .or g d a b => mkDAB 0x1C 0 g d a b
  | .xor g d a b => mkDAB 0x1D 0 g d a b
  | .andn g d a b => mkDAB 0x1E 0 g d a b
  | .rol g d a b => mkDAB 0x23 0 g d a b
  | .imin g d a b => mkDAB 0x2A 0 g d a b
  | .imax g d a b => mkDAB 0x2B 0 g d a b
  | .nmin g d a b => mkDAB 0x2C 0 g d a b
  | .nmax g d a b => mkDAB 0x2D 0 g d a b
  | .hash g d a b => mkDAB 0x56 0 g d a b
  | .rndu g d a b => mkDAB 0x57 0 g d a b
  | .alloc g d a b => mkDAB 0x6E 0 g d a b
  | .mand g d a b => mkDAB 0x80 0 g d a b
  | .mor g d a b => mkDAB 0x81 0 g d a b
  | .mxor g d a b => mkDAB 0x82 0 g d a b
  | .jadd g d a b => mkDAB 0x95 0 g d a b
  | .sld g d a b => mkDAB 0xB0 0 g d a b
  | .not g d a => mkDA 0x1F 0 g d a
  | .popc g d a => mkDA 0x24 0 g d a
  | .clz g d a => mkDA 0x25 0 g d a
  | .ctz g d a => mkDA 0x26 0 g d a
  | .brev g d a => mkDA 0x27 0 g d a
  | .mnot g d a => mkDA 0x83 0 g d a
  | .mpopc g d a => mkDA 0x84 0 g d a
  | .mget g d a => mkDA 0x87 0 g d a
  | .launch g d a => mkDA 0x97 0 g d a
  | .bfi g d a b c => mkDABC 0x29 0 g d a b c
  | .icmp g cn d a b => mkDAB 0x2E cn.code g d a b
  | .sel g s d a b c => mkDABC 0x2F (boolN s) g d a b c
  | .lea g sc d a b c => mkDABC 0x30 sc.toNat g d a b c
  | .fadd g p rm d a b => mkDAB 0x40 (8 * boolN p + rm.code) g d a b
  | .fsub g p rm d a b => mkDAB 0x41 (8 * boolN p + rm.code) g d a b
  | .fmul g p rm d a b => mkDAB 0x42 (8 * boolN p + rm.code) g d a b
  | .fdiv g p rm d a b => mkDAB 0x44 (8 * boolN p + rm.code) g d a b
  | .ffma g p rm d a b c => mkDABC 0x43 (8 * boolN p + rm.code) g d a b c
  | .fsqrt g p rm d a => mkDA 0x45 (8 * boolN p + rm.code) g d a
  | .frnd g p rm d a => mkDA 0x49 (8 * boolN p + rm.code) g d a
  | .fmin g p d a b => mkDAB 0x46 (8 * boolN p) g d a b
  | .fmax g p d a b => mkDAB 0x47 (8 * boolN p) g d a b
  | .fcmp g p cn d a b => mkDAB 0x48 (8 * boolN p + cn.code) g d a b
  | .fabs g p d a => mkDA 0x4A (8 * boolN p) g d a
  | .fneg g p d a => mkDA 0x4B (8 * boolN p) g d a
  | .log2 g p d a => mkDA 0x4C (8 * boolN p) g d a
  | .exp2 g p d a => mkDA 0x4D (8 * boolN p) g d a
  | .rcp g p d a => mkDA 0x4E (8 * boolN p) g d a
  | .rsq g p d a => mkDA 0x4F (8 * boolN p) g d a
  | .sin g p d a => mkDA 0x50 (8 * boolN p) g d a
  | .cos g p d a => mkDA 0x51 (8 * boolN p) g d a
  | .cvt g f rm d a => mkDA 0x52 (8 * f.code + rm.code) g d a
  | .pack g f md d a => mkRaw 0x53 g d.enc a.enc 0#11 0#11 (8 * f.code + md.toNat) []
  | .unpk g f w d a => mkRaw 0x54 g d.enc a.enc 0#11 0#11 (8 * f.code + boolN w) [a]
  | .k8dec g f j d a => mkRaw 0x55 g d.enc a.enc 0#11 0#11 (4 * boolN f + j.toNat) [a]
  | .jmp g o => mkBr 0x60 0 g 0#11 o
  | .br g n c o => mkBr 0x61 (boolN n) g c.enc o
  | .call g l o => mkBr 0x62 0 g l.enc o
  | .callr g l t => mkDA 0x63 0 g l t
  | .ret g t => mkA 0x64 0 g t
  | .loopd g c o => mkBr 0x65 0 g (Reg.s c).enc o
  | .exit g => mkNone 0x66 0 g
  | .nop g => mkNone 0x67 0 g
  | .ld g ln nh d m => mkMem 0x68 (2 * boolN ln + boolN nh) g d.enc m m.srcs
  | .st g ln d m => mkMem 0x69 (2 * boolN ln) g d.enc m (d :: m.srcs)
  | .ldt g f d m => mkMem 0x6A (8 * f.code) g d.enc m m.srcs
  | .stt g f md d m => mkMem 0x6B (8 * f.code + md.toNat) g d.enc m (d :: m.srcs)
  | .hld g d m => mkMem 0x6C 0 g d.enc m m.srcs
  | .hst g d m => mkMem 0x6D 0 g d.enc m (d :: m.srcs)
  | .ldl g n nh d m => mkMem 0x6F (8 * boolN nh + n.toNat) g (vreg d) m m.srcs
  | .trap g a => mkA 0x70 0 g a
  | .sysc g a => mkA 0x71 0 g a
  | .snap g a => mkA 0x76 0 g a
  | .regs g a => mkA 0x96 0 g a
  | .mwait g a => mkA 0xDA 0 g a
  | .cbld g a => mkA 0xDB 0 g a
  | .hret a => mkA 0x72 0 Guard.always a
  | .bkpt g => mkNone 0x73 0 g
  | .mfs g d n => mkRaw 0x74 g d.enc 0#11 0#11 (0#3 ++ n) 0 []
  | .mts g a n => mkRaw 0x75 g 0#11 a.enc 0#11 (0#3 ++ n) 0 [a]
  | .mffs g h d a => mkDA 0x85 (boolN h) g d a
  | .mset g h d a => mkDA 0x86 (boolN h) g d a
  | .brd g n c o j => { mkBr 0x88 (boolN n) g c.enc o with lx := 1#1, lit := j.signExtend 64 }
  | .vote g m d a => mkDA 0x89 m.code g d a
  | .shfl g m f d a b => mkRaw 0x8A g d.enc a.enc b.enc (optEnc f) (4 * boolN f.isSome + m.code) (a :: b :: f.toList)
  | .lgather g n d a b => mkRaw 0x8B g d.enc (vreg a) b.enc 0#11 n.toNat [b]
  | .bcast g l d a => mkRaw 0x8C g d.enc a.enc (optEnc l) 0#11 (boolN l.isNone) (a :: l.toList)
  | .redw g op ty d a b => mkDAB 0x8D (16 * op.code + 4 * ty.code) g d a b
  | .scanw g op ty ex d a => mkDA 0x8E (16 * op.code + 4 * ty.code + 2 * boolN ex) g d a
  | .topk g n ty nf nz d a b => mkRaw 0x8F g (vreg d) (vreg a) b.enc 0#11 (16 * n.toNat + 4 * ty.code + 2 * boolN nf + boolN nz) [b]
  | .merge g ty d a b => mkRaw 0x90 g (vreg d) (vreg a) (vreg b) 0#11 (4 * ty.code) []
  | .sortw g ty ds d a => mkRaw 0x91 g (vreg d) (vreg a) 0#11 0#11 (4 * ty.code + 2 * boolN ds) []
  | .gbar g op ty sl d a b => mkDAB 0x92 (16 * op.code + 4 * ty.code + sl.toNat) g d a b
  | .spawn g cl k f a => mkRaw 0x93 g 0#11 (vreg a) 0#11 0#11 (8 * cl.toNat + 2 * k.toNat + boolN f) []
  | .join g a b => mkRaw 0x94 g 0#11 a.enc b.enc 0#11 0 [a, b]
  | .atom g op o d m => mkScope 0xA0 (8 * op.code + 2 * o.code) g d.enc m [m.base]
  | .cas g o d m => mkScope 0xA1 (2 * o.code) g d.enc m [m.base]
  | .cas2 g o d m => mkScope 0xA2 (2 * o.code) g d.enc m [m.base]
  | .lda g d m => mkScope 0xA3 0 g d.enc m [m.base]
  | .stl g d m => mkScope 0xA4 0 g d.enc m [d, m.base]
  | .phase g k sc => mkNone 0xA5 (8 * sc.toNat + k.code) g
  | .cflush g b m => mkMem 0xA6 (boolN b) g 0#11 m m.srcs
  | .cinvl g b m => mkMem 0xA7 (boolN b) g 0#11 m m.srcs
  | .pref g b m => mkMem 0xA8 (boolN b) g 0#11 m m.srcs
  | .lds g f d m => mkMem 0xA9 (8 * f.code) g d.enc m m.srcs
  | .sts g f md d m => mkMem 0xAA (8 * f.code + md.toNat) g d.enc m (d :: m.srcs)
  | .ldw g sz d m => mkMem 0xAB sz.toNat g d.enc m m.srcs
  | .stw g sz d m => mkMem 0xAC sz.toNat g d.enc m (d :: m.srcs)
  | .chbind g k n a => mkRaw 0xAD g (Dst.chan n).enc a.enc 0#11 0#11 k.code [a]
  | .enq g t d m => mkMem 0xAE (boolN t) g (vreg d) m m.srcs
  | .deq g t d m => mkMem 0xAF (boolN t) g (vreg d) m m.srcs
  | .sst g h k v => mkRaw 0xB1 g 0#11 h.enc k.enc v.enc 0 [h, k, v]
  | .sadd g o d h k v => mkDABC 0xB2 o.code g d h k v
  | .sxch g d h k v => mkDABC 0xB3 0 g d h k v
  | .scas g d h k c => mkRaw 0xB4 g d.enc h.enc k.enc c.enc 0 [h, k]
  | .snext g ge d h k => mkRaw 0xB5 g d.enc h.enc k.enc 0#11 (boolN ge) [h, k]
  | .sscan g n ge l d h k => mkRaw 0xB6 g (vreg d) h.enc k.enc (optEnc l) (n.toNat + 32 * boolN ge + 64 * boolN l.isSome) (h :: k :: l.toList)
  | .sstat g w al d h x => mkDAB 0xB7 (w.code + 8 * boolN al) g d h x
  | .cpy g t d x y z => mkDABC 0xC0 (boolN t) g d x y z
  | .cpyg g sl t d x y z => mkDABC 0xC1 (2 * sl.toNat + boolN t) g d x y z
  | .cpym g t d x y z f => { mkDABC 0xC2 (boolN t) g d x y z with lx := 1#1, lit := f }
  | .cpyd g d a b => mkDAB 0xC3 0 g d a b
  | .cpys g d a b => mkDAB 0xC4 0 g d a b
  | .cpyx g d a b => mkDAB 0xC5 0 g d a b
  | .gwait g d a b => mkDAB 0xC6 0 g d a b
  | .gtest g d a b => mkDAB 0xC7 0 g d a b
  | .garm g sl x y z => mkRaw 0xC8 g 0#11 x.enc y.enc z.enc sl.toNat [x, y, z]
  | .gdis g sl d => mkRaw 0xC9 g d.enc 0#11 0#11 0#11 sl.toNat []
  | .cpyq g d k => mkDA 0xCA 0 g d k
  | .cpyqCancel g d k => mkDA 0xCA 1 g d k
  | .tshape g t x => mkRaw 0xD0 g t.enc x.enc 0#11 0#11 0 [t, x]
  | .tld g t x => mkRaw 0xD1 g t.enc x.enc 0#11 0#11 0 [t, x]
  | .tst g t x => mkRaw 0xD2 g t.enc x.enc 0#11 0#11 0 [t, x]
  | .mma g p st bl x a b => mkRaw 0xD3 g (accEnc x) a.enc b.enc 0#11 (p.code + 16 * boolN st + 32 * boolN bl) [a, b]
  | .sacc g f x y a b => mkRaw 0xD4 g (accEnc x) (accEnc y) a.enc b.enc (boolN f) [a, b]
  | .acq g x => mkRaw 0xD5 g (accEnc x) 0#11 0#11 0#11 0 []
  | .rel g x => mkRaw 0xD6 g (accEnc x) 0#11 0#11 0#11 0 []
  | .accout g o rm x a b c => mkRaw 0xD7 g (accEnc x) a.enc b.enc c.enc (8 * o.code + rm.toNat) [a, b, c]
  | .accz g t x => mkRaw 0xD8 g (accEnc x) 0#11 0#11 0#11 (boolN t) []
  | .mfence g d => mkRaw 0xD9 g d.enc 0#11 0#11 0#11 0 []
  | .sret m => mkA 0xE0 0 Guard.always m
  | .sretHost m => mkA 0xE0 1 Guard.always m
  | .pmap g an d a b => mkDAB 0xE1 (boolN an) g d a b
  | .pmapAttr g d a b => mkDAB 0xE1 2 g d a b
  | .pmapUnmap g d a => mkRaw 0xE1 g d.enc a.enc Reg.zr.enc 0#11 4 [a]
  | .pinv g sz a => mkA 0xE2 sz.code g a
  | .pinvAll g => mkRaw 0xE2 g 0#11 Reg.zr.enc 0#11 0#11 4 []
  | .pmigStart d a b => mkDAB 0xE3 0 Guard.always d a b
  | .pmigStat d a => mkRaw 0xE3 Guard.always d.enc a.enc Reg.zr.enc 0#11 1 [a]
  | .icinvLine a => mkA 0xE4 0 Guard.always a
  | .icinvPage a => mkA 0xE4 1 Guard.always a
  | .icinvAsid => mkA 0xE4 2 Guard.always (.reg .zr)
  | .rdctlShb w d => mkRdctl 0 w d
  | .rdctlItab w d => mkRdctl 1 w d
  | .rdctlRbase w d => mkRdctl 2 w d
  | .rdctlRsize w d => mkRdctl 3 w d
  | .rdctlCtl w d => mkRdctl 4 w d
  | .rdctlRhead w d => mkRdctl 5 w d
  | .rdctlRtail w d => mkRdctl 6 w d
  | .rdctlRdrop w d => mkRdctl 7 w d
  | .sdeclCreate g d a b => mkDAB 0xE6 0 g d a b
  | .sdeclGrow g d a b => mkDAB 0xE6 1 g d a b
  | .sdeclRetire g d a => mkRaw 0xE6 g d.enc a.enc Reg.zr.enc 0#11 2 [a]
  | .gtblSpill g d a b => mkDAB 0xE7 0 g d a b
  | .gtblCont g d a b => mkDAB 0xE7 1 g d a b
  | .rep n ds as bs cs => mkRep n ds as bs cs
  | .unassignedOpcode w => Raw.ofWord w 0#64
  | _ => mkNone 0 0 Guard.always

/-- The word of an instruction and its literal word, when it has one (R61). -/
def encode (i : Instr) : Word × Option Word :=
  let r := toRaw i
  (r.toWord, if r.lx = 1#1 then some r.lit else none)

/-- Bytes an instruction occupies: 8, or 16 with a literal word (R61). -/
def Instr.size (i : Instr) : Nat := if (toRaw i).lx = 1#1 then 16 else 8

/-! ### Bytes -/

/-- Eight bytes, lowest address first, as a little-endian word (R61). -/
def wordOfBytes (l : List Byte) : Word :=
  BitVec.ofNat 64 (l.foldr (fun b acc => acc * 256 + b.toNat) 0)

/-- The eight bytes of a word, lowest address first. -/
def bytesOfWord (w : Word) : List Byte :=
  [0, 1, 2, 3, 4, 5, 6, 7].map fun k => w.extractLsb' (8 * k) 8

/-- The decoder on any bytes: one instruction and the bytes that follow it, or why there is none. -/
def decode (l : List Byte) : Except DecodeError (Instr × List Byte) :=
  if l.length < 8 then .error .truncated
  else
    let w := wordOfBytes (l.take 8)
    if w.extractLsb' 0 1 = 1#1 then
      if l.length < 16 then .error .truncated
      else do
        let i ← decodeWord w (wordOfBytes ((l.drop 8).take 8))
        return (i, l.drop 16)
    else do
      let i ← decodeWord w 0#64
      return (i, l.drop 8)

/-- The bytes of an instruction in memory (R61). -/
def encodeBytes (i : Instr) : List Byte :=
  match encode i with
  | (w, none) => bytesOfWord w
  | (w, some l) => bytesOfWord w ++ bytesOfWord l

/-- The instruction the decoder reads from an instruction whose bits are `w`, bit 0 the least significant
bit of the first word; bits above `nbits` are zero. -/
def decodeTableWord (nbits w : Nat) : Option Instr :=
  let v := w % 2 ^ nbits
  match decode (bytesOfWord (BitVec.ofNat 64 v) ++ bytesOfWord (BitVec.ofNat 64 (v / 2 ^ 64))) with
  | .ok (i, _) => some i
  | .error _ => none

end Sys2Proof
end

