-- ==== Sys2Proof/Machine/Bits.lean ====
section
/-! DEFINITION. Bit-field helpers over words, masks and naturals used by every layer of the machine. -/

namespace Sys2Proof.Machine

/-- Bits `lo + n - 1 : lo` of a natural number. -/
def bitsAt (x lo n : Nat) : Nat := (x >>> lo) % 2 ^ n

/-- Bit `k` of a natural number. -/
def bitAt (x k : Nat) : Bool := (x >>> k) % 2 == 1

/-- A truth value as the number 1 or 0. -/
def boolNat (b : Bool) : Nat := if b then 1 else 0

/-- The low `n` bits of `x` read as two's complement. -/
def sxInt (n x : Nat) : Int :=
  let y := x % 2 ^ n
  if y < 2 ^ (n - 1) then (y : Int) else (y : Int) - (2 ^ n : Nat)

/-- The `n`-bit two's complement pattern of an integer, as a natural. -/
def wrapNat (n : Nat) (i : Int) : Nat := (i % ((2 ^ n : Nat) : Int)).toNat

/-- The 64-bit pattern of an integer. -/
def wordOf (i : Int) : Word := BitVec.ofInt 64 i

/-- The 64-bit pattern of a natural. -/
def wordN (n : Nat) : Word := BitVec.ofNat 64 n

/-- The lanes of a warp in ascending order. -/
def lanes : List Nat := List.range 32

/-- Lane `i` belongs to mask `m` (R17). -/
def inMask (m : Mask) (i : Nat) : Bool := m.getLsbD i

/-- The lanes of a mask in ascending order. -/
def maskLanes (m : Mask) : List Nat := lanes.filter (inMask m)

/-- The mask whose members satisfy `p`. -/
def maskWhere (p : Nat → Bool) : Mask :=
  BitVec.ofNat 32 (lanes.foldl (fun n i => if p i then n + 2 ^ i else n) 0)

/-- The mask of one lane. -/
def laneMask (i : Nat) : Mask := BitVec.ofNat 32 (2 ^ i)

/-- The lowest lane of a mask; 0 of an empty one. -/
def lowLane (m : Mask) : Nat := (maskLanes m).headD 0

/-- All 32 lanes. -/
def allLanes : Mask := 0xFFFFFFFF#32

/-- Number of one bits among the low `k` bits. -/
def popNat : Nat → Nat → Nat
  | 0, _ => 0
  | k + 1, x => x % 2 + popNat k (x / 2)

/-- Number of trailing zero bits, at most `k` (R137). -/
def ctzNat : Nat → Nat → Nat
  | 0, _ => 0
  | k + 1, x => if x % 2 == 1 then 0 else 1 + ctzNat k (x / 2)

/-- Bits needed to write `x`; 0 for 0. -/
def bitLen (x : Nat) : Nat := if x == 0 then 0 else Nat.log2 x + 1

/-- Leading zero bits of a 64-bit payload (R137). -/
def clz64 (x : Nat) : Nat := 64 - bitLen x

/-- Bit `j` moved to bit `63 - j` (R137). -/
def brevGo : Nat → Nat → Nat → Nat
  | 0, _, acc => acc
  | k + 1, x, acc => brevGo k (x / 2) (acc * 2 + x % 2)

def brev64 (x : Word) : Word := wordN (brevGo 64 x.toNat 0)

/-- Element `j` of a packed word of elements `w` bits wide (R37). -/
def elemAt (x w j : Nat) : Nat := bitsAt x (j * w) w

/-- The packed word of a list of elements `w` bits wide, element 0 lowest (R37). -/
def packElems (w : Nat) (l : List Nat) : Nat :=
  l.foldr (fun e acc => e % 2 ^ w + acc * 2 ^ w) 0

/-- Replace element `i` of a list; a number past the end changes nothing. -/
def setAt {α : Type} : List α → Nat → α → List α
  | [], _, _ => []
  | _ :: l, 0, y => y :: l
  | x :: l, i + 1, y => x :: setAt l i y

/-- Apply `f` to element `i` of a list. -/
def modifyAt {α : Type} : List α → Nat → (α → α) → List α
  | [], _, _ => []
  | x :: l, 0, f => f x :: l
  | x :: l, i + 1, f => x :: modifyAt l i f

/-- The first element that satisfies `p`, replaced by `f` of it. -/
def modifyFirst {α : Type} (p : α → Bool) (f : α → α) : List α → List α
  | [] => []
  | x :: l => if p x then f x :: l else x :: modifyFirst p f l

/-- The list without its first element that satisfies `p`. -/
def eraseFirst {α : Type} (p : α → Bool) : List α → List α
  | [] => []
  | x :: l => if p x then l else x :: eraseFirst p l

/-- The mixing function of stochastic rounding (R52). -/
def mix32 (z : BitVec 32) : BitVec 32 :=
  let z := z ^^^ (z >>> 16)
  let z := z * 0x6B2FD5A3#32
  let z := z ^^^ (z >>> 15)
  let z := z * 0xC2B1E757#32
  z ^^^ (z >>> 16)

/-- HASH of two payloads (R59). -/
def hash64 (a b : Word) : Word :=
  let x := a ^^^ b.rotateLeft 29 ^^^ 0x5851F42D4C957F2D#64
  let x := x ^^^ (x >>> 31)
  let x := x * 0x9C2F71B35A6DE4C7#64
  let x := x ^^^ (x >>> 27)
  let x := x * 0xD4A13E9F6B07C28B#64
  x ^^^ (x >>> 33)

end Sys2Proof.Machine
end

