-- ==== Sys2Proof/Machine/Float.lean ====
section
/-! DEFINITION. Number formats, rounding and exact floating-point arithmetic (spec/02 R34-R56).
A finite number is held exactly as sign, natural mantissa and integer exponent; every operation is
computed exactly and rounded once. A quotient or root that does not end is held with one more bit that
is 1, far below the last place of every format, so that every rounding of it is that of the exact value. -/

namespace Sys2Proof.Machine

/-- The sticky flags of FPST in bit order (R55). -/
abbrev Flags := BitVec 7

def fIX : Flags := 0x01#7
def fUF : Flags := 0x02#7
def fOF : Flags := 0x04#7
def fDZ : Flags := 0x08#7
def fNV : Flags := 0x10#7
def fSA : Flags := 0x20#7
def fAW : Flags := 0x40#7

/-- An exact floating-point value: NaN, an infinity, or (-1)^neg * m * 2^e. Zero has m = 0. -/
inductive Fp where
  | nan
  | inf (neg : Bool)
  | num (neg : Bool) (m : Nat) (e : Int)
  deriving DecidableEq, Repr

/-- The binary floating-point formats of R38. -/
inductive FpFmt where
  | f64 | f32 | f16 | bf16 | e4m3 | e5m2
  deriving DecidableEq, Repr

/-- How one rounding goes (R48): the five fixed modes, or stochastic with its decision made. -/
inductive Rnd where
  | rne | rtz | rdn | rup | rna
  | sr (up : Bool)
  deriving DecidableEq, Repr

/-- FPCTL.S43 and FPCTL.S52 as an operation sees them (R41). -/
structure Sat8 where
  s43 : Bool
  s52 : Bool
  deriving DecidableEq, Repr

/-- Precision in bits, the leading one included (R38). -/
def FpFmt.prec : FpFmt → Nat
  | .f64 => 53 | .f32 => 24 | .f16 => 11 | .bf16 => 8 | .e4m3 => 4 | .e5m2 => 3

def FpFmt.bias : FpFmt → Nat
  | .f64 => 1023 | .f32 => 127 | .f16 => 15 | .bf16 => 127 | .e4m3 => 7 | .e5m2 => 15

/-- Width of the exponent field (R38). -/
def FpFmt.expBits : FpFmt → Nat
  | .f64 => 11 | .f32 => 8 | .f16 => 5 | .bf16 => 8 | .e4m3 => 4 | .e5m2 => 5

/-- Width of the whole pattern. -/
def FpFmt.width (f : FpFmt) : Nat := 1 + f.expBits + (f.prec - 1)

/-- Exponent of the unit in the last place of the subnormals and of the smallest normal (R38). -/
def FpFmt.qmin (f : FpFmt) : Int := 1 - (f.bias : Int) - ((f.prec : Int) - 1)

/-- Pattern of the largest finite value, sign 0 (R38). -/
def FpFmt.maxBits : FpFmt → Nat
  | .f64 => 0x7FEFFFFFFFFFFFFF | .f32 => 0x7F7FFFFF | .f16 => 0x7BFF | .bf16 => 0x7F7F
  | .e4m3 => 0x7E | .e5m2 => 0x7B

/-- Mantissa of the largest finite value. -/
def FpFmt.maxMant : FpFmt → Nat
  | .e4m3 => 14
  | f => 2 ^ f.prec - 1

/-- Exponent of the unit in the last place of the largest finite value. -/
def FpFmt.qmax : FpFmt → Int
  | .f64 => 971 | .f32 => 104 | .f16 => 5 | .bf16 => 120 | .e4m3 => 5 | .e5m2 => 13

/-- The canonical NaN (R38). -/
def FpFmt.nanBits : FpFmt → Nat
  | .f64 => 0x7FF8000000000000 | .f32 => 0x7FC00000 | .f16 => 0x7E00 | .bf16 => 0x7FC0
  | .e4m3 => 0x7F | .e5m2 => 0x7E

/-- The pattern of +infinity; E4M3 has none (R38) and never asks for it. -/
def FpFmt.infBits : FpFmt → Nat
  | .f64 => 0x7FF0000000000000 | .f32 => 0x7F800000 | .f16 => 0x7C00 | .bf16 => 0x7F80
  | .e4m3 => 0x7E | .e5m2 => 0x7C

def FpFmt.signBit (f : FpFmt) (neg : Bool) : Nat := if neg then 2 ^ (f.width - 1) else 0

/-- The value of a pattern (R38). -/
def FpFmt.decode (f : FpFmt) (bits : Nat) : Fp :=
  let fb := f.prec - 1
  let neg := bitAt bits (f.width - 1)
  let ex := bitsAt bits fb f.expBits
  let fr := bitsAt bits 0 fb
  let top := 2 ^ f.expBits - 1
  match f with
  | .e4m3 =>
    if ex == top && fr == 7 then .nan
    else if ex == 0 then .num neg fr f.qmin
    else .num neg (fr + 2 ^ fb) (f.qmin + (ex : Int) - 1)
  | _ =>
    if ex == top then (if fr == 0 then .inf neg else .nan)
    else if ex == 0 then .num neg fr f.qmin
    else .num neg (fr + 2 ^ fb) (f.qmin + (ex : Int) - 1)

/-- The rounding of the discarded part `low` of `d` bits goes up in magnitude (R48). -/
def Rnd.goesUp (r : Rnd) (neg : Bool) (t low d : Nat) : Bool :=
  match r with
  | .rne => decide (2 ^ d < 2 * low) || (2 * low == 2 ^ d && t % 2 == 1)
  | .rtz => false
  | .rdn => neg && low != 0
  | .rup => !neg && low != 0
  | .rna => decide (2 ^ d ≤ 2 * low)
  | .sr up => up && low != 0

/-- `m * 2^e` as a multiple of `2^q`, rounded, and whether bits were discarded. -/
def roundAt (r : Rnd) (neg : Bool) (m : Nat) (e q : Int) : Nat × Bool :=
  if q ≤ e then (m <<< (e - q).toNat, false)
  else
    let d := (q - e).toNat
    let t := m >>> d
    let low := m % 2 ^ d
    if low == 0 then (t, false) else if r.goesUp neg t low d then (t + 1, true) else (t, true)

/-- An overflow gives an infinity rather than the largest finite value (R50). -/
def Rnd.toInf (r : Rnd) (neg : Bool) : Bool :=
  match r with
  | .rne | .rna => true
  | .rtz => false
  | .rdn => neg
  | .rup => !neg
  | .sr up => up

/-- The result and flags of an overflow (R41, R50). -/
def FpFmt.overflow (f : FpFmt) (c : Sat8) (r : Rnd) (neg : Bool) : Nat × Flags :=
  let s := f.signBit neg
  if r.toInf neg then
    match f with
    | .e4m3 => if c.s43 then (s + f.maxBits, fOF ||| fIX ||| fSA) else (f.nanBits, fOF ||| fIX ||| fNV)
    | .e5m2 => if c.s52 then (s + f.maxBits, fOF ||| fIX ||| fSA) else (s + f.infBits, fOF ||| fIX)
    | _ => (s + f.infBits, fOF ||| fIX)
  else (s + f.maxBits, fOF ||| fIX)

/-- A mantissa of at most `prec` bits at exponent `q` as a pattern without its sign. -/
def FpFmt.pack (f : FpFmt) (m : Nat) (q : Int) : Nat :=
  if m < 2 ^ (f.prec - 1) then m
  else (q - f.qmin + 1).toNat * 2 ^ (f.prec - 1) + (m - 2 ^ (f.prec - 1))

/-- A finite number rounded into the format, with its flags (R40, R41, R50, R51). -/
def FpFmt.roundNum (f : FpFmt) (c : Sat8) (r : Rnd) (neg : Bool) (m : Nat) (e : Int) : Nat × Flags :=
  if m == 0 then (f.signBit neg, 0#7)
  else
    let top : Int := (Nat.log2 m : Int) + e
    let qU := top - ((f.prec : Int) - 1)
    let q := if qU < f.qmin then f.qmin else qU
    let (v, ix) := roundAt r neg m e q
    let (v, q) := if v == 2 ^ f.prec then (2 ^ (f.prec - 1), q + 1) else (v, q)
    if f.qmax < q || (q == f.qmax && decide (f.maxMant < v)) then f.overflow c r neg
    else
      let tiny := decide (qU < f.qmin) &&
        (let (u, _) := roundAt r neg m e qU
         !(u == 2 ^ f.prec && qU + 1 == f.qmin))
      let fl : Flags := (if ix then fIX else 0#7) ||| (if ix && tiny then fUF else 0#7)
      (f.signBit neg + f.pack v q, fl)

/-- Any exact value rounded into the format (R39, R41). -/
def FpFmt.round (f : FpFmt) (c : Sat8) (r : Rnd) (x : Fp) : Nat × Flags :=
  match x with
  | .nan => (f.nanBits, 0#7)
  | .inf neg =>
    match f with
    | .e4m3 => if c.s43 then (f.signBit neg + f.maxBits, fOF ||| fSA) else (f.nanBits, fNV)
    | _ => (f.signBit neg + f.infBits, 0#7)
  | .num neg m e => f.roundNum c r neg m e

/-- A pattern of the format is a NaN. -/
def FpFmt.isNan (f : FpFmt) (bits : Nat) : Bool := f.decode bits == .nan

/-- The control bits do not matter for the formats that keep infinities (R41). -/
def noSat : Sat8 := ⟨true, false⟩

/-- Binary32 widened to binary64, exactly; a NaN becomes the canonical NaN (R39). -/
def widen32 (bits : Nat) : Nat := (FpFmt.f64.round noSat .rne (FpFmt.f32.decode bits)).1

/-! ### Exact arithmetic -/

/-- An integer as an exact number; zero is +0 (R103). -/
def Fp.ofInt (i : Int) : Fp := .num (i < 0) i.natAbs 0

/-- A signed mantissa at an exponent; `z` is the sign of a zero. -/
def Fp.ofSigned (z : Bool) (i : Int) (e : Int) : Fp :=
  if i == 0 then .num z 0 0 else .num (i < 0) i.natAbs e

def Fp.sgn : Bool → Nat → Int
  | true, m => -(m : Int)
  | false, m => (m : Int)

def Fp.isZero : Fp → Bool
  | .num _ 0 _ => true
  | _ => false

def Fp.isNeg : Fp → Bool
  | .nan => false
  | .inf n => n
  | .num n _ _ => n

/-- The sign of an exact zero sum of opposite-signed values (R40). -/
def Rnd.zeroSign (r : Rnd) : Bool := r == .rdn

def Fp.negate : Fp → Fp
  | .nan => .nan
  | .inf n => .inf (!n)
  | .num n m e => .num (!n) m e

/-- Sum of two values (R39, R40). -/
def Fp.add (r : Rnd) (x y : Fp) : Fp × Flags :=
  match x, y with
  | .nan, _ | _, .nan => (.nan, 0#7)
  | .inf a, .inf b => if a == b then (.inf a, 0#7) else (.nan, fNV)
  | .inf a, .num _ _ _ => (.inf a, 0#7)
  | .num _ _ _, .inf b => (.inf b, 0#7)
  | .num a m e, .num b n f =>
    let lo := if e ≤ f then e else f
    let i := Fp.sgn a (m <<< (e - lo).toNat) + Fp.sgn b (n <<< (f - lo).toNat)
    (Fp.ofSigned (if a == b then a else r.zeroSign) i lo, 0#7)

/-- Product of two values (R39). -/
def Fp.mul (x y : Fp) : Fp × Flags :=
  match x, y with
  | .nan, _ | _, .nan => (.nan, 0#7)
  | .inf a, .inf b => (.inf (a != b), 0#7)
  | .inf a, .num b n _ => if n == 0 then (.nan, fNV) else (.inf (a != b), 0#7)
  | .num a m _, .inf b => if m == 0 then (.nan, fNV) else (.inf (a != b), 0#7)
  | .num a m e, .num b n f => (.num (a != b) (m * n) (if m * n == 0 then 0 else e + f), 0#7)

/-- a * b + c before its one rounding (R145). -/
def Fp.fma (r : Rnd) (x y z : Fp) : Fp × Flags :=
  let (p, fl) := Fp.mul x y
  match p with
  | .nan => (.nan, fl)
  | _ => Fp.add r p z

/-- Quotient with at least 70 bits, a last bit 1 standing for the rest (R39, R145). -/
def Fp.div (x y : Fp) : Fp × Flags :=
  match x, y with
  | .nan, _ | _, .nan => (.nan, 0#7)
  | .inf _, .inf _ => (.nan, fNV)
  | .inf a, .num b _ _ => (.inf (a != b), 0#7)
  | .num a _ _, .inf b => (.num (a != b) 0 0, 0#7)
  | .num a m e, .num b n f =>
    if n == 0 then (if m == 0 then (.nan, fNV) else (.inf (a != b), fDZ))
    else if m == 0 then (.num (a != b) 0 0, 0#7)
    else
      let k := 70 + bitLen n
      let q := (m <<< k) / n
      let s := if (m <<< k) % n == 0 then 0 else 1
      (.num (a != b) (2 * q + s) (e - f - (k : Int) - 1), 0#7)

/-- Integer square root by bits, from bit `k` down. -/
def isqrtGo : Nat → Nat → Nat → Nat
  | 0, _, r => r
  | k + 1, n, r =>
    let t := r + 2 ^ k
    if t * t ≤ n then isqrtGo k n t else isqrtGo k n r

/-- Floor of the square root. -/
def isqrt (n : Nat) : Nat := isqrtGo (bitLen n / 2 + 1) n 0

/-- Square root with at least 70 bits, a last bit 1 standing for the rest (R145). -/
def Fp.sqrt (x : Fp) : Fp × Flags :=
  match x with
  | .nan => (.nan, 0#7)
  | .inf neg => if neg then (.nan, fNV) else (.inf false, 0#7)
  | .num neg m e =>
    if m == 0 then (.num neg 0 0, 0#7)
    else if neg then (.nan, fNV)
    else
      let k := 140 + (e % 2).toNat
      let n := m <<< k
      let t := isqrt n
      let s := if t * t == n then 0 else 1
      (.num false (2 * t + s) ((e - (k : Int)) / 2 - 1), 0#7)

/-- Order of two exact values, zeros equal; none when either is NaN (R103, R147). -/
def Fp.cmp (x y : Fp) : Option Ordering :=
  match x, y with
  | .nan, _ | _, .nan => none
  | .inf a, .inf b => some (if a == b then .eq else if a then .lt else .gt)
  | .inf a, .num _ _ _ => some (if a then .lt else .gt)
  | .num _ _ _, .inf b => some (if b then .gt else .lt)
  | .num a m e, .num b n f =>
    let lo := if e ≤ f then e else f
    some (compare (Fp.sgn a (m <<< (e - lo).toNat)) (Fp.sgn b (n <<< (f - lo).toNat)))

/-- The order in which -0 lies below +0 (R39, R104): x is below y. -/
def Fp.below (x y : Fp) : Bool :=
  match Fp.cmp x y with
  | some .lt => true
  | some .eq => x.isZero && y.isZero && x.isNeg && !y.isNeg
  | _ => false

/-- Rounding to an integral value, the sign of a zero result kept (R148). -/
def Fp.integral (r : Rnd) (x : Fp) : Fp :=
  match x with
  | .num neg m e => .num neg (roundAt r neg m e 0).1 0
  | y => y

/-! ### Conversions -/

/-- The range of an integer view (R34). -/
def fmtRange : Fmt → Int × Int
  | .i8 => (-128, 127) | .n8 => (0, 255)
  | .i16 => (-32768, 32767) | .n16 => (0, 65535)
  | .i32 => (-2147483648, 2147483647) | .n32 => (0, 4294967295)
  | _ => (-9223372036854775808, 9223372036854775807)

/-- Width in bits of an element or memory format (R37, R173). -/
def fmtBits : Fmt → Nat
  | .i64 | .f64 | .ts | .raw => 64
  | .f32 | .i32 | .n32 => 32
  | .f16 | .bf16 | .i16 | .n16 => 16
  | .e4m3 | .e5m2 | .e8m0 | .i8 | .n8 => 8

/-- Two's complement views are sign-extended when read (R34). -/
def fmtSigned : Fmt → Bool
  | .i8 | .i16 | .i32 | .i64 => true
  | _ => false

/-- The binary floating-point format of a format code, if it is one. -/
def fmtFp : Fmt → Option FpFmt
  | .f64 => some .f64 | .f32 => some .f32 | .f16 => some .f16 | .bf16 => some .bf16
  | .e4m3 => some .e4m3 | .e5m2 => some .e5m2 | _ => none

def clampInt (lo hi i : Int) : Int := if i < lo then lo else if hi < i then hi else i

/-- An integer clamped to a view; SA when it clamps (R35, R153). -/
def satInt (fm : Fmt) (i : Int) : Int × Flags :=
  let (lo, hi) := fmtRange fm
  let c := clampInt lo hi i
  (c, if c == i then 0#7 else fSA)

/-- A floating-point value rounded and saturated into an integer view (R36). -/
def fpToInt (fm : Fmt) (r : Rnd) (x : Fp) : Int × Flags :=
  let (lo, hi) := fmtRange fm
  match x with
  | .nan => (0, fNV)
  | .inf neg => (if neg then lo else hi, fNV)
  | .num neg m e =>
    let (v, ix) := roundAt r neg m e 0
    let i := Fp.sgn neg v
    let c := clampInt lo hi i
    (c, if c == i then (if ix then fIX else 0#7) else fNV)

/-- The value of an E8M0 code (R42). -/
def e8m0Decode (b : Nat) : Fp :=
  if b % 256 == 255 then .nan else .num false 1 ((b % 256 : Nat) - 127)

/-- Conversion to E8M0 (R43). -/
def e8m0Encode (r : Rnd) (x : Fp) : Nat × Flags :=
  match x with
  | .nan => (0xFF, fNV)
  | .inf neg => if neg then (0xFF, fNV) else (0xFE, fOF ||| fSA)
  | .num neg m e =>
    if neg || m == 0 then (0xFF, fNV)
    else
      let l := Nat.log2 m
      let top : Int := (l : Int) + e
      let fr := m - 2 ^ l
      let up := match r with
        | .rtz | .rdn => false
        | .rup => fr != 0
        | _ => decide (2 ^ l ≤ 2 * fr)
      let ex : Int := if up then top + 128 else top + 127
      if ex < 0 then (0x00, fUF ||| fIX)
      else if 254 < ex then (0xFE, fOF ||| fSA ||| fIX)
      else (ex.toNat, if fr == 0 then 0#7 else fIX)

/-- A number about to be converted: an integer, or a floating-point value (R153). -/
inductive Num where
  | int (i : Int)
  | fp (x : Fp)
  deriving DecidableEq, Repr

def Num.toFp : Num → Fp
  | .int i => Fp.ofInt i
  | .fp x => x

/-- A number converted into a format: the element's pattern and the flags (R153, R154, R173).
An integer view takes the low bits of the clamped value. -/
def convElem (fm : Fmt) (c : Sat8) (r : Rnd) (x : Num) : Nat × Flags :=
  match fmtFp fm with
  | some f => f.round c r x.toFp
  | none =>
    match fm with
    | .e8m0 => e8m0Encode r x.toFp
    | _ =>
      let (i, fl) := match x with
        | .int i => satInt fm i
        | .fp y => fpToInt fm r y
      (wrapNat (fmtBits fm) i, fl)

/-- A pattern of the format is its NaN (R57). -/
def elemIsNan (fm : Fmt) (b : Nat) : Bool :=
  match fmtFp fm with
  | some f => f.isNan b
  | none => fm == .e8m0 && b % 256 == 255

/-- The discarded bits k and D of one element under stochastic rounding (R53). -/
def srDiscard (fm : Fmt) (x : Num) : Nat × Nat :=
  match x.toFp with
  | .num _ m e =>
    if m == 0 then (0, 0)
    else
      let q : Int := match fmtFp fm with
        | some f =>
          let qU := (Nat.log2 m : Int) + e - ((f.prec : Int) - 1)
          if qU < f.qmin then f.qmin else qU
        | none => 0
      if q ≤ e then (0, 0)
      else
        let d := (q - e).toNat
        let low := m % 2 ^ d
        if low == 0 then (0, 0)
        else
          let k0 := d - ctzNat d low
          let k := if k0 ≤ 32 then k0 else 32
          (k, low >>> (d - k))
  | _ => (0, 0)

/-- The decision of element `i` of a ring of elements with discarded bits `ds` (R53). -/
def srDecide (ds : List (Nat × Nat)) (i : Nat) : Bool :=
  let n := ds.length
  let dAt := fun j => BitVec.ofNat 32 ((ds.getD j (0, 0)).2)
  let (k, d) := ds.getD i (0, 0)
  if k == 0 then false
  else
    let z := dAt ((i + n - 1) % n) ^^^ (dAt ((i + 1) % n)).rotateLeft 13 ^^^
      BitVec.ofNat 32 (i * 0x9E3779B9)
    decide ((mix32 z).toNat >>> (32 - k) < d)

/-- An element read from memory or a packed word, as a value to widen (R155, R173). -/
def elemDecode (fm : Fmt) (b : Nat) : Fp :=
  match fmtFp fm with
  | some f => f.decode b
  | none => e8m0Decode b

/-- An integer element read, sign- or zero-extended (R34). -/
def elemInt (fm : Fmt) (b : Nat) : Int :=
  if fmtSigned fm then sxInt (fmtBits fm) b else ((b % 2 ^ (fmtBits fm) : Nat) : Int)

/-! ### K8 weights (R44, R45) -/

/-- The default magnitude row m (R47): eight magnitudes of 4 bits, lowest first, and the parity bit 32. -/
def k8DefaultRow (m : Nat) : Nat :=
  let b := fun k => boolNat (bitAt m (k % 8))
  packElems 4 ((List.range 8).map fun j => 2 * b j + b (j + 1)) + (popNat 8 m % 2) * 2 ^ 32

/-- Weight j of a K8 code under its table row, in quarters with its sign (R45). -/
def k8Weight (row code j : Nat) : Bool × Nat :=
  let s7 := (popNat 7 (bitsAt code 1 7) + bitsAt row 32 1) % 2 == 1
  let s := if j == 7 then s7 else bitAt code (j + 1)
  (s, 2 * bitsAt row (4 * j) 4 + bitsAt code 0 1)

/-- The weight as an exact value; q = 0 gives +0 (R45). -/
def k8Fp (row code j : Nat) : Fp :=
  let (s, q) := k8Weight row code j
  if q == 0 then .num false 0 0 else .num s q (-2)

end Sys2Proof.Machine
end

