-- ==== Sys2Proof/Config.lean ====
section
/-! DEFINITION. What the specification leaves open, as constants with no body: nothing can be proved of
their values (notes/assumptions/6.md). Each is applied to a counter of the state, so that every use is a
fresh value. -/

namespace Sys2Proof

/-- Cycles that one step of the model takes, less one (cycle counts are out of scope; log 6). -/
opaque Config.stepCycles : Nat → Nat

/-- Nanoseconds of wall-clock time at a step (R24, TIME; log 6). -/
opaque Config.wallClock : Nat → Word

/-- Frames of a die that firmware offers for contexts at bring-up (R277, R514, R528; log 6). -/
opaque Config.freeFrames : Nat → Nat

/-- Frames of a die that firmware puts into its pool at bring-up (R528 step 5; log 6). -/
opaque Config.bootPool : Nat → List Nat

/-- The tag that a word of a loaded tagged section takes, a function of the image and the word's number (R95; log 27). -/
opaque Config.wordTag : List Byte → Nat → Nat

/-- What the memory decrypted without its key reads as (R523; log 6). -/
opaque Config.noKey : Nat → Word

/-- A free frame of a die to hand out where the specification leaves the choice open, as an index
into the free ones (R454, R487; log 6). -/
opaque Config.framePick : Nat → Nat

/-- The hub key store holds the named key and the signature of a code image verifies under it (R487 step 1;
log 26): a function of the key id, the image and its signature. -/
opaque Config.sigOk : Nat → List Byte → List Byte → Bool

/-- SHA-384 digest of the firmware recorded at boot (R528; log 6). -/
opaque Config.fwDigest : Nat

/-- The outcome of a bring-up: 0, or the status code of the step that failed (R528; log 6). -/
opaque Config.bootStatus : Nat → Nat

/-- A telemetry reading: power, temperatures (R525; log 6). -/
opaque Config.telemetry : Nat → Word

/-- Rate limit of a port set at boot, in percent (R524; log 6). -/
opaque Config.rateLimit : Nat → Nat

/-- The element, of those a choice is open among, that the hardware takes (R236, R259, R305). -/
opaque Config.choice : Nat → Nat → Nat

/-- The scale-up port, 0 to 31, that carries the traffic to a device: 0 to 15 are HD0's (R495, R506; log 60). -/
opaque Config.devPort : Nat → Nat

/-- The hub whose CXL port carries the host's traffic for a line, of the two (R495, R510; log 60). -/
opaque Config.cxlHub : Nat → Nat

/-- Where a context's image of a core lies, as a number of MiB (R471; log 44). -/
opaque Config.coreImage : Nat → Nat → Nat

end Sys2Proof
end

