-- ==== Sys2Proof/Machine/State.lean ====
section
/-! DEFINITION. The state of one OB880 as plain data, the reasons a step can stop, and the state after
reset. Every field cites the rule that names it; INVENTORY.md lists them all. -/

namespace Sys2Proof.Machine

/-- A virtual or code address of 56 bits (R11, R270). -/
abbrev Addr := BitVec 56

/-- A tagged value (R11). -/
structure Val where
  tag : Tag
  pl : Word
  deriving DecidableEq, Repr

/-- A vector row: 32 lane values (R16). -/
abbrev Row := List Val

/-- An operand, a result or a latch entry: per lane, or one value for the warp (R70, R72). -/
inductive Opd where
  | vec (r : Row)
  | sca (v : Val)
  deriving DecidableEq, Repr

/-- Why a run stops outside what the manual describes. -/
inductive Fault where
  /-- An instruction word is executed while `cur` names no warp that holds a slot: no warp of the
  device could execute it. Raised by every instruction meaning; safe (log 2). -/
  | noWarp
  deriving DecidableEq, Repr

/-- No meaning for an instruction. -/
inductive Refusal where
  /-- The instruction named is not modelled. Raised by exec's own arms only; safe. -/
  | notModelled (mnemonic : String)
  deriving DecidableEq, Repr

/-- Fault classes (R440), in the order of their codes 1 to 17. -/
inductive FClass where
  | machineCheck | undefinedInstr | instruction | operand | place | translation | protection
  | classFault | tagFault | typeFault | ownership | arithmetic | indexExhaustion | spawnOverflow
  | registerRequest | systemCall | watchdog
  deriving DecidableEq, Repr

/-- A fault of one lane: class, detail (R445), FCAUSE.INFO and FVA (R443, R444). -/
structure LFault where
  cls : FClass
  det : Nat
  info : Nat
  fva : Nat
  deriving DecidableEq, Repr

/-- Kinds of rejoin entry (R192). -/
inductive RKind where
  | join | path | handler | pending
  deriving DecidableEq, Repr

/-- A rejoin-stack entry (R193). -/
structure Rejoin where
  kind : RKind
  rsn : Bool
  pc : Addr
  lvl : Nat
  repc : Nat
  mask : Mask
  deriving DecidableEq, Repr

/-- What a diversion has still to finish when its handlers return (R74, R117, R118, R122, R179). -/
structure Diverted where
  dst : Dst
  vec : Bool
  pushes : Bool            -- the instruction has a destination field (R72)
  acc : Row                -- lane values where no register holds them
  offs : List Nat          -- LDL: which register of the run each lane's value goes to
  pc : Addr                -- address of the diverting instruction
  redo : Option Mask       -- SPAWN, LDL: the lanes for which it is issued again
  oa : Row                 -- operands of the diverting lanes (R114)
  ob : Row
  popped : List Opd        -- channel values it had read
  deriving DecidableEq, Repr

/-- A lane-handler frame (R115, R403, R469). -/
structure HFrame where
  latches : List Opd
  ha : Row
  hb : Row
  hopRsn : Bool
  hopCls : Nat
  hpc : Addr
  repc : Nat
  hnd : Bool
  alarm : Bool
  div : Option Diverted
  deriving DecidableEq, Repr

/-- A load whose results have not arrived (R169): the registers it wrote and the place of its latch entry, which
no instruction may read before it completes (R202). The values themselves are in the registers already (log 20). -/
structure PendLoad where
  regs : List Reg
  latch : Option Nat
  deriving DecidableEq, Repr

/-- The operations an index engine carries out (R366-R370). -/
inductive SpKind where
  | sld
  | sst (v : Val)
  | sxch (v : Val)
  | sadd (op : SOp) (v : Val)
  | scas (e n : Val)
  | snext (ge : Bool)
  | sscan (n : Nat) (ge : Bool) (lim : Option Nat)
  | sstat (what : StatWhat) (all : Bool)
  deriving DecidableEq, Repr

/-- One lane's operation at an index engine (R361, R362): engines of this device are 0 to 31. -/
structure SpOp where
  eng : Nat
  warp : Nat
  lane : Nat
  desc : Nat               -- descriptor's virtual address
  asid : Nat
  key : Nat
  stripe : Nat
  kind : SpKind
  ins : Nat                -- number of the instruction that sent it; 0 for another device's
  deriving DecidableEq, Repr

/-- A sparse instruction whose results are not all there (R363): its lanes' results so far. -/
structure SpPend where
  id : Nat
  pc : Addr                -- the instruction's address
  lanes : Mask
  dsts : List Dst
  pushes : Bool
  size : Nat
  vec : Bool
  rows : Bool              -- SSCAN writes whole rows
  left : Nat               -- operations not yet carried out
  res : List (Nat × List Val)
  faults : List (Nat × LFault)
  popped : List Opd
  wait : PendLoad          -- what no instruction may use before its results are there (R202)
  block : Bool             -- nothing of the warp issues before it is done (log 56)
  ops : List SpOp          -- what it sent: SRET has those of refused lanes sent again (R372)
  back : List SpOp         -- to be sent again, in their order
  deriving DecidableEq, Repr

/-- How SRET goes on (R448, R450). -/
inductive SKind where
  | replay | after | copy | matrix
  /-- A replay of the operations that an engine refused after later instructions had issued (log 56). -/
  | sparse
  deriving DecidableEq, Repr

/-- The supervisor frame (R448, R469). -/
structure SFrame where
  latches : List Opd
  s20 : List Val
  ha : Row
  hb : Row
  em : Mask
  repc : Nat
  hnd : Bool
  depth : Nat
  repPc : Addr
  resPc : Addr
  fcause : Word
  flm : Mask
  kind : SKind
  ticket : Nat
  lanes : Mask             -- effective lane set at issue (R530)
  whole : Bool             -- a combining instruction (R530)
  popped : List Opd        -- channel values the instruction had read (R450)
  part : List (Nat × Val)  -- values of completed lanes that no register holds (R442)
  sp : List SpPend         -- sparse instructions that go on after SRET (log 56)
  deriving DecidableEq, Repr

/-- A replay that SRET has ordered (R450), or a reissue after a lane handler (R122, R179). -/
structure Replay where
  lanes : Mask
  popped : List Opd
  part : List (Nat × Val)
  unchecked : Bool
  skipTo : Addr            -- where a skipped instruction that cannot be decoded continues
  deriving DecidableEq, Repr

/-- A channel-table entry (R347). -/
structure Chan where
  kind : ChKind
  desc : Nat
  pos : Pos                -- core whose FIFO or decoder it names (log 22)
  buf : List Val
  resv : Bool              -- a diverting instruction holds the next slot (R118)
  job : Nat                -- .dec: the decoder's job
  fin : Bool               -- .dec: the row that marks the end has been delivered (R350)
  raw : Bool               -- the descriptor was bound as RAW (R467)
  deriving DecidableEq, Repr

/-- States of a warp (R263). -/
inductive WStatus where
  | queued | resident | parked | shadowed | hostWait
  deriving DecidableEq, Repr

/-- Why a warp is held at issue (R202). -/
inductive Held where
  | channel | gauge | batch | barrier | rows | lines | tile | unitQueue | copySlots | queueFull
  | engineQueue | token | snoop | link | context | operands
  deriving DecidableEq, Repr

/-- A warp's part in a group round (R222, R223). -/
structure BarWait where
  launch : Nat
  group : Nat
  deriving DecidableEq, Repr

/-- A barrier result waiting for its member (R222). -/
structure BarRes where
  acc : Val
  idx : Val
  fl : BitVec 7
  nan : Bool
  deriving DecidableEq, Repr

/-- A matrix trap or refused gauge addition due to a warp (R425, R428), and the core. -/
structure MTrap where
  flt : LFault
  pos : Pos
  deriving DecidableEq, Repr

/-- Why a record waits for the host (R451, R473). -/
inductive HwKind where
  | fault | double | breakpoint (race : Bool) (comparator : Bool)
  deriving DecidableEq, Repr

/-- One warp: its context as each lane and the scalar unit see it (R16, R24, R32), its stacks, and where
it stands in the scheduler. -/
structure Warp where
  uid : Nat
  asid : Nat
  wnum : Nat
  launch : Nat
  packed : Bool
  jca : Nat
  die : Nat                -- die whose queues hold it
  pos : Pos
  slot : Nat
  status : WStatus
  since : Nat              -- order in which it became resident (R203)
  allot : Nat
  v : List Row
  sreg : List Val
  m : List Mask            -- m0 to m7; m0 is never read from here
  latches : List Opd
  em : Mask
  exited : Mask
  pc : Addr
  hnd : Bool
  sup : Bool
  gsel : List (Option Nat)
  ceil : Nat
  lvl : Nat
  ncur : Nat
  nlim : Nat
  nt : Bool
  s52 : Bool
  s43 : Bool
  rm : BitVec 3
  fpst : BitVec 7
  ha : Row
  hb : Row
  hopRsn : Bool
  hopCls : Nat
  hpc : Addr
  flm : Mask
  fva : List Word
  fcause : Word
  repc : Nat
  hlt : Bool
  done : BitVec 31
  opn : BitVec 31
  awDue : List (BitVec 31) -- batches whose completion sets FPST.AW (R421)
  rwEn : Bool
  rwCnt : Nat
  rwFst : Nat
  nrec : Word
  stack : List Rejoin      -- on chip, top first
  spill : List (List Rejoin) -- spilled blocks, most recent first, each top first
  hframes : List HFrame    -- top first
  sframe : Option SFrame
  replay : Option Replay
  nanDue : Option (Mask × Addr)
  mtraps : List MTrap
  copyDue : List (Pos × Nat × Bool)  -- suspended copies: core, slot, decoder
  mcDue : List (Nat × Nat) -- asynchronous machine checks: detail, address
  wdDue : Bool
  chans : List Chan
  outstanding : List PendLoad
  sparse : List SpPend     -- in program order
  regsReq : Option Nat
  barWait : Option BarWait
  barRes : Option BarRes
  intv : BitVec 28
  lscp : Nat
  supp : Bool
  save : Option Nat
  saved : Bool             -- its state lies in the save area (R466, R470)
  hwId : Nat
  hwKind : HwKind
  event : Option SFrame    -- the breakpoint event for which it waits (R473)
  hwAct : Nat              -- action with which the host released it (R453)
  joining : Bool           -- a JOIN has closed its bins and its batch and waits (R228)
  contAt : Nat             -- virtual address of its continuation record
  contCtr : Nat            -- domain address of the counter it is parked on
  refillErr : Bool         -- the machine check of a spilled block that cannot be read has been taken (R461)
  held : Option Held
  deriving DecidableEq, Repr

/-- Memory of the domain (R277): bytes by domain address and tags by word address (address / 8), each
listed in rising order, an unlisted byte being 0 and an unlisted tag INT (R528 step 3). -/
structure Memory where
  bytes : List Host.Cell
  tags : List (Nat × BitVec 4)
  deriving DecidableEq, Repr

/-- Accumulator type (R410). -/
inductive AccTy where
  | f32 | i32
  deriving DecidableEq, Repr

/-- A tile's recorded shape (R407). -/
structure Shape where
  fmt : Nat
  rows : Nat
  cols : Nat
  deriving DecidableEq, Repr

/-- An inbound FIFO (R349). -/
structure Fifo where
  rows : List Row
  resv : Nat
  reader : Option Nat
  head : Nat               -- entry of the oldest row (R471)
  deriving DecidableEq, Repr

/-- Where a context's state of one core lies (R260). -/
inductive CtxPlace where
  | live | shadow | memory
  deriving DecidableEq, Repr

/-- A context's state on one core (R260, R471). -/
structure CoreState where
  asid : Nat
  place : CtxPlace
  spad : List Host.Cell
  tiles : List Host.Cell
  shapes : List Shape
  acc : List Host.Cell
  accTy : List AccTy
  token : List (Option Nat)
  k8 : List Nat
  fifos : List Fifo
  deriving DecidableEq, Repr

/-- Where a gauge lies (R377): memory by virtual address, or a core's scratchpad. -/
inductive Gauge where
  | none
  | mem (asid : Nat) (va : Nat)
  | spad (p : Pos) (asid : Nat) (off : Nat)
  deriving DecidableEq, Repr

/-- A layout record (R297). -/
structure Layout where
  base : Nat
  place : Nat
  wsp : Nat
  space : Nat
  esz : Nat
  ext : List Nat
  str : List Int
  deriving DecidableEq, Repr

/-- What a copy does (R383-R393). -/
inductive CopyKind where
  | cpy (dst src : Layout) (tg : Bool)
  | slice (lay : Option (Layout × Layout)) (tg : Bool) (round : Nat)
  | cpym (dst src : Layout) (tg : Bool) (follow : Word) (nt : Bool) (batch : BitVec 31)
  | cpyd (desc origin : Nat) (tg : Bool) (lay : Layout)
  | cpys (desc origin : Nat) (mrg : Bool) (lay : Layout)
  deriving DecidableEq, Repr

/-- States of a copy (R381): 1 to 4. Retired copies hold no slot. -/
inductive CopySt where
  | queued | running | suspended | waiting
  deriving DecidableEq, Repr

/-- A copy in its unit (R380-R384). -/
structure CopyJob where
  slot : Nat
  seq : Nat
  asid : Nat
  warp : Nat
  wnum : Nat
  st : CopySt
  kind : CopyKind
  n : Nat                  -- elements
  esz : Nat
  done : Nat               -- prefix P (R382)
  scan : Option (Nat × Nat)   -- CPYD: stripe and least key of the next step of its traversal (R392)
  found : List (Nat × Val)    -- CPYD: what the traversal has returned
  gauge : Gauge
  sup : Bool               -- CPL.SUP at issue
  flt : Option LFault
  orphan : Nat             -- id under which the host may release it (R451, R453); 0 for none
  deriving DecidableEq, Repr

/-- A job of the stream decoder (R395-R398). -/
structure DecJob where
  slot : Nat
  seq : Nat
  asid : Nat
  warp : Nat
  wnum : Nat
  st : CopySt
  off : Nat                -- job record's scratchpad offset
  words : List Nat         -- the record as accepted
  tab : List Nat           -- the code table, read when the job begins
  chan : Bool              -- a .dec binding rather than CPYX
  gauge : Gauge
  sup : Bool
  bitPos : Nat             -- bits of the stream consumed
  prod : Nat               -- elements produced
  tm : Word
  delta : Word
  buf : List Val           -- decoded elements not yet delivered (channel)
  ended : Bool
  err : Bool
  flt : Option LFault
  orphan : Nat
  deriving DecidableEq, Repr

/-- Work accepted by a matrix unit (R413). -/
inductive MOp where
  | mma (pair : Pair) (set : Bool) (acc ta tb : Nat)
  | sacc (f32 : Bool) (ad ap sa sb : Nat)
  | accout (of_ : OutFmt) (rm : BitVec 3) (acc off : Nat) (gauge : Gauge) (stride cols rows : Nat)
      (s43 s52 : Bool)
  | accz (i32 : Bool) (acc : Nat)
  deriving DecidableEq, Repr

/-- One accepted matrix instruction (R413, R428). `pos` counts the k-groups or rows done; `nt` tells that a NaN
still halts it. -/
structure MWork where
  warp : Nat
  asid : Nat
  batch : BitVec 31
  op : MOp
  nt : Bool
  follow : Bool
  pos : Nat
  halted : Bool
  aw : Bool
  deriving DecidableEq, Repr

/-- A read lock on a tile (R414). -/
structure TLock where
  tile : Nat
  asid : Nat
  warp : Nat
  batch : BitVec 31
  deriving DecidableEq, Repr

/-- A line of a core's L1 instruction cache (R489): eight words. -/
structure ILine where
  asid : Nat
  vline : Nat
  dom : Nat                -- domain line address it was filled from
  user : Bool              -- U of the leaf it was filled through
  words : List Word
  deriving DecidableEq, Repr

/-- What a core latches when the Blotter fires (R480): its CYCLE and live ASID; per quadrant the warp that
issued last, its PC and WIX and the count of ready warps; the matrix unit's batch and queue depth; the
copy unit's busy slots; BCONF. -/
structure CoreSnap where
  cycle : Nat
  asid : Nat
  quads : List (Addr × Word × Nat)
  batch : Nat
  depth : Nat
  busy : Nat
  bconf : Nat
  deriving DecidableEq, Repr

/-- The snapshot registers before any snapshot. -/
def CoreSnap.zero : CoreSnap where
  cycle := 0
  asid := 0
  quads := List.replicate 4 (0#56, 0#64, 0)
  batch := 0
  depth := 0
  busy := 0
  bconf := 0

/-- One core (R3, R260). -/
structure Core where
  pos : Pos
  sts : List CoreState
  copies : List CopyJob
  decs : List DecJob
  seq : Nat                 -- acceptance number of the next copy or decoder job (R380)
  mq : List MWork
  locks : List TLock
  icache : List ILine
  bconf : Nat
  last : List (Option Nat × Nat)   -- per quadrant: last warp to issue, its consecutive issues (R203)
  requests : List Nat              -- warps asking for rows, oldest first (R253)
  wanted : List Nat                -- contexts that a waiting window access asks for (R296)
  snap : CoreSnap
  deriving DecidableEq, Repr

/-- A translation-buffer entry of a cluster (R280). -/
structure TlbE where
  asid : Nat
  va : Nat
  size : Nat
  pte : Word
  deriving DecidableEq, Repr

/-- A line of a cluster's instruction cache (R489): domain line address, eight words, and one presence bit per core,
bit 2 (row mod 2) + column mod 2 (log 58). -/
structure CLine where
  dom : Nat
  words : List Word
  present : BitVec 4
  deriving DecidableEq, Repr

/-- A cluster of four cores (R3). -/
structure Cluster where
  die : Nat
  cx : Nat
  cy : Nat
  tlb : List TlbE
  icache : List CLine
  pfdrop : Nat
  deriving DecidableEq, Repr

/-- A spawn class (R242). -/
structure SClass where
  entry : Nat
  jca : Nat
  rows : Nat
  lvl : Nat
  spl : Bool
  key : Bool
  arg : Val
  deriving DecidableEq, Repr

/-- A used or unused group-table entry (R239). -/
structure GEntry where
  first : Nat
  count : Nat
  stride : Nat
  deriving DecidableEq, Repr

/-- A rectangle asked for, and where it was granted (R236). -/
structure Rect where
  cols : Nat
  rows : Nat
  dies : Nat
  org : Option (Nat × Nat × Nat)   -- first die, column and row
  deriving DecidableEq, Repr

/-- A tile-granular dependence (R252). -/
structure Dep where
  prod : Nat
  cnt : Nat
  map : Nat
  a : Nat
  b : Nat
  c : Nat
  deriving DecidableEq, Repr

/-- One arrival at a group round (R222). -/
structure Arrival where
  rank : Nat
  warp : Nat
  val : Val
  idx : Val
  deriving DecidableEq, Repr

/-- A barrier round of a group (R222). -/
structure Round where
  group : Nat
  op : ROp
  ty : Ty
  arr : List Arrival
  deriving DecidableEq, Repr

/-- A collective-copy round of a group (R388). -/
structure CRound where
  id : Nat
  asid : Nat
  launch : Nat
  group : Nat
  gauge : Gauge
  tg : Bool
  arr : List Nat            -- WNUMs that have arrived
  bytes : Nat               -- bytes of the round's slices
  started : Bool
  left : Nat                -- slices not yet complete
  deriving DecidableEq, Repr

/-- A live launch (R234-R240). -/
structure Launch where
  asid : Nat
  num : Nat
  die : Nat
  entry : Nat
  wcnt : Nat
  rows : Nat
  ceil : Nat
  lvl : Nat
  args : List Val
  rect : Option Rect
  groups : Option (List GEntry)
  classes : List SClass
  dep : Option Dep
  cmap : Nat
  granted : Bool            -- rectangle and group entries held
  sent : Nat                -- warps dispatched in order
  ahead : List Nat          -- warps dispatched ahead of it (R252)
  retired : List Nat        -- launched warps that have retired
  alive : Nat               -- its warps not yet retired, dispatched or packed
  rounds : List Round
  deriving DecidableEq, Repr

/-- What a queue record names (R255). -/
inductive QKind where
  | launch (asid num : Nat)
  | packed (uid : Nat)
  | continuation (uid : Nat)
  | evicted (uid : Nat)
  | hostWait (uid : Nat)
  deriving DecidableEq, Repr

/-- A task record of a die (R255, R256). -/
structure QRec where
  id : Nat
  kind : QKind
  asid : Nat
  lvl : Nat
  top : Nat                 -- highest level aging may reach (R258)
  deriving DecidableEq, Repr

/-- An open Bolter bin (R244): records of four payload words. -/
structure Bin where
  id : Nat
  asid : Nat
  launch : Nat
  cls : Nat
  key : Nat
  recs : List (List Val)
  deriving DecidableEq, Repr

/-- A record in a spawn spill ring (R248). -/
structure SpillRec where
  launch : Nat
  cls : Nat
  key : Nat
  words : List Val
  deriving DecidableEq, Repr

/-- A context's spawn spill ring on one die (R248, R459). -/
structure SpillRing where
  asid : Nat
  base : Nat
  size : Nat
  frames : List Nat
  head : Nat
  recs : List SpillRec
  deriving DecidableEq, Repr

/-- An armed alarm (R402). It is due once its gauge's count has reached the target. -/
structure Alarm where
  warp : Nat
  slot : Nat
  gauge : Gauge
  target : Nat
  handler : Addr
  deriving DecidableEq, Repr

/-- Continuations registered on a join counter (R250). -/
structure JoinReg where
  addr : Nat
  warps : List Nat
  deriving DecidableEq, Repr

/-- A walk-cache entry of a die (R283): a non-leaf table entry, with its level and the VA bits that lead to it. -/
structure WalkE where
  asid : Nat
  lvl : Nat
  idx : Nat
  pte : Nat
  deriving DecidableEq, Repr

/-- One compute die. -/
structure Die where
  num : Nat
  queue : List QRec         -- in order of arrival; the level is in the record
  credit : List (Nat × Nat × Int)  -- level, ASID, credit (R257)
  turn : List (Nat × Nat)   -- level, ASID whose turn it is
  bins : List Bin           -- in the order in which they opened
  rings : List SpillRing
  spillOrd : List Nat       -- ASIDs of spilled records, oldest first
  alarms : List Alarm
  joins : List JoinReg
  walks : List WalkE        -- walk cache (R283)
  freefr : Nat              -- FREEFR: frames offered for contexts (R277, R514)
  pool : List Nat           -- free frames by physical address (R454)
  filling : List Nat        -- returned frames being filled (R519)
  engines : List (List SpOp)   -- four engine queues (R362)
  retired : List (Nat × Nat × Nat × Nat)  -- retired index nodes, oldest first: ASID, descriptor, stripe, node (R373)
  discarded : Nat           -- queue lines of another TYPE (R346)
  overflow : List (Nat × List Val) -- escalation and debug lines waiting: queue number, words (R452)
  corrected : Nat           -- corrected errors (R279)
  uncorrected : Nat
  point : Nat               -- operating point 0 to 3 (R527)
  refreshed : Nat
  snap : List Nat
  deriving DecidableEq, Repr

/-- A loaded code object (R487, R488). -/
structure CodeObj where
  asid : Nat
  base : Nat
  sig : List Byte
  exports : List (List Byte × Nat)
  shared : List (Nat × List Nat)  -- section kind and its frames
  deriving DecidableEq, Repr

/-- A chunk of a continuation pool (R459): virtual base, size and its frames. -/
structure ContChunk where
  base : Nat
  size : Nat
  frames : List Nat
  deriving DecidableEq, Repr

/-- One context (R516) with its context-scope registers, its race detector (R477, R478) and the
counters the hardware keeps for it. -/
structure Ctx where
  asid : Nat
  v : Bool
  ending : Bool             -- a write of V = 0 has not yet taken effect (R518)
  dbg : Bool
  wgt : Nat
  fn : Nat
  age : Nat
  slice : Nat
  wdog : Nat
  used : Nat
  quota : Nat
  escq : Nat
  dbgq : Nat
  sapb : Nat
  sacnt : Nat
  sts : Nat
  pdtb : Word
  lvtb : Word
  svtb : Word
  cardb : Word
  spft : Nat
  bpa : List Word
  nnext : Nat
  nend : Nat
  nchk : Nat
  shb : Word
  itab : Word
  rbase : Word
  rsize : Nat
  snp : Bool
  bpev : BitVec 8
  smg : Bool
  en : Bool
  rhead : Nat
  rtail : Nat
  rdrop : Nat
  launchNo : Nat            -- number of the next launch
  packNo : Nat              -- WNUM of the next packed warp
  hwNo : Nat                -- next host-wait id
  cont : List ContChunk
  contUsed : List (Nat × Nat)   -- continuation records in use: address, size
  saveUsed : List Nat
  deriving DecidableEq, Repr

/-- A queue-table entry (R517). -/
structure QEnt where
  num : Nat
  v : Bool
  ovf : Bool
  fn : Nat
  asid : Nat
  desc : Nat
  deriving DecidableEq, Repr

/-- TDISP states of an interface (R522). -/
inductive VfSt where
  | unlocked | locked | run | error
  deriving DecidableEq, Repr

/-- A virtual function (R515, R522, R523): its TDISP state, the base of its BAR0 and the place of its MSI-X table. Its
ASIDs and queue numbers are those whose blocks and entries name it, and its frame quota is theirs (R515, R516, R517). -/
structure Vf where
  num : Nat
  st : VfSt
  bar : Word
  msix : Word
  deriving DecidableEq, Repr

/-- A page migration (R499-R505): domain addresses of the frames, lines moved, lines found bad. -/
structure Migration where
  id : Nat
  asid : Nat
  va : Nat
  old : Nat
  new : Nat
  moved : List Nat
  bad : List Nat
  shot : Bool               -- the shootdown has completed
  deriving DecidableEq, Repr

/-- The Blotter (R479, R480). -/
structure Blotter where
  miss : Nat
  fcls : BitVec 17          -- bit c - 1 for class c
  fired : Bool
  cen : Bool
  fen : Bool
  pen : Bool
  sen : Bool
  arm : Bool
  cmp : Word
  src : Nat
  asid : Nat
  wnum : Nat
  code : Nat
  cycle : Nat
  out : Bool                -- BLOTO is high
  latch : Bool              -- the blocks have still to latch their snapshots (R480)
  links : List Nat          -- hub snapshot: links that were down (R525)
  ports : List Nat          -- hub snapshot: ports, 0 to 31 scale-up and 32 and 33 CXL, whose link was trained (R525)
  pcs : List (Nat × Nat)    -- hub snapshot: PCs of the system and queue cores (R525)
  deriving DecidableEq, Repr

/-- The Scrivener mailbox (R520). -/
structure Mailbox where
  asid : Nat
  addr : Nat
  size : Nat
  go : Bool
  status : Nat
  base : Nat
  deriving DecidableEq, Repr

/-- A range of the firmware window table (R524). -/
structure FwWin where
  lo : Nat
  len : Nat
  r : Bool
  w : Bool
  x : Bool
  deriving DecidableEq, Repr

/-- The hubs, the host's side and the package. -/
structure Hub where
  devnum : Option Nat       -- none until written (R514)
  asidTab : List (Nat × Word)
  qtab : List QEnt
  qsig : List (Nat × Nat)   -- signals sent to queue cores (R342)
  sysLines : List (Nat × Nat)    -- lines that system cores have enqueued: queue and slot number (R233, R235)
  mailbox : Mailbox
  vfs : List Vf
  windows : List FwWin
  rates : List (Nat × Nat)
  digest : Nat
  blot : Blotter
  plim : Nat                -- watts (R527)
  halved : Bool             -- ACLK halved by the power trip
  stopped : Bool            -- THERMTRIP asserted
  inReset : Bool
  status : Nat
  linkDown : List Nat       -- die-to-die links retraining (R497)
  resends : List (Nat × Nat)     -- flits resent, by link (R497, R508)
  recals : Nat
  enabled : List Nat        -- device numbers management has enabled (R506)
  routes : List Nat         -- devices with a trained route
  mgmt : List (Nat × Word)  -- other words of the management window (R514)
  dropped : Nat             -- writes and accesses counted in telemetry (R519, R524)
  samples : Nat
  objects : List CodeObj
  syms : List (List Byte)   -- interned names in the order of their ids (R487, log 27)
  hostLines : List Nat      -- lines the host holds (R511)
  snoops : List Nat         -- back-invalidate snoops not yet answered
  remoteData : List Val     -- the words last answered to another device (R506)
  hostData : List Byte      -- data returned to the host's last request; none where the line is uncorrectable
  fwData : List Word        -- what a firmware core's last read returned (R524)
  fwPcs : List (Nat × Nat)  -- PCs of the system and queue cores (R521, R525)
  hostMem : List (Nat × Word)    -- what the cores have written to host memory, by word address (R521)
  keys : List Nat           -- functions whose memory key exists; 0 for PF0's (R523, R524)
  cleared : List (Nat × Nat)  -- pages of cleared interfaces not yet filled: address, size (R523)
  report : List Nat         -- the last interface report (R523)
  lapsed : List Nat         -- warps one of whose requests to another device is given up (R508)
  farRet : List (Nat × Nat × Nat × Nat)  -- retired nodes of regions on other devices (R361)
  farEng : List (Nat × List SpOp)  -- operations sent to engines of other devices: 32 (device + 1) + engine (R361)
  deriving DecidableEq, Repr

/-- What acts next: a quadrant issues, the device takes a step of its own, or the warp `u` fetches the address `va`
ahead of the branch it is to issue (R285; log 1). -/
inductive Turn where
  | issue (p : Pos) (quad : Nat)
  | event (i : Instr)
  | ahead (u va : Nat)
  deriving DecidableEq, Repr

/-- The whole device, its memory and its surroundings as plain data. `agenda`, `cur`,
`uncounted`, `tick`, `freeCtr` and `suppUsed` are the model's own fields (logs 1, 2 and 6). -/
structure State where
  mem : Memory
  bad : List Nat            -- uncorrectable lines, by line address (R279)
  soft : List Nat           -- lines with a correctable error (R279)
  warps : List Warp
  cores : List Core
  clusters : List Cluster
  dies : List Die
  ctxs : List Ctx
  launches : List Launch
  crounds : List CRound     -- collective copies not yet ended (R388)
  migs : List Migration
  hub : Hub
  cycle : Nat               -- ACLK cycles since reset (R24)
  nextUid : Nat
  nextRec : Nat
  agenda : List Turn
  cur : Nat
  uncounted : Nat
  tick : Nat
  freeCtr : Nat
  suppUsed : Bool
  deriving DecidableEq, Repr

/-- The frames that firmware puts into a die's pool at bring-up (R528 step 5): frames of its DRAM offered for contexts, each
once. Which ones they are is left open (log 6). -/
def bootPool (n freefr : Nat) : List Nat :=
  ((Config.bootPool n).filter fun f =>
    f % 65536 == 0 && decide (n * 2 ^ 36 ≤ f) && decide (f < n * 2 ^ 36 + freefr * 65536)).eraseDups

/-- A die after cold reset (R528). -/
def Die.reset (n : Nat) : Die where
  num := n
  queue := []
  credit := []
  turn := []
  bins := []
  rings := []
  spillOrd := []
  alarms := []
  joins := []
  walks := []
  freefr := Config.freeFrames n % 0xB2D06
  pool := bootPool n (Config.freeFrames n % 0xB2D06)
  filling := []
  engines := [[], [], [], []]
  retired := []
  discarded := 0
  overflow := []
  corrected := 0
  uncorrected := 0
  point := 1
  refreshed := 0
  snap := List.replicate 57 0

/-- A virtual function after reset (R522, R528 step 7). -/
def Vf.reset (n : Nat) : Vf where
  num := n
  st := .unlocked
  bar := 0#64
  msix := 0#64

/-- The Blotter after reset (R479). -/
def Blotter.reset : Blotter where
  miss := 0
  fcls := 0#17
  fired := false
  cen := false
  fen := false
  pen := false
  sen := false
  arm := false
  cmp := 0#64
  src := 0
  asid := 0
  wnum := 0
  code := 0
  cycle := 0
  out := false
  latch := false
  links := []
  ports := []
  pcs := []

/-- The hubs after cold reset (R514-R528). -/
def Hub.reset : Hub where
  devnum := none
  asidTab := []
  qtab := []
  qsig := []
  sysLines := []
  mailbox := { asid := 0, addr := 0, size := 0, go := false, status := 0, base := 0 }
  vfs := (List.range 63).map fun i => Vf.reset (i + 1)
  windows := [⟨0, 2 ^ 40, true, true, true⟩]
  rates := (List.range 34).map fun k => (k, 10 + Config.rateLimit k % 91)
  digest := Config.fwDigest
  blot := Blotter.reset
  plim := 3200
  halved := false
  stopped := false
  inReset := false
  status := 0
  linkDown := []
  resends := []
  recals := 0
  enabled := []
  routes := []
  mgmt := []
  dropped := 0
  samples := 0
  objects := []
  syms := []
  hostLines := []
  snoops := []
  remoteData := []
  hostData := []
  fwData := []
  fwPcs := []
  hostMem := []
  keys := List.range 64
  cleared := []
  report := []
  lapsed := []
  farRet := []
  farEng := []

/-- The device right after a cold reset (R528): DRAM filled with zeros, no context live, no warp. -/
def State.reset : State where
  mem := { bytes := [], tags := [] }
  bad := []
  soft := []
  warps := []
  cores := []
  clusters := []
  dies := (List.range 8).map Die.reset
  ctxs := []
  launches := []
  crounds := []
  migs := []
  hub := Hub.reset
  cycle := 0
  nextUid := 1
  nextRec := 1
  agenda := []
  cur := 0
  uncounted := 0
  tick := 0
  freeCtr := 0
  suppUsed := false

end Sys2Proof.Machine
end

