-- ==== Sys2Proof/Machine/Values.lean ====
section
/-! DEFINITION. Tagged values (spec/01 R11-R17): the forms of R11, canonicalisation, truth, and the
numbers behind the numeric tags. -/

namespace Sys2Proof.Machine

def vInt (i : Int) : Val := ⟨.int, wordOf i⟩
def vNat (n : Nat) : Val := ⟨.int, wordN n⟩
def vRaw (n : Nat) : Val := ⟨.raw, wordN n⟩
def vBool (b : Bool) : Val := ⟨.bool, if b then 1#64 else 0#64⟩
def vNil : Val := ⟨.nil, 0#64⟩
def vF32 (n : Nat) : Val := ⟨.f32, wordN n⟩
def vF64 (n : Nat) : Val := ⟨.f64, wordN n⟩
def vRef (a : Nat) : Val := ⟨.ref, wordN a⟩
def vCode (a : Addr) : Val := ⟨.code, a.setWidth 64⟩

/-- zr and an absent value (R16). -/
def vZero : Val := ⟨.int, 0#64⟩

/-- The payload as a natural, and as a signed integer. -/
def Val.n (v : Val) : Nat := v.pl.toNat
def Val.i (v : Val) : Int := v.pl.toInt

/-- A row of one value (R16). -/
def rowOf (v : Val) : Row := List.replicate 32 v

def nilRow : Row := rowOf vNil

/-- Lane `i` of a row. -/
def rowAt (r : Row) (i : Nat) : Val := r.getD i vNil

/-- An operand as lane `i` sees it: a scalar is broadcast (R70, R72). -/
def Opd.lane (o : Opd) (i : Nat) : Val :=
  match o with
  | .vec r => rowAt r i
  | .sca v => v

def Opd.isVec : Opd → Bool
  | .vec _ => true
  | .sca _ => false

/-- Build a row lane by lane. -/
def rowWith (f : Nat → Val) : Row := lanes.map f

/-- A row with the lanes of `m` taken from `new` (R130: an inactive lane keeps the old value). -/
def rowMerge (m : Mask) (new old : Row) : Row :=
  rowWith fun i => if inMask m i then rowAt new i else rowAt old i

/-- A TILE payload names a position inside the mesh (R12, R13). -/
def tilePosOk (w : Word) : Bool :=
  let n := w.toNat
  decide (bitsAt n 32 4 < 8 ∧ bitsAt n 36 5 < 16 ∧ bitsAt n 41 4 < 10)

/-- Canonical form of a payload under a tag (R13); none where a TILE position is outside the mesh. -/
def canon (t : Tag) (w : Word) : Option Val :=
  match t with
  | .int | .f64 | .raw | .ts | .hdr => some ⟨t, w⟩
  | .f32 => some ⟨t, w &&& 0xFFFFFFFF#64⟩
  | .ref | .fwd | .code => some ⟨t, w &&& 0x00FFFFFFFFFFFFF8#64⟩
  | .tile => if tilePosOk w then some ⟨t, w &&& 0x00001FFF0000001F#64⟩ else none
  | .sym => some ⟨t, w &&& 0x0000FFFFFFFFFFFF#64⟩
  | .bool => some ⟨t, if w == 0#64 then 0#64 else 1#64⟩
  | .nil => some ⟨t, 0#64⟩

/-- Canonical form for the tags that always have one (literals, R68). -/
def canonLit (t : Tag) (w : Word) : Val := (canon t w).getD ⟨t, w⟩

/-- The position field of a TILE payload for a core (R12). -/
def posBits (p : Pos) : Nat := p.row * 2 ^ 41 + p.col * 2 ^ 36 + p.die * 2 ^ 32

/-- ⟨TILE, handle⟩ of tile `n` of core `p` (R17). -/
def tileHandle (p : Pos) (n : Nat) : Val := ⟨.tile, wordN (posBits p + n)⟩

/-- Truth of a value (R105). -/
def truthOf (v : Val) : Bool :=
  match v.tag with
  | .int => v.pl != 0#64
  | .f32 => match FpFmt.f32.decode v.n with
    | .nan => false
    | x => !x.isZero
  | .f64 => match FpFmt.f64.decode v.n with
    | .nan => false
    | x => !x.isZero
  | .bool => v.pl != 0#64
  | .nil => false
  | _ => true

/-- INT, F32 and F64 form the kind number (R98). -/
def isNumTag : Tag → Bool
  | .int | .f32 | .f64 => true
  | _ => false

/-- "Int" of R131: INT, TS or RAW. -/
def isIntTag : Tag → Bool
  | .int | .ts | .raw => true
  | _ => false

/-- The exact value of a number (R103). -/
def numOf (v : Val) : Fp :=
  match v.tag with
  | .f32 => FpFmt.f32.decode v.n
  | .f64 => FpFmt.f64.decode v.n
  | _ => Fp.ofInt v.i

/-- A floating-point value is a NaN. -/
def Val.isNan (v : Val) : Bool :=
  match v.tag with
  | .f32 => FpFmt.f32.isNan v.n
  | .f64 => FpFmt.f64.isNan v.n
  | _ => false

/-- Code of a fault class (R440). -/
def FClass.code : FClass → Nat
  | .machineCheck => 1 | .undefinedInstr => 2 | .instruction => 3 | .operand => 4 | .place => 5
  | .translation => 6 | .protection => 7 | .classFault => 8 | .tagFault => 9 | .typeFault => 10
  | .ownership => 11 | .arithmetic => 12 | .indexExhaustion => 13 | .spawnOverflow => 14
  | .registerRequest => 15 | .systemCall => 16 | .watchdog => 17

/-- A fault without an address. -/
def flt (c : FClass) (d : Nat) : LFault := ⟨c, d, 0, 0⟩

/-- A fault that concerns an address. -/
def fltAt (c : FClass) (d a : Nat) : LFault := ⟨c, d, 0, a⟩

def typeFlt : LFault := flt .typeFault 0
def operandFlt : LFault := flt .operand 0

end Sys2Proof.Machine
end

