-- ==== Sys2Proof/Machine/Access.lean ====
section
/-! DEFINITION. Finding and replacing the parts of the state: warps, cores, clusters, dies, contexts,
launches. A core, cluster or context that nothing has touched yet is in its initial state. -/

namespace Sys2Proof.Machine

/-! ### Sparse maps: keys rising, no entry equal to the default -/

/-- The value at a key; the default where nothing is listed. -/
def spGet {α : Type} (d : α) : List (Nat × α) → Nat → α
  | [], _ => d
  | (k, v) :: l, a => if a == k then v else if a < k then d else spGet d l a

/-- Put a value at a key; the default removes the entry. -/
def spSet {α : Type} [DecidableEq α] (d : α) : List (Nat × α) → Nat → α → List (Nat × α)
  | [], a, x => if x = d then [] else [(a, x)]
  | (k, v) :: l, a, x =>
    if a < k then (if x = d then (k, v) :: l else (a, x) :: (k, v) :: l)
    else if a == k then (if x = d then l else (a, x) :: l)
    else (k, v) :: spSet d l a x

/-- Every key is above `lo` and rising, and no entry holds the default. -/
def spWfFrom {α : Type} [DecidableEq α] (d : α) (lo : Nat) : List (Nat × α) → Bool
  | [] => true
  | (k, v) :: l => decide (lo ≤ k) && decide (v ≠ d) && spWfFrom d (k + 1) l

/-- The canonical form of a sparse map. -/
def spWf {α : Type} [DecidableEq α] (d : α) (l : List (Nat × α)) : Bool := spWfFrom d 0 l

/-! ### Bytes of a byte-addressed space -/

/-- `n` bytes from `a`, little-endian, as a natural. -/
def cellsGet (l : List Host.Cell) (a : Nat) : Nat → Nat
  | 0 => 0
  | n + 1 => (spGet 0#8 l a).toNat + 256 * cellsGet l (a + 1) n

/-- Store the low `n` bytes of `x` at `a`, little-endian. -/
def cellsSet (l : List Host.Cell) (a : Nat) : Nat → Nat → List Host.Cell
  | 0, _ => l
  | n + 1, x => cellsSet (spSet 0#8 l a (BitVec.ofNat 8 x)) (a + 1) n (x / 256)

/-! ### Warps -/

def findWarp (s : State) (u : Nat) : Option Warp := s.warps.find? fun w => w.uid == u

def putWarp (s : State) (w : Warp) : State :=
  { s with warps := modifyFirst (fun x => x.uid == w.uid) (fun _ => w) s.warps }

def updWarp (s : State) (u : Nat) (f : Warp → Warp) : State :=
  { s with warps := modifyFirst (fun x => x.uid == u) f s.warps }

def dropWarp (s : State) (u : Nat) : State :=
  { s with warps := eraseFirst (fun x => x.uid == u) s.warps }

/-- The warp holds a slot in the live context of its core (R263). -/
def Warp.isResident (w : Warp) : Bool := w.status == .resident

/-- The issuing warp (log 2). -/
def State.issuer (s : State) : Option Warp :=
  match findWarp s s.cur with
  | some w => if w.isResident then some w else none
  | none => none

/-! ### Cores and their context states -/

def Shape.none : Shape := ⟨0, 0, 0⟩
def Fifo.empty : Fifo := ⟨[], 0, Option.none, 0⟩

/-- A context's state on a core it has never held (R47, R407, R410, R471). -/
def CoreState.fresh (asid : Nat) : CoreState where
  asid := asid
  place := .live
  spad := []
  tiles := []
  shapes := List.replicate 32 Shape.none
  acc := []
  accTy := List.replicate 8 .f32
  token := List.replicate 8 Option.none
  k8 := (List.range 256).map k8DefaultRow
  fifos := List.replicate 4 Fifo.empty

/-- A core that has done nothing yet. -/
def Core.fresh (p : Pos) : Core where
  pos := p
  sts := []
  copies := []
  decs := []
  seq := 0
  mq := []
  locks := []
  icache := []
  bconf := 0
  last := List.replicate 4 (Option.none, 0)
  requests := []
  wanted := []
  snap := CoreSnap.zero

def getCore (s : State) (p : Pos) : Core :=
  match s.cores.find? fun c => c.pos == p with
  | some c => c
  | none => Core.fresh p

def putCore (s : State) (c : Core) : State :=
  if s.cores.any (fun x => x.pos == c.pos) then
    { s with cores := modifyFirst (fun x => x.pos == c.pos) (fun _ => c) s.cores }
  else { s with cores := s.cores ++ [c] }

def updCore (s : State) (p : Pos) (f : Core → Core) : State := putCore s (f (getCore s p))

/-- The state of context `a` on a core. -/
def Core.ctx (c : Core) (a : Nat) : CoreState :=
  match c.sts.find? fun x => x.asid == a with
  | some x => x
  | none => CoreState.fresh a

def Core.putCtx (c : Core) (x : CoreState) : Core :=
  if c.sts.any (fun y => y.asid == x.asid) then
    { c with sts := modifyFirst (fun y => y.asid == x.asid) (fun _ => x) c.sts }
  else { c with sts := c.sts ++ [x] }

def coreCtx (s : State) (p : Pos) (a : Nat) : CoreState := (getCore s p).ctx a

def updCoreCtx (s : State) (p : Pos) (a : Nat) (f : CoreState → CoreState) : State :=
  let c := getCore s p
  putCore s (c.putCtx (f (c.ctx a)))

/-- The live context of a core (R260). -/
def Core.live (c : Core) : Option Nat :=
  (c.sts.find? fun x => x.place == .live).map fun x => x.asid

/-! ### Clusters, dies, contexts, launches -/

/-- The cluster of a core (R3). -/
def clusterOf (p : Pos) : Nat × Nat × Nat := (p.die, p.col / 2, p.row / 2)

def Cluster.fresh (k : Nat × Nat × Nat) : Cluster := ⟨k.1, k.2.1, k.2.2, [], [], 0⟩

def Cluster.key (c : Cluster) : Nat × Nat × Nat := (c.die, c.cx, c.cy)

def getCluster (s : State) (k : Nat × Nat × Nat) : Cluster :=
  match s.clusters.find? fun c => c.key == k with
  | some c => c
  | none => Cluster.fresh k

def putCluster (s : State) (c : Cluster) : State :=
  if s.clusters.any (fun x => x.key == c.key) then
    { s with clusters := modifyFirst (fun x => x.key == c.key) (fun _ => c) s.clusters }
  else { s with clusters := s.clusters ++ [c] }

def updCluster (s : State) (p : Pos) (f : Cluster → Cluster) : State :=
  putCluster s (f (getCluster s (clusterOf p)))

def getDie (s : State) (n : Nat) : Die := s.dies.getD n (Die.reset n)

def updDie (s : State) (n : Nat) (f : Die → Die) : State :=
  { s with dies := modifyAt s.dies n f }

/-- A context whose control block holds its reset values (R516, R477). -/
def Ctx.fresh (a : Nat) : Ctx where
  asid := a
  v := false
  ending := false
  dbg := false
  wgt := 16
  fn := 0
  age := 2000
  slice := 2000
  wdog := 10000
  used := 0
  quota := 0
  escq := 0
  dbgq := 0
  sapb := 0
  sacnt := 0
  sts := 0
  pdtb := 0#64
  lvtb := 0#64
  svtb := 0#64
  cardb := 0#64
  spft := 4096
  bpa := List.replicate 8 0#64
  nnext := 0
  nend := 0
  nchk := 0
  shb := 0#64
  itab := 0#64
  rbase := 0#64
  rsize := 0
  snp := false
  bpev := 0#8
  smg := false
  en := false
  rhead := 0
  rtail := 0
  rdrop := 0
  launchNo := 1
  packNo := 2 ^ 31
  hwNo := 1
  cont := []
  contUsed := []
  saveUsed := []

def getCtx (s : State) (a : Nat) : Ctx :=
  match s.ctxs.find? fun c => c.asid == a with
  | some c => c
  | none => Ctx.fresh a

def putCtx (s : State) (c : Ctx) : State :=
  if s.ctxs.any (fun x => x.asid == c.asid) then
    { s with ctxs := modifyFirst (fun x => x.asid == c.asid) (fun _ => c) s.ctxs }
  else { s with ctxs := s.ctxs ++ [c] }

def updCtx (s : State) (a : Nat) (f : Ctx → Ctx) : State := putCtx s (f (getCtx s a))

def findLaunch (s : State) (a n : Nat) : Option Launch :=
  s.launches.find? fun l => l.asid == a && l.num == n

def updLaunch (s : State) (a n : Nat) (f : Launch → Launch) : State :=
  { s with launches := modifyFirst (fun l => l.asid == a && l.num == n) f s.launches }

/-- The number of this device (R514): 0 until DEVNUM is written (log 3). -/
def State.dev (s : State) : Nat := s.hub.devnum.getD 0

/-! ### Counters of the model -/

/-- Room for one more entry in a buffer of `n`: a full one loses an entry, and which is left open (log 6). -/
def makeRoom {α : Type} (s : State) (n : Nat) (l : List α) : State × List α :=
  if l.length < n then (s, l)
  else ({ s with freeCtr := s.freeCtr + 1 }, l.eraseIdx (Config.choice s.freeCtr l.length % l.length))

/-- The next fresh number for a value the specification leaves open (log 6). -/
def State.fresh (s : State) : Nat × State := (s.freeCtr, { s with freeCtr := s.freeCtr + 1 })

/-- Append a task record at the tail of its level (R255-R257). -/
def queueRec (s : State) (die : Nat) (k : QKind) (asid lvl top : Nat) : State :=
  let s := updDie s die fun d => { d with queue := d.queue ++ [⟨s.nextRec, k, asid, lvl, top⟩] }
  { s with nextRec := s.nextRec + 1 }

end Sys2Proof.Machine
end

