-- ==== Sys2Proof/Machine/Mem.lean ====
section
/-! DEFINITION. Memory: bytes and tags by domain address, homes and migrations, page walks and
translation buffers, and the access checks of R166 (spec/12, spec/24 R498-R508, spec/06 R166). -/

namespace Sys2Proof.Machine

/-! ### Bytes and tags -/

/-- The canonical form: addresses rising, nothing listed that an unlisted address reads as. -/
def Memory.wf (m : Memory) : Bool := spWf 0#8 m.bytes && spWf 0#4 m.tags

/-- One byte. -/
def memByte (m : Memory) (a : Nat) : Byte := spGet 0#8 m.bytes a

/-- `n` bytes from `a`, little-endian. -/
def memLoad (m : Memory) (a n : Nat) : Nat := cellsGet m.bytes a n

/-- The tag of the aligned word that holds `a`. -/
def memTag (m : Memory) (a : Nat) : BitVec 4 := spGet 0#4 m.tags (a / 8)

/-- The tagged word at `a`: tag code and payload. -/
def memWord (m : Memory) (a : Nat) : BitVec 4 × Nat := (memTag m a, memLoad m a 8)

/-- Store `n` bytes and leave every tag. -/
def memStore (m : Memory) (a n x : Nat) : Memory := { m with bytes := cellsSet m.bytes a n x }

def memSetTag (m : Memory) (a : Nat) (t : BitVec 4) : Memory :=
  { m with tags := spSet 0#4 m.tags (a / 8) t }

/-- Store `n` bytes inside one word and, when given, the word's tag (R22, R23). -/
def memPut (m : Memory) (a n x : Nat) (t : Option (BitVec 4)) : Memory :=
  match t with
  | some t => memSetTag (memStore m a n x) a t
  | none => memStore m a n x

/-- Copy the 64-byte line at `src`, tags included, to `dst` (R500). -/
def memCopyLine (m : Memory) (src dst : Nat) : Memory :=
  (List.range 8).foldl
    (fun m' k => memPut m' (dst + 8 * k) 8 (memLoad m (src + 8 * k) 8) (some (memTag m (src + 8 * k)))) m

/-- Fill `n` words from `a` with ⟨INT, 0⟩: zero bytes, tag INT (R455, R519). -/
def memZero (m : Memory) (a : Nat) (words : Nat) : Memory :=
  { bytes := m.bytes.filter fun c => !(decide (a ≤ c.1) && decide (c.1 < a + 8 * words))
    tags := m.tags.filter fun c => !(decide (a / 8 ≤ c.1) && decide (c.1 < a / 8 + words)) }

/-- `n` bytes from `a` hold other data, `x k` in byte `k`. The tags stay. -/
def memScramble (m : Memory) (a n : Nat) (x : Nat → Byte) : Memory :=
  { m with bytes := (List.range n).foldl (fun l k => spSet 0#8 l (a + k) (x k)) m.bytes }

/-! ### Physical addresses (R277, R278, R495) -/

def lineOf (a : Nat) : Nat := a / 64
def domDev (a : Nat) : Nat := a / 2 ^ 52
def domPa (a : Nat) : Nat := a % 2 ^ 52
def homeDie (a : Nat) : Nat := domPa a / 2 ^ 36 % 8
def frameOf (a : Nat) : Nat := a / 65536 * 65536

/-- A physical address inside the DRAM frames of a compute die (R277). -/
def dramOk (pa : Nat) : Bool := decide (pa < 8 * 2 ^ 36) && decide (pa % 2 ^ 36 < 0xB2D050000)

/-- Die-to-die links a request crosses, column first (R495): link r is the horizontal link of row r,
link 4 + 3c + r the vertical link of column c below row r. -/
def hopLinks (a b : Nat) : List Nat :=
  (if a % 2 == b % 2 then [] else [a / 2]) ++
  ((List.range 3).filter fun r => decide (min (a / 2) (b / 2) ≤ r) && decide (r < max (a / 2) (b / 2))).map
    fun r => 4 + 3 * (b % 2) + r

/-- Links from a die to the ports of a hub (R495): HD0 attaches to CD0-CD3, HD1 to CD4-CD7, die d by link 10 + d. Traffic to
the other hub's ports crosses to the nearest die of that hub (log 60). -/
def portLinks (d h : Nat) : List Nat :=
  if d / 4 == h then [10 + d]
  else
    let e := (if h == 0 then 2 else 4) + d % 2
    hopLinks d e ++ [10 + e]

/-- A link on the way retrains: its traffic waits (R497). -/
def waysWait (s : State) (l : List Nat) : Bool := s.hub.linkDown.any fun x => l.contains x

/-- The hub whose port leads to another device. -/
def devHub (dev : Nat) : Nat := Config.devPort dev % 32 / 16

/-- The way between a line of this device and the CXL port by which the host reaches it (R495) is open. -/
def hostWay (s : State) (line : Nat) : Bool := !(waysWait s (portLinks (homeDie (64 * line)) (Config.cxlHub line % 2)))

/-- Hops between two dies (R495). -/
def dieHops (a b : Nat) : Nat := (hopLinks a b).length

/-- A device is reachable when management has enabled it and a route is trained (R506). -/
def reachable (s : State) (dev : Nat) : Bool :=
  dev == s.dev || (s.hub.enabled.contains dev && s.hub.routes.contains dev)

/-! ### Outcomes of an access -/

/-- An access completes, faults, or must wait: `line` is the line a snoop is sent for (R511). -/
inductive Res (α : Type) where
  | ok (s : State) (x : α)
  | bad (s : State) (f : LFault)
  | hold (h : Held) (line : Nat)

def Res.bind {α β : Type} (r : Res α) (f : State → α → Res β) : Res β :=
  match r with
  | .ok s x => f s x
  | .bad s e => .bad s e
  | .hold h l => .hold h l

def Res.map {α β : Type} (r : Res α) (f : α → β) : Res β := r.bind fun s x => .ok s (f x)

/-- The fault concerns address `a` (R443). -/
def Res.at {α : Type} (r : Res α) (a : Nat) : Res α :=
  match r with
  | .bad s e => .bad s { e with fva := a }
  | r => r

/-- A fault leaves the state `s` as it was (R442), but for what the hub has noted meanwhile. -/
def Res.undo {α : Type} (r : Res α) (s : State) : Res α :=
  match r with
  | .bad t e => .bad { s with hub := t.hub } e
  | r => r

/-- Who makes an access (R300): an engine acts for the warp whose instruction gave it the work. -/
structure Who where
  asid : Nat
  pos : Pos
  sup : Bool
  warp : Nat
  eng : Bool
  fw : Bool := false       -- a system core, which the firmware window table binds (R521, R524)
  deriving DecidableEq, Repr

def Warp.who (w : Warp) : Who := { asid := w.asid, pos := w.pos, sup := w.sup, warp := w.uid, eng := false }

/-- The hardware's own accesses, at a die. -/
def dieWho (die : Nat) (eng : Bool) : Who := { asid := 0, pos := ⟨die, 0, 0⟩, sup := true, warp := 0, eng := eng }

/-! ### Hub fields and the firmware window table (R524) -/

def updHub (s : State) (f : Hub → Hub) : State := { s with hub := f s.hub }

/-- A dropped write or access, counted in telemetry (R519, R524). -/
def countDrop (s : State) : State := updHub s fun h => { h with dropped := h.dropped + 1 }

/-- `n` bytes lie in a window that grants the right. -/
def fwAllowed (s : State) (right : FwWin → Bool) (addr n : Nat) : Bool :=
  s.hub.windows.any fun w => right w && decide (w.lo ≤ addr) && decide (addr + n ≤ w.lo + w.len)

/-- The firmware window table refuses a system core the access. -/
def fwBars (s : State) (who : Who) (right : FwWin → Bool) (a n : Nat) : Bool :=
  who.fw && !(fwAllowed s right (domPa a) n)

/-! ### Homes and migrations (R499-R505) -/

/-- A corrected error is counted in the die's telemetry (R279). -/
def noteSoft (s : State) (a : Nat) : State :=
  if s.soft.contains (lineOf a) && domDev a == s.dev then
    updDie s (homeDie a) fun d => { d with corrected := d.corrected + 1 }
  else s

/-- One line moves to its new home, with the continuations registered on its counters (R250, R500). The read at the old home
may correct an error (R279). -/
def moveLine (s : State) (m : Migration) (i : Nat) : State :=
  let src := m.old + 64 * i
  let dst := m.new + 64 * i
  let s := noteSoft s src
  let here := fun (j : JoinReg) => lineOf j.addr == lineOf src
  let regs := s.dies.flatMap fun d => (d.joins.filter here).map fun j => { j with addr := dst + j.addr % 64 }
  { s with
    mem := memCopyLine s.mem src dst
    bad := s.bad.filter (· != lineOf dst)
    soft := s.soft.filter (· != lineOf dst)
    dies := s.dies.map fun d => { d with joins := (d.joins.filter fun j => !(here j)) ++ if d.num == homeDie dst then regs else [] }
    migs := modifyFirst (fun x => x.id == m.id)
      (fun x => { x with moved := i :: x.moved, bad := x.bad.filter (· != i) }) s.migs }

/-- The migration that names the frame of `a`, as old or new frame. -/
def migOf (s : State) (a : Nat) : Option Migration :=
  s.migs.find? fun m => m.old == frameOf a || m.new == frameOf a

/-- The way from a die to another device: unreachable or given up it gives a machine check (R508), and a link or an
attachment that retrains makes the request wait (R497). -/
def deviceWay (s : State) (who : Who) (det die dev : Nat) : Res Unit :=
  if !(reachable s dev) then .bad s (flt .machineCheck det)
  else if s.hub.lapsed.contains who.warp then
    .bad { s with hub := { s.hub with lapsed := s.hub.lapsed.filter (· != who.warp) } } (flt .machineCheck det)
  else if waysWait s (portLinks die (devHub dev)) then .hold .link 0
  else .ok s ()

/-- The way between two homes that a forward or a pull takes (R500, R508). -/
def homeWay (s : State) (who : Who) (det a b : Nat) : Res Unit :=
  if domDev a == s.dev && domDev b == s.dev then
    (if waysWait s (hopLinks (homeDie a) (homeDie b)) then .hold .link 0 else .ok s ())
  else if domDev a == s.dev then deviceWay s who det (homeDie a) (domDev b)
  else if domDev b == s.dev then deviceWay s who det (homeDie b) (domDev a)
  else .ok s ()

/-- Where an access to `a` is carried out now: forwarded from the old home once the line has moved, and pulled to the new
home before (R500). -/
def migResolve (s : State) (who : Who) (det a : Nat) : Res Nat :=
  match migOf s a with
  | none => .ok s a
  | some m =>
    let off := a % 65536
    let i := off / 64
    if m.old == frameOf a then
      (if m.moved.contains i then (homeWay s who det m.old m.new).map fun _ => m.new + off else .ok s a)
    else if m.moved.contains i then .ok s a
    else (homeWay s who det m.new m.old).bind fun s _ =>
      if s.bad.contains (lineOf (m.old + off)) then .bad s (flt .machineCheck det)
      else if s.hub.hostLines.contains (lineOf (m.old + off)) then .hold .snoop (lineOf (m.old + off))
      else .ok (moveLine s m i) a

/-- The place where an access to domain address `a` is carried out: another device is reached by its ports (R506, R508), a
retraining link makes the access wait (R497), a line the host holds is first taken back (R511). -/
def homeOf (s : State) (who : Who) (det a : Nat) : Res Nat :=
  if domDev a == s.dev then
    if waysWait s (hopLinks who.pos.die (homeDie a)) then .hold .link 0
    else (migResolve s who det a).bind fun s a =>
      if s.hub.hostLines.contains (lineOf a) then .hold .snoop (lineOf a) else .ok s a
  else (deviceWay s who det who.pos.die (domDev a)).bind fun s _ => migResolve s who det a

/-- Read `n` bytes of one line (R279, R461). -/
def physLoad (s : State) (who : Who) (det a n : Nat) : Res Nat :=
  if fwBars s who (fun w => w.r) a n then .ok (countDrop s) 0
  else (homeOf s who det a).bind fun s h =>
    if s.bad.contains (lineOf h) then .bad s (flt .machineCheck det)
    else .ok (noteSoft s h) (memLoad s.mem h n)

/-- Read an aligned word with its tag. -/
def physLoadW (s : State) (who : Who) (det a : Nat) : Res (BitVec 4 × Nat) :=
  if fwBars s who (fun w => w.r) a 8 then .ok (countDrop s) (0#4, 0)
  else (homeOf s who det a).bind fun s h =>
    if s.bad.contains (lineOf h) then .bad s (flt .machineCheck det)
    else .ok (noteSoft s h) (memWord s.mem h)

/-- Queue a warp's continuation record at the die where it parked, at its PRIO.LVL (R250). -/
def queueCont (s : State) (u : Nat) : State :=
  match findWarp s u with
  | some w =>
    queueRec (updWarp s u fun w => { w with status := .queued }) w.die (.continuation u) w.asid w.lvl w.ceil
  | none => s

/-- A word that a write has left holding ⟨INT, 0⟩ releases the continuations registered on it (R250). -/
def counterZero (s : State) (a : Nat) : State :=
  let a := a / 8 * 8
  let regs := s.dies.flatMap fun d => (d.joins.filter fun j => j.addr == a).flatMap fun j => j.warps
  if regs.isEmpty then s
  else if memWord s.mem a == (0#4, 0) then
    regs.foldl queueCont
      { s with dies := s.dies.map fun d => { d with joins := d.joins.filter fun j => j.addr != a } }
  else s

/-- A write is lost: an engine's copy suspends with detail 6; a warp takes an asynchronous machine
check, detail 5, with FVA the line address (R461, R508). -/
def loseWrite (s : State) (who : Who) (va : Nat) : Res Unit :=
  if who.eng then .bad s (flt .machineCheck 6)
  else .ok (updWarp s who.warp fun w => { w with mcDue := w.mcDue ++ [(5, va / 64 * 64)] }) ()

/-- Write `n` bytes inside one word that is at hand: the line is read, corrected and encoded again (R279). -/
def putPart (s : State) (h n x : Nat) (t : Option (BitVec 4)) : State :=
  let s := noteSoft s h
  counterZero { s with mem := memPut s.mem h n x t, soft := s.soft.filter (· != lineOf h) } h

/-- Write eight words of one line that is at hand; a bad line is re-encoded (R461). -/
def putLine (s : State) (h : Nat) (ws : List (Option (BitVec 4) × Nat)) : State :=
  let s := { s with bad := s.bad.filter (· != lineOf h), soft := s.soft.filter (· != lineOf h) }
  (ws.zipIdx).foldl (fun s p =>
    counterZero { s with mem := memPut s.mem (h + 8 * p.2) 8 p.1.2 p.1.1 } (h + 8 * p.2)) s

/-- Write `n` bytes inside one word at its home (R305, R461). -/
def physStore (s : State) (who : Who) (va a n x : Nat) (t : Option (BitVec 4)) : Res Unit :=
  if fwBars s who (fun w => w.w) a n then .ok (countDrop s) ()
  else match homeOf s who 6 a with
  | .hold h l => .hold h l
  | .bad s _ => loseWrite s who va
  | .ok s h => if s.bad.contains (lineOf h) then loseWrite s who va else .ok (putPart s h n x t) ()

/-- Write eight words of one line at its home. -/
def physStoreLine (s : State) (who : Who) (va a : Nat) (ws : List (Option (BitVec 4) × Nat)) : Res Unit :=
  if fwBars s who (fun w => w.w) a 64 then .ok (countDrop s) ()
  else match homeOf s who 6 a with
  | .hold h l => .hold h l
  | .bad s _ => loseWrite s who va
  | .ok s h => .ok (putLine s h ws) ()

/-- The host answers a snoop for a line: it gives the line up (R511). -/
def takeBack (s : State) (line : Nat) : State :=
  { s with hub := { s.hub with
      hostLines := s.hub.hostLines.filter (· != line), snoops := s.hub.snoops.filter (· != line) } }

/-- A line of a range that the host holds. -/
def heldIn (s : State) (a n : Nat) : Option Nat :=
  s.hub.hostLines.find? fun l => decide (a / 64 ≤ l) && decide (64 * l < a + n)

/-- Carry on with an access after each line the host gives up; `n` bounds the lines. -/
def atHandGo {α : Type} (f : State → Res α) : Nat → State → Res α
  | 0, s => f s
  | n + 1, s => match f s with
    | .hold .snoop l => atHandGo f n (takeBack s l)
    | r => r

/-- An access that a step makes on the side (a handler's entry, a race record, a shadow word, a saved word) and cannot put
off: the snoops it needs are sent and answered, and the links it needs trained, within the step (log 33). -/
def atHand {α : Type} (s : State) (f : State → Res α) : Res α :=
  let back := fun (t : State) => { t with hub := { t.hub with linkDown := s.hub.linkDown } }
  match atHandGo f s.hub.hostLines.length { s with hub := { s.hub with linkDown := [] } } with
  | .ok t x => .ok (back t) x
  | .bad t e => .bad (back t) e
  | .hold h l => .hold h l

/-! ### Walks (R271-R276) -/

/-- Payload of a page-table entry: field readers (R273, R274). -/
def pteV (p : Nat) : Bool := bitAt p 0
def pteLeaf (p : Nat) : Bool := bitAt p 1
def pteW (p : Nat) : Bool := bitAt p 5
def pteX (p : Nat) : Bool := bitAt p 6
def pteU (p : Nat) : Bool := bitAt p 7
def pteA (p : Nat) : Bool := bitAt p 8
def pteD (p : Nat) : Bool := bitAt p 9
def pteCI (p : Nat) : Bool := bitAt p 10
def pteRD (p : Nat) : Bool := bitAt p 11
def pteCRD (p : Nat) : Bool := bitAt p 12
def pteMV (p : Nat) : Bool := bitAt p 13
def pteCls (p : Nat) : Nat := bitsAt p 14 2
def pteFrame (p : Nat) : Nat := bitsAt p 52 12 * 2 ^ 52 + bitsAt p 16 36 * 65536

/-- Page size of a leaf at a level (R271). -/
def pageSize (lvl : Nat) : Nat := 2 ^ (16 + 10 * lvl)

/-- Bits of a VA that index a level (R275). -/
def vaIndex (va lvl : Nat) : Nat := bitsAt va (16 + 10 * lvl) 10

/-- A completed walk: the leaf, the domain address it was read from, its level, and the non-leaf entries that led to
it, each with its level. -/
structure Walk where
  pte : Nat
  at_ : Nat
  lvl : Nat
  path : List (Nat × Nat)
  deriving DecidableEq, Repr

def xlatFlt (det lvl : Nat) : LFault := ⟨.translation, det, lvl, 0⟩

/-- A leaf that R275 refuses. -/
def leafBad (p lvl : Nat) : Bool :=
  bitsAt p 2 3 != 0 || lvl == 3 || pteFrame p % pageSize lvl != 0 || pteCls p == 3
    || !dramOk (domPa (pteFrame p))

/-- The domain address of table entry `va` selects in the table at physical `t`. -/
def entryAt (s : State) (t va lvl : Nat) : Nat := s.dev * 2 ^ 52 + t + 8 * vaIndex va lvl

/-- The four levels of a walk (R275). The last list element is level 0. -/
def walkLevels (s : State) (who : Who) (va : Nat) : List Nat → Nat → Res Walk
  | [], _ => .bad s (xlatFlt 2 0)
  | lvl :: rest, t =>
    if !dramOk (t + 8 * vaIndex va lvl) then .bad s (xlatFlt 2 lvl)
    else (physLoad s who 2 (entryAt s t va lvl) 8).bind fun s p =>
      if !pteV p then .bad s (xlatFlt 0 lvl)
      else if pteLeaf p then
        (if leafBad p lvl then .bad s (xlatFlt 2 lvl) else .ok s ⟨p, entryAt s t va lvl, lvl, []⟩)
      else if bitsAt p 52 12 != 0 || bitsAt p 2 11 != 0 || lvl == 0 then .bad s (xlatFlt 2 lvl)
      else (walkLevels s who va rest (bitsAt p 13 39 * 2 ^ 13)).map fun k => { k with path := (lvl, p) :: k.path }

/-- The ASID table entry (R272). -/
def asidEntry (s : State) (asid : Nat) : Word := spGet 0#64 s.hub.asidTab asid

/-- A walk-cache entry covers an address at its level. -/
def WalkE.covers (e : WalkE) (asid va lvl : Nat) : Bool :=
  e.asid == asid && e.lvl == lvl && e.idx == va / 2 ^ (16 + 10 * lvl)

/-- The deepest entry of a die's walk cache for an address (R283). -/
def walkFind (s : State) (who : Who) (va : Nat) : Option WalkE :=
  if who.fw then none else [1, 2, 3].findSome? fun lvl => (getDie s who.pos.die).walks.find? fun e => e.covers who.asid va lvl

/-- A completed walk fills the walk cache of 2,048 entries (R283). -/
def walkFill (s : State) (who : Who) (va : Nat) (k : Walk) : State :=
  k.path.foldl (fun s p =>
    let (s, l) := makeRoom s 2048 ((getDie s who.pos.die).walks.filter fun e => !(e.covers who.asid va p.1))
    updDie s who.pos.die fun d => { d with walks := ⟨who.asid, p.1, va / 2 ^ (16 + 10 * p.1), p.2⟩ :: l }) s

/-- Where a walk begins: below a walk-cache entry, or at the root (R283); none where the ASID has no table. -/
def walkStart (s : State) (who : Who) (va : Nat) : Option (List Nat × Nat) :=
  match walkFind s who va with
  | some e => some (([3, 2, 1, 0] : List Nat).drop (4 - e.lvl), bitsAt e.pte 13 39 * 2 ^ 13)
  | none =>
    let e := (asidEntry s who.asid).toNat
    if bitAt e 0 then some ([3, 2, 1, 0], bitsAt e 13 39 * 2 ^ 13) else none

/-- Walk an ASID's table for `va`, setting nothing (R275). -/
def walk (s : State) (who : Who) (va : Nat) : Res Walk :=
  (match walkStart s who va with
    | some b => walkLevels s who va b.1 b.2
    | none => .bad s (xlatFlt 2 3)).bind fun s k => .ok (if who.fw then s else walkFill s who va k) k

/-- The level-0 entry for `va` that a walk comes to from the table at `t`, through the levels above it. -/
def entryGo (s : State) (who : Who) (va : Nat) : List Nat → Nat → Res Nat
  | l :: ls, t =>
    if l == 0 then .ok s (entryAt s t va 0)
    else (physLoad s who 2 (entryAt s t va l) 8).bind fun s p => entryGo s who va ls (bitsAt p 13 39 * 2 ^ 13)
  | [], t => .ok s (entryAt s t va 0)

/-- The invalid level-0 entry that a walk for `va` has read (R284, R455): the address that a compare-and-swap names. -/
def missedEntry (s : State) (who : Who) (va : Nat) : Res Nat :=
  match walkStart s who va with
  | some b => entryGo s who va b.1 b.2
  | none => .bad s (xlatFlt 2 3)

/-- Set bits of a leaf by compare-and-swap at its home (R276). -/
def setLeaf (s : State) (who : Who) (k : Walk) (p : Nat) : Res Nat :=
  if p == k.pte then .ok s p
  else (physStore s who k.at_ k.at_ 8 p none).map fun _ => p

/-! ### Translation buffers (R280, R284, R287) -/

/-- An entry covers an address. -/
def TlbE.covers (e : TlbE) (asid va : Nat) : Bool :=
  e.asid == asid && decide (e.va ≤ va) && decide (va < e.va + e.size)

def tlbFind (s : State) (who : Who) (va : Nat) : Option TlbE :=
  (getCluster s (clusterOf who.pos)).tlb.find? fun e => e.covers who.asid va

/-- Put a completed walk's leaf into the cluster's buffer of 4,096 entries (R280). -/
def tlbInsert (s : State) (who : Who) (va size pte : Nat) : State :=
  let (s, l) := makeRoom s 4096 ((getCluster s (clusterOf who.pos)).tlb.filter fun e => !(e.covers who.asid va))
  updCluster s who.pos fun c => { c with tlb := ⟨who.asid, va / size * size, size, wordN pte⟩ :: l }

/-- A translated address: domain address, leaf and page size. -/
structure Tr where
  da : Nat
  pte : Nat
  size : Nat
  deriving DecidableEq, Repr

def trOf (va pte size : Nat) : Tr := ⟨pteFrame pte + va % size, pte, size⟩

/-- A leaf that names DRAM for this access: a large page may run into the hole of R277. -/
def trOk (s : State) (t : Tr) : Res Tr :=
  if dramOk (domPa t.da) then .ok s t else .bad s (xlatFlt 2 0)

/-- Translate an address; a store is satisfied only by an entry with W and D (R276, R287). -/
def translate (s : State) (who : Who) (va : Nat) (store : Bool) : Res Tr :=
  let hit := match tlbFind s who va with
    | some e => if !store || (pteW e.pte.toNat && pteD e.pte.toNat) then some e else none
    | none => none
  match hit with
  | some e => trOk s (trOf va e.pte.toNat e.size)
  | none =>
    (walk s who va).bind fun s k =>
      (setLeaf s who k (k.pte ||| 0x100 ||| (if store then 0x200 else 0))).bind fun s p =>
        trOk (tlbInsert s who va (pageSize k.lvl) p) (trOf va p (pageSize k.lvl))

/-! ### The checks of R166 -/

/-- Kinds of access, as R22 lists them. -/
inductive AKind where
  | load | store | header | headerStore | fetch | sparse | sparseStore | byteWrite
  deriving DecidableEq, Repr

def AKind.writes : AKind → Bool
  | .store | .headerStore | .sparseStore | .byteWrite => true
  | .load | .header | .fetch | .sparse => false

/-- Page classes an access may touch (R22): 0 tagged, 1 raw, 2 sparse. -/
def AKind.classOk : AKind → Nat → Bool
  | .load, c | .store, c | .byteWrite, c => c == 0 || c == 1
  | .header, c | .headerStore, c => c == 0
  | .fetch, c => c == 1
  | .sparse, c | .sparseStore, c => c == 2

/-- Permission (R166 check 4, R274). -/
def permOk (k : AKind) (sup : Bool) (p : Nat) : Bool :=
  (sup || pteU p) && (!k.writes || pteW p) && (k != .fetch || pteX p)

/-- Checks 1 to 5 of R166, in order, for an access of `n` bytes at a 64-bit address. -/
def checkVa (s : State) (who : Who) (k : AKind) (va n : Nat) : Res Tr :=
  Res.at (
    if va ≥ 2 ^ 56 then .bad s (xlatFlt 1 0)
    else if va % n != 0 then .bad s (flt .protection 1)
    else (translate s who va k.writes).bind fun s t =>
      if !permOk k who.sup t.pte then .bad s (flt .protection 0)
      else if !k.classOk (pteCls t.pte) then .bad s (flt .classFault 0)
      else .ok s t) va

/-! ### Words and bytes at virtual addresses -/

/-- A reserved tag in a tagged word raises a tag fault (R14). -/
def valOfCode (t : BitVec 4) (x : Nat) : Option Val := (Tag.ofNat? t.toNat).map fun t => ⟨t, wordN x⟩

/-- The value of a word as LD reads it: tagged as stored, raw as ⟨RAW, bytes⟩ (R22, R170). -/
def readVal (s : State) (who : Who) (det va : Nat) (t : Tr) : Res Val :=
  Res.at ((physLoadW s who det t.da).bind fun s p =>
    if pteCls t.pte == 1 then .ok s ⟨.raw, wordN p.2⟩
    else match valOfCode p.1 p.2 with
      | some v => .ok s v
      | none => .bad s (flt .tagFault 0)) va

/-- Store a value as ST does (R22, R171): the tag is dropped on a raw page. -/
def writeVal (s : State) (who : Who) (va : Nat) (t : Tr) (v : Val) : Res Unit :=
  Res.at (physStore s who va t.da 8 v.n
    (if pteCls t.pte == 1 then none else some (BitVec.ofNat 4 (v.tag.toNat)))) va

/-- Store `n` bytes; a partly written word of a tagged page becomes RAW (R22). -/
def writePart (s : State) (who : Who) (va : Nat) (t : Tr) (n x : Nat) : Res Unit :=
  Res.at (physStore s who va t.da n x (if pteCls t.pte == 1 then none else some 3#4)) va

/-- Check and read a word as LD does (R170), without the read barrier. -/
def loadVal (s : State) (who : Who) (va : Nat) : Res Val :=
  (checkVa s who .load va 8).bind fun s t => readVal s who 0 va t

/-- Check and read the payload of a word, ignoring its tag. -/
def loadPay (s : State) (who : Who) (va : Nat) : Res Nat :=
  (checkVa s who .load va 8).bind fun s t => Res.at (physLoad s who 0 t.da 8) va

/-- Check and write a word as ST does. -/
def storeVal (s : State) (who : Who) (va : Nat) (v : Val) : Res Unit :=
  (checkVa s who .store va 8).bind fun s t => writeVal s who va t v

/-- Read `k` successive words by payload. -/
def loadPays (s : State) (who : Who) (va : Nat) : Nat → Res (List Nat)
  | 0 => .ok s []
  | k + 1 => (loadPay s who va).bind fun s x => (loadPays s who (va + 8) k).map fun l => x :: l

/-- Write successive words as ST does. -/
def storeVals (s : State) (who : Who) (va : Nat) : List Val → Res Unit
  | [] => .ok s ()
  | v :: l => (storeVal s who va v).bind fun s _ => storeVals s who (va + 8) l

/-- Write the eight words of an aligned line as ST does (R343, R461). -/
def storeLine (s : State) (who : Who) (va : Nat) (l : List Val) : Res Unit :=
  (checkVa s who .store va 8).bind fun s t => Res.at (physStoreLine s who va t.da (l.map fun v =>
    (if pteCls t.pte == 1 then none else some (BitVec.ofNat 4 v.tag.toNat), v.n))) va

/-! ### Accesses by physical address that take no translation (R198, R249, R466) -/

/-- The hardware's own accesses for warp `u` at a place. -/
def sysWho (asid : Nat) (p : Pos) (u : Nat) : Who := { asid := asid, pos := p, sup := true, warp := u, eng := false }

/-- Write tagged words at successive addresses; a bad line loses its write. -/
def physWrite (s : State) (who : Who) (a : Nat) : List Val → Res Unit
  | [] => .ok s ()
  | v :: l =>
    (physStore s who a a 8 v.n (some (BitVec.ofNat 4 (v.tag.toNat)))).bind fun s _ =>
      physWrite s who (a + 8) l

/-- Read tagged words at successive addresses. -/
def physRead (s : State) (who : Who) (det a : Nat) : Nat → Res (List (BitVec 4 × Nat))
  | 0 => .ok s []
  | k + 1 => (physLoadW s who det a).bind fun s p =>
    (physRead s who det (a + 8) k).map fun l => p :: l

end Sys2Proof.Machine
end

