-- ==== Sys2Proof/Machine/Race.lean ====
section
/-! DEFINITION. The race detector (spec/13 R325-R330) and the interval numbers that releases advance
(R326). A release otherwise has nothing to do here: every access takes effect at its home at once, so the
waits of R322 are over when the instruction is carried out (log 7). -/

namespace Sys2Proof.Machine

/-- Detector id of a warp: WNUM bits 22:0 with WNUM bit 31 on top (R325). -/
def widOf (w : Warp) : Nat := w.wnum % 2 ^ 23 + bitsAt w.wnum 31 1 * 2 ^ 23

/-- The detector's own accesses are made by hardware, which no user permission binds. -/
def Who.hw (w : Who) : Who := { w with sup := true }

/-- How an access counts for the detector (R327, R329); `probe` is an atomic that writes nothing, a CAS that fails
(R335). -/
inductive RaceUse where
  | read | write | atomic | probe
  deriving DecidableEq, Repr

def RaceUse.code : RaceUse → Nat
  | .read => 0 | .write => 1 | .atomic | .probe => 2

/-- The access writes. -/
def RaceUse.writes : RaceUse → Bool
  | .write | .atomic => true
  | .read | .probe => false

def RaceUse.isAtomic : RaceUse → Bool
  | .atomic | .probe => true
  | .read | .write => false

/-- Append a smudge record for a warp number and a PC; a full ring, or one that cannot be written, drops and counts it
(R329, R477). -/
def smudgePut (s : State) (who : Who) (wnum pc kind lane va shadow : Nat) : State :=
  let c := getCtx s who.asid
  let dropped := fun s => updCtx s who.asid fun c => { c with rdrop := c.rdrop + 1 }
  if c.rsize ≤ c.rhead - c.rtail then dropped s
  else
    let at_ := c.rbase.toNat + 32 * (c.rhead % c.rsize)
    let w1 := kind * 2 ^ 62 + lane * 2 ^ 57 + who.asid * 2 ^ 32 + wnum
    match atHand s fun s => storeVals s who.hw at_ [vRaw va, vRaw w1, vRaw shadow, vRaw pc] with
    | .ok s _ => updCtx s who.asid fun c => { c with rhead := c.rhead + 1 }
    | _ => dropped s

/-- The smudge record of a warp's access. -/
def smudge (s : State) (w : Warp) (kind lane va shadow : Nat) : State :=
  smudgePut s w.who w.wnum w.pc.toNat kind lane va shadow

/-- Word of the interval table for a warp (R326). -/
def itabWord (w : Warp) : Nat := w.intv.toNat + w.lscp * 2 ^ 28

/-- Write a warp's interval-table entry while the detector is enabled; a fault leaves a smudge record
of kind shadow fault (R326, R327). -/
def itabPut (s : State) (w : Warp) : State :=
  let c := getCtx s w.asid
  if c.en then
    let va := c.itab.toNat + 8 * widOf w
    match atHand s fun s => storeVal s w.who.hw va (vRaw (itabWord w)) with
    | .ok s _ => s
    | .bad s _ => smudge s w 3 0 va 0
    | .hold _ _ => smudge s w 3 0 va 0
  else s

/-- A release at a scope other than lane or warp advances the interval number (R326). -/
def noteRelease (s : State) (u scope : Nat) : State :=
  if scope ≤ 1 then s
  else match findWarp s u with
    | none => s
    | some w =>
      let w := { w with intv := w.intv + 1#28, lscp := scope }
      itabPut (putWarp s w) w

/-- A release for each of `n` lanes (R310: SPAWN, EXIT). -/
def noteReleases (s : State) (u scope : Nat) : Nat → State
  | 0 => s
  | n + 1 => noteReleases (noteRelease s u scope) u scope n

/-- A release of warp `w`, and the warp as it then stands. -/
def released (s : State) (w : Warp) (scope : Nat) : State × Warp :=
  let s := noteRelease s w.uid scope
  (s, (findWarp s w.uid).getD w)

/-- The shadow word's address for a sector (R325). -/
def shadowVa (s : State) (asid va : Nat) : Nat := (getCtx s asid).shb.toNat + 8 * (va / 32)

/-- The shadow word that a write leaves (R327). -/
def shadowNew (w : Warp) (sh : Nat) (other : Bool) (atomic : Bool) : Nat :=
  widOf w * 2 ^ 40 + w.intv.toNat * 2 ^ 12 + w.lscp * 2 ^ 8 +
    boolNat (bitAt sh 3 || other) * 8 + boolNat atomic * 2 + 1

/-- Check an access of warp `w` to an RD sector (R327, R328). The answer is false when the access is
trapped; nothing has then changed. -/
def raceCheck (s0 : State) (w : Warp) (va : Nat) (use : RaceUse) (lane : Nat) : Res Bool :=
  let c := getCtx s0 w.asid
  let sva := shadowVa s0 w.asid va
  match loadPay s0 w.who.hw sva with
  | .hold h l => .hold h l
  | .bad s _ => .ok (smudge s w 3 lane va 0) true
  | .ok s sh =>
    let other := bitAt sh 0 && bitsAt sh 40 24 != widOf w
    let finish := fun (s : State) (sh' : Nat) =>
      if !use.writes then
        (if sh' == sh then Res.ok s true
         else match storeVal s w.who.hw sva (vRaw sh') with
          | .ok s _ => .ok s true
          | .bad s _ => .ok (smudge s w 3 lane va sh) true
          | .hold h l => .hold h l)
      else match storeVal s w.who.hw sva (vRaw (shadowNew w sh other (use == .atomic))) with
        | .ok s _ => .ok s true
        | .bad s _ => .ok (smudge s w 3 lane va sh) true
        | .hold h l => .hold h l
    if other then
      match loadPay s w.who.hw (c.itab.toNat + 8 * bitsAt sh 40 24) with
      | .hold h l => .hold h l
      | .bad s _ => .ok (smudge s w 3 lane va sh) true
      | .ok s it =>
        if it % 2 ^ 28 == bitsAt sh 12 28 && !(bitAt sh 1 && use.isAtomic) then
          if !c.smg then .ok s0 false
          else if bitAt sh 2 then finish s sh
          else finish (smudge s w use.code lane va sh) (sh + 4)
        else finish s sh
    else finish s sh

/-- Engine, host and healing writes are not checked: each sets V to 0 for every sector it touches on an RD page. A shadow
word that faults leaves a smudge record, with the number and PC of the warp the writer acts for, or zeros (R327; log 59). -/
def clearShadow (s : State) (who : Who) (pte va n : Nat) : State :=
  if pteRD pte && (getCtx s who.asid).en then
    (List.range ((va % 32 + n + 31) / 32)).foldl (fun s k =>
      let sva := shadowVa s who.asid (va / 32 * 32 + 32 * k)
      match atHand s fun s => (loadPay s who.hw sva).bind fun s sh =>
        if bitAt sh 0 then storeVal s who.hw sva (vRaw (sh - 1)) else .ok s () with
      | .ok s _ => s
      | .bad s _ =>
        let w := findWarp s who.warp
        smudgePut s who ((w.map fun w => w.wnum).getD 0) ((w.map fun w => w.pc.toNat).getD 0) 3 0 va 0
      | .hold _ _ => s) s
  else s

/-- A race that traps, as a fault of the lane (R328). -/
def raceFlt (va : Nat) : LFault := ⟨.instruction, 26, 0, va⟩

/-- The race detector's part of one lane's access (R327, R328). -/
def raceGate (s : State) (w : Warp) (t : Tr) (va : Nat) (use : RaceUse) (lane : Nat) : Res Unit :=
  let unchecked := match w.replay with
    | some r => r.unchecked
    | none => false
  if pteRD t.pte && (getCtx s w.asid).en && !unchecked then
    (raceCheck s w va use lane).bind fun s ok => if ok then .ok s () else .bad s (raceFlt va)
  else .ok s ()

/-- The checks of R166 and the race detector for one lane's access. -/
def laneCheck (s : State) (w : Warp) (k : AKind) (va n : Nat) (use : RaceUse) (lane : Nat) : Res Tr :=
  (checkVa s w.who k va n).bind fun s t => (raceGate s w t va use lane).map fun _ => t

end Sys2Proof.Machine
end

