-- ==== Sys2Proof/Machine/Save.lean ====
section
/-! DEFINITION. The saved warp (spec/21 R466-R470): what a save area holds, writing it, and the checks
and reads at restore. Save areas are reached physically (R198, R466). -/

namespace Sys2Proof.Machine

/-- Where a word of a save area is written: its line is pulled from an old home and taken back from the host within the
step (R500, R511; log 33). -/
def sysHome (s : State) (a : Nat) : Res Nat :=
  atHand s fun s => (migResolve s (dieWho (homeDie a) true) 5 a).bind fun s h =>
    if s.hub.hostLines.contains (lineOf h) then .hold .snoop (lineOf h) else .ok s h

/-- A write of warp `u` is lost: an asynchronous machine check (R461). -/
def sysLost (s : State) (u a : Nat) : State :=
  updWarp s u fun w => { w with mcDue := w.mcDue ++ [(5, a / 64 * 64)] }

/-- A value as the memory keeps it. -/
def Val.stored (v : Val) : Option (BitVec 4) × Nat := (some (BitVec.ofNat 4 v.tag.toNat), v.n)

/-- Write one tagged word physically; a bad line loses the write (R461). -/
def sysPut (s : State) (u a : Nat) (v : Val) : State :=
  match sysHome s a with
  | .ok s h =>
    if s.bad.contains (lineOf h) then sysLost s u a else putPart s h 8 v.n v.stored.1
  | _ => sysLost s u a

/-- Write the eight words of a line physically; a bad line is encoded again (R461). -/
def sysLine (s : State) (u a : Nat) (l : List Val) : State :=
  match sysHome s a with
  | .ok s h => putLine s h (l.map Val.stored)
  | _ => sysLost s u a

/-- Write successive tagged words physically, whole lines as lines; `n` bounds the parts. -/
def sysPutsGo (u : Nat) : Nat → State → Nat → List Val → State
  | 0, s, _, _ => s
  | _ + 1, s, _, [] => s
  | n + 1, s, a, v :: l =>
    if a % 64 == 0 && decide (7 ≤ l.length) then sysPutsGo u n (sysLine s u a (v :: l.take 7)) (a + 64) (l.drop 7)
    else sysPutsGo u n (sysPut s u a v) (a + 8) l

def sysPuts (s : State) (u a : Nat) (l : List Val) : State := sysPutsGo u l.length s a l

/-- Where a word of a save area lies now (R500). -/
def sysSrc (s : State) (a : Nat) : Nat :=
  match migOf s a with
  | none => a
  | some m => (if m.moved.contains (a % 65536 / 64) then m.new else m.old) + a % 65536

/-- A migration names a frame that the range meets. -/
def rangeMoves (s : State) (a n : Nat) : Bool :=
  s.migs.any fun m => (decide (m.old < a + n) && decide (a < m.old + 65536))
    || (decide (m.new < a + n) && decide (a < m.new + 65536))

/-- The lines of a range that an access does not simply find in their place: every line of a range that moves, otherwise
those that the host holds or that have an error to correct. -/
def sysLines (s : State) (a n : Nat) : List Nat :=
  if rangeMoves s a n then (List.range ((a % 64 + n + 63) / 64)).map (a / 64 + ·)
  else ((s.hub.hostLines ++ s.soft).filter fun l => decide (a / 64 ≤ l) && decide (64 * l < a + n)).eraseDups

/-- A range is brought to hand to be read: lines are pulled and taken back (R500, R511), errors corrected (R279). -/
def sysReady (s : State) (a n : Nat) : State :=
  (sysLines s a n).foldl (fun s l => match sysHome s (64 * l) with
    | .ok s h => noteSoft s h
    | _ => s) s

/-- Read a tagged word of a range that is at hand: none where the line is uncorrectable. -/
def sysGet (s : State) (a : Nat) : Option (BitVec 4 × Nat) :=
  let h := sysSrc s a
  if s.bad.contains (lineOf h) then none else some (memWord s.mem h)

/-- Fill `n` bytes in their place with words ⟨INT, 0⟩: whole lines, encoded anew. -/
def zeroLines (s : State) (a n : Nat) : State :=
  let away := fun (l : Nat) => decide (l < a / 64) || decide ((a + n) / 64 ≤ l)
  { s with mem := memZero s.mem a (n / 8), bad := s.bad.filter away, soft := s.soft.filter away }

/-- Fill `n` bytes from `a` with words ⟨INT, 0⟩ for warp `u`, each line at its home of the moment. -/
def sysZero (s : State) (u a n : Nat) : State :=
  if rangeMoves s a n then
    (sysLines s a n).foldl (fun s l => match sysHome s (64 * l) with
      | .ok s h => zeroLines s h 64
      | _ => sysLost s u (64 * l)) s
  else zeroLines ((sysLines s a n).foldl takeBack s) a n

/-- The domain address of a warp's save area (R466). -/
def saveBase (s : State) (w : Warp) : Option Nat :=
  w.save.map fun k => s.dev * 2 ^ 52 + (getCtx s w.asid).sapb + k * 2 ^ 18

/-! ### Words of the image -/

def gselNat (w : Warp) : Nat :=
  (w.gsel.zipIdx).foldl (fun acc e => match e.1 with
    | some g => acc + (g % 256 + 256) * 2 ^ (9 * e.2)
    | none => acc) 0

def prioNat (w : Warp) : Nat := w.ceil * 256 + w.lvl

def fpctlNat (w : Warp) : Nat :=
  boolNat w.nt * 32 + boolNat w.s52 * 16 + boolNat w.s43 * 8 + w.rm.toNat

def cplNat (w : Warp) : Nat := boolNat w.hnd * 2 + boolNat w.sup

def hopNat (w : Warp) : Nat := boolNat w.hopRsn * 32 + w.hopCls

def batchNat (w : Warp) : Nat := boolNat w.hlt * 2 ^ 63 + w.done.toNat * 2 ^ 32 + w.opn.toNat

def regwinNat (w : Warp) : Nat := boolNat w.rwEn * 2 ^ 17 + w.rwCnt * 256 + w.rwFst

def wnumNat (w : Warp) : Nat := w.asid * 2 ^ 32 + w.wnum

/-- WIX (R26). -/
def wixNat (w : Warp) : Nat :=
  w.pos.row * 2 ^ 47 + w.pos.col * 2 ^ 42 + w.pos.die * 2 ^ 38 + w.slot * 2 ^ 32 + w.wnum

/-- A latch entry as 32 words (R467); an invalid entry's words are unused. -/
def latchWords : Option Opd → List Val
  | some (.vec r) => r
  | some (.sca v) => v :: List.replicate 31 vNil
  | none => List.replicate 32 vZero

def latchesWords (l : List Opd) : List Val := (List.range 8).flatMap fun k => latchWords l[k]?

def latchValid (l : List Opd) : Nat := 2 ^ min l.length 8 - 1

def latchVecs (l : List Opd) : Nat :=
  ((l.take 8).zipIdx).foldl (fun acc e => acc + boolNat e.1.isVec * 2 ^ e.2) 0

/-- KIND codes of R193. -/
def RKind.code : RKind → Nat
  | .join => 0 | .path => 1 | .handler => 2 | .pending => 3

/-- The two words of a rejoin entry, low first (R193). -/
def rejoinWords (e : Rejoin) : List Val :=
  [vRaw (e.lvl * 2 ^ 40 + e.repc * 2 ^ 32 + e.mask.toNat),
   vRaw (e.kind.code * 2 ^ 61 + boolNat e.rsn * 2 ^ 60 + e.pc.toNat)]

/-- Channel kinds (R347). -/
def chKindCode : ChKind → Nat
  | .free => 0 | .deq => 1 | .enq => 2 | .fin => 3 | .fout => 4 | .dec => 5

/-- An entry read back from its two words (R193). -/
def rejoinOf (lo hi : Nat) : Rejoin :=
  ⟨match bitsAt hi 61 2 with
    | 0 => .join
    | 1 => .path
    | 2 => .handler
    | _ => .pending, bitAt hi 60, BitVec.ofNat 56 hi, bitsAt lo 40 6, bitsAt lo 32 7, BitVec.ofNat 32 lo⟩

/-- The words of a handler frame (R469). -/
def hframeWords (f : HFrame) : List (Nat × List Val) :=
  [(0, latchesWords f.latches), (0x800, f.ha), (0x900, f.hb),
   (0xA00, [vNat (boolNat f.hopRsn * 32 + f.hopCls), vCode f.hpc, vNat f.repc,
     vRaw (latchValid f.latches + latchVecs f.latches * 256 + boolNat f.hnd * 2 ^ 16
       + boolNat f.alarm * 2 ^ 17)])]

def SKind.code : SKind → Nat
  | .replay | .sparse => 0 | .after => 1 | .copy => 2 | .matrix => 3

/-- The words of the supervisor frame (R469); HOP and HPC do not belong to it and are the warp's. -/
def sframeWords (w : Warp) (f : SFrame) : List (Nat × List Val) :=
  [(0, latchesWords f.latches), (0x800, f.ha), (0x900, f.hb),
   (0xA00, [vNat (hopNat w), vCode w.hpc, vNat f.repc,
     vRaw (latchValid f.latches + latchVecs f.latches * 256 + boolNat f.hnd * 2 ^ 16)]
     ++ f.s20 ++ [vRaw f.em.toNat, ⟨.raw, f.fcause⟩, vRaw f.flm.toNat, vCode f.repPc, vCode f.resPc,
       vRaw (f.kind.code + f.depth * 2 ^ 16), if f.kind == .copy then vNat f.ticket else vZero])]

/-- Rejoin depth: entries on chip and in spilled blocks (R198). -/
def Warp.depth (w : Warp) : Nat := w.stack.length + 16 * w.spill.length

/-- The header (R468). -/
def headerWords (w : Warp) : List Val :=
  [vCode w.pc,
   vRaw (w.em.toNat + w.allot * 2 ^ 32 + w.repc * 2 ^ 48 + cplNat w * 2 ^ 56 + boolNat w.supp * 2 ^ 60),
   vNat (wnumNat w), vRaw (gselNat w), vNat (prioNat w),
   vRaw (fpctlNat w + w.fpst.toNat * 2 ^ 32), vNat w.ncur, vNat w.nlim,
   vRaw (batchNat w), vRaw (regwinNat w), ⟨.raw, w.nrec⟩, ⟨.raw, w.fcause⟩, vRaw w.flm.toNat,
   vNat (hopNat w), vCode w.hpc, vRaw (latchValid w.latches + latchVecs w.latches * 256),
   vRaw (w.stack.length + w.spill.length * 2 ^ 8 + w.hframes.length * 2 ^ 16
     + boolNat w.sframe.isSome * 2 ^ 24),
   vRaw (w.intv.toNat + w.lscp * 2 ^ 28), vNat (w.regsReq.getD 0), vRaw w.exited.toNat]
  ++ List.replicate 12 vZero

/-- Pad a list of words with ⟨INT, 0⟩. -/
def padTo (n : Nat) (l : List Val) : List Val := l ++ List.replicate (n - l.length) vZero

/-- A channel's descriptor as it was bound (R467). -/
def Chan.descVal (c : Chan) : Val := if c.raw then vRaw c.desc else vNat c.desc

/-- The parts of a save area that are written with the warp (R467): offset and words. Spilled blocks are there already. -/
def saveImage (w : Warp) : List (Nat × List Val) :=
  [(0, headerWords w), (0x100, w.sreg),
   (0x300, padTo 8 ((w.m.drop 1).map fun m => vRaw m.toNat)),
   (0x340, w.chans.flatMap fun c => [c.descVal, vRaw (chKindCode c.kind + c.buf.length * 256)]),
   (0x800, latchesWords w.latches),
   (0x1000, padTo 64 ((w.stack.reverse).flatMap rejoinWords)),
   (0x1200, w.ha ++ w.hb ++ w.fva.map fun x => ⟨.int, x⟩)]
  ++ (match w.sframe with
      | some f => (sframeWords w f).map fun p => (0x2000 + p.1, p.2)
      | none => [])
  ++ [(0x3000, w.chans.flatMap fun c => padTo 8 (c.buf.take 8))]
  ++ ((w.hframes.reverse).zipIdx.flatMap fun f =>
       (hframeWords f.1).map fun p => (0x10000 + 4096 * f.2 + p.1, p.2))
  ++ (w.v.zipIdx.map fun r => (0x30000 + 256 * r.2, r.1))

/-- Write the warp's image into its save area, unused words as ⟨INT, 0⟩ (R465-R467). -/
def saveWarp (s : State) (u : Nat) : State :=
  match findWarp s u with
  | none => s
  | some w =>
    match saveBase s w with
    | none => s
    | some b =>
      let top := 0x4000 + 256 * w.spill.length
      let s := sysZero (sysZero s u b 0x4000) u (b + top) (0x30000 - top)
      let s := (saveImage w).foldl (fun s p => sysPuts s u (b + p.1) p.2) s
      updWarp s u fun w => { w with saved := true }

/-- Write one spilled block into the region (R198). -/
def spillBlock (s : State) (u k : Nat) (b : List Rejoin) : State :=
  match findWarp s u with
  | none => s
  | some w =>
    match saveBase s w with
    | none => s
    | some a => sysPuts s u (a + 0x4000 + 256 * k) ((b.reverse).flatMap rejoinWords)

/-- Rejoin entries read back from `n` of them at `a`, last first: none where a line is uncorrectable. -/
def readRejoins (s : State) (a n : Nat) : Option (List Rejoin) :=
  ((List.range n).reverse.mapM fun j =>
    (sysGet s (a + 16 * j)).bind fun lo => (sysGet s (a + 16 * j + 8)).map fun hi => rejoinOf lo.2 hi.2)

/-- Block `k` of the spill region, top first (R198, R461). A warp without a save area keeps it in the model's state. -/
def readBlock (s : State) (w : Warp) (k : Nat) (b : List Rejoin) : Option (List Rejoin) :=
  match saveBase s w with
  | none => some b
  | some a => readRejoins s (a + 0x4000 + 256 * k) 16

/-! ### Restore (R470) -/

/-- Tagged words read back from an image: none where a line is uncorrectable or a tag reserved. -/
def imageVals (s : State) (a n : Nat) : Option (List Val) :=
  (List.range n).mapM fun j => (sysGet s (a + 8 * j)).bind fun p => valOfCode p.1 p.2

/-- A word whose bits outside `m` are zero. -/
def zeroOutside (m x : Nat) : Bool := x &&& m == x

/-- A canonical code address (R193, R468). -/
def codeOk (v : Val) : Bool := v.tag == .code && v.n % 8 == 0 && decide (v.n < 2 ^ 56)

/-- The header's counts and reserved fields are within their limits (R193, R468, R470). -/
def headerOk (h : List Val) : Bool :=
  let x := fun k => (h.getD k vZero).n
  codeOk (h.getD 0 vZero)
    && zeroOutside (2 ^ 41 - 1 + (2 ^ 55 - 2 ^ 48) + (2 ^ 58 - 2 ^ 56) + 2 ^ 60) (x 1)
    && decide (bitsAt (x 1) 32 9 ≤ 256) && decide (bitsAt (x 1) 48 7 ≤ 64)
    && zeroOutside (2 ^ 42 - 1) (x 2) && zeroOutside (2 ^ 36 - 1) (x 3)
    && zeroOutside 0x3F3F (x 4) && zeroOutside (0x3F + 0x7F * 2 ^ 32) (x 5)
    && decide (bitsAt (x 5) 0 3 < 6)
    && zeroOutside (2 ^ 56 - 16) (x 6) && zeroOutside (2 ^ 56 - 16) (x 7)
    && zeroOutside (2 ^ 64 - 1 - 2 ^ 31) (x 8) && zeroOutside 0x3FFFF (x 9)
    && zeroOutside (2 ^ 63 + (2 ^ 55 - 2 ^ 33) + 2 ^ 32 - 1) (x 10)
    && zeroOutside (2 ^ 32 - 1) (x 12) && zeroOutside 0x3F (x 13) && codeOk (h.getD 14 vZero)
    && zeroOutside 0xFFFF (x 15)
    && zeroOutside (0x3F + 0x3F00 + 0x3F0000 + 2 ^ 24) (x 16)
    && decide (bitsAt (x 16) 0 6 ≤ 32) && decide (bitsAt (x 16) 8 6 ≤ 62)
    && decide (bitsAt (x 16) 16 6 ≤ 32)
    && zeroOutside (2 ^ 32 - 1) (x 17) && decide (x 18 ≤ 256) && zeroOutside (2 ^ 32 - 1) (x 19)
    && (h.drop 20).all fun v => v.n == 0

/-- The bits a channel descriptor may use (R347). -/
def chanDescOk (k : ChKind) (x : Nat) : Bool :=
  match k with
  | .free => x == 0
  | .deq | .enq => true
  | .fin => x < 4
  | .fout => zeroOutside 0x33FFF x
  | .dec => zeroOutside 0x7FFC0 x

/-- A channel kind's code read back (R347). -/
def chKindOf : Nat → Option ChKind
  | 0 => some .free | 1 => some .deq | 2 => some .enq | 3 => some .fin | 4 => some .fout | 5 => some .dec
  | _ => none

/-- The two words of a channel-table entry (R347, R467). -/
def chanWordsOk (d x : Nat) : Bool :=
  zeroOutside 0x707 x && match chKindOf (bitsAt x 0 3) with
    | some k => chanDescOk k d
    | none => false

/-- The channel table's 16 entries. -/
def chanTableOk (l : List Val) : Bool :=
  (List.range 16).all fun k => chanWordsOk (l.getD (2 * k) vZero).n (l.getD (2 * k + 1) vZero).n

/-- The words of a frame from offset 0xA00, of a handler or the supervisor (R469). -/
def frameOk (sup : Bool) (l : List Val) : Bool :=
  let x := fun k => (l.getD k vZero).n
  zeroOutside 0x3F (x 0) && codeOk (l.getD 1 vZero) && decide (x 2 ≤ 64)
    && zeroOutside (if sup then 0x1FFFF else 0x3FFFF) (x 3)
    && (!sup || (zeroOutside (2 ^ 32 - 1) (x 8) && zeroOutside (2 ^ 32 - 1) (x 10)
      && codeOk (l.getD 11 vZero) && codeOk (l.getD 12 vZero) && zeroOutside (3 + 0x3FF0000) (x 13)
      && (if bitsAt (x 13) 0 2 == 2 then zeroOutside (2 ^ 45 - 1) (x 14) else x 14 == 0)))

/-- A stored rejoin entry has an assigned KIND and zero reserved fields (R193). -/
def rejoinOk (lo hi : Nat) : Bool :=
  bitsAt hi 63 1 == 0 && bitsAt hi 56 4 == 0 && bitsAt hi 0 3 == 0 && bitsAt lo 46 18 == 0
    && bitsAt lo 39 1 == 0 && decide (bitsAt lo 40 6 ≤ 32)

/-- The first `n` stored rejoin entries at `a` are sound. -/
def rejoinsOk (s : State) (a n : Nat) : Bool :=
  (List.range n).all fun j =>
    match sysGet s (a + 16 * j), sysGet s (a + 16 * j + 8) with
    | some lo, some hi => rejoinOk lo.2 hi.2
    | _, _ => false

/-- No line of the parts that hold the warp is uncorrectable, and no word of the area has a reserved tag (R461, R470). -/
def imageClean (s : State) (a : Nat) (w : Warp) : Bool :=
  ((saveImage w).all fun p => (List.range (p.2.length / 8 + 1)).all fun k =>
      !(s.bad.contains (lineOf (sysSrc s (a + p.1 + 64 * k))) && decide (64 * k < 8 * p.2.length)))
    && (s.mem.tags.all fun t => !(decide (a / 8 ≤ t.1) && decide (t.1 < (a + 0x40000) / 8) && decide (12 < t.2.toNat)))

/-- What R470 asks of the image at `a`, with header `h` and masks `ms`. -/
def imageOk (s : State) (a : Nat) (w : Warp) (h ms : List Val) : Bool :=
  let n := fun lo => bitsAt (h.getD 16 vZero).n lo 6
  let ok := fun (p : List Val → Bool) (l : Option (List Val)) => l.any p
  headerOk h && (ms.all fun v => decide (v.n < 2 ^ 32)) && imageClean s a w
    && ok chanTableOk (imageVals s (a + 0x340) 32)
    && rejoinsOk s (a + 0x1000) (n 0)
    && (List.range (n 8)).all (fun k => rejoinsOk s (a + 0x4000 + 256 * k) 16)
    && (List.range (n 16)).all (fun k => ok (frameOk false) (imageVals s (a + 0x10000 + 4096 * k + 0xA00) 4))
    && (!bitAt (h.getD 16 vZero).n 24 || ok (frameOk true) (imageVals s (a + 0x2000 + 0xA00) 15))

/-- Split a list into rows of 32. -/
def rows32 : Nat → List Val → List Row
  | 0, _ => []
  | n + 1, l => l.take 32 :: rows32 n (l.drop 32)

/-- Change the FPCTL and FPST word of a warp, in its save area too where its state lies there (R466, R468). -/
def setFpWord (s : State) (u : Nat) (f : Warp → Warp) : State :=
  let s := updWarp s u f
  match findWarp s u with
  | none => s
  | some w => match saveBase s w with
    | some a => if w.saved then
        (match sysGet (sysReady s (a + 0x28) 8) (a + 0x28) with
        | some p =>
          let x : Warp := f { w with nt := bitAt p.2 5, fpst := BitVec.ofNat 7 (bitsAt p.2 32 7) }
          let n := p.2 - boolNat (bitAt p.2 5) * 32 - bitsAt p.2 32 7 * 2 ^ 32 + boolNat x.nt * 32 + x.fpst.toNat * 2 ^ 32
          sysPut (sysReady s (a + 0x28) 8) u (a + 0x28) (vRaw n)
        | none => s)
      else s
    | none => s

/-- The parts of a warp's save area, at hand to be read. -/
def saveReady (s : State) (w : Warp) : State :=
  match saveBase s w with
  | some a => if w.saved then
      (List.range w.spill.length).foldl (fun s k => sysReady s (a + 0x4000 + 256 * k) 256)
        ((saveImage w).foldl (fun s p => sysReady s (a + p.1) (8 * p.2.length)) s)
    else s
  | none => s

/-- Restore a warp from its save area, which is at hand: the checks of R470, then the fields a debugger may have written.
None where the image is refused. -/
def restoreWarp (s : State) (w : Warp) : Option Warp :=
  match saveBase s w with
  | none => some { w with saved := false }
  | some a =>
    if !w.saved then some w
    else match imageVals s a 32, imageVals s (a + 0x100) 64, imageVals s (a + 0x300) 8,
        imageVals s (a + 0x30000) (32 * w.allot) with
      | some h, some sr, some ms, some rs =>
        if imageOk s a w h ms then
          let f := (h.getD 5 vZero).n
          some { w with
            saved := false
            pc := (h.getD 0 vZero).pl.setWidth 56
            sreg := sr
            m := (w.m.take 1) ++ (ms.take 7).map fun v => BitVec.ofNat 32 v.n
            v := rows32 w.allot rs
            nt := bitAt f 5, s52 := bitAt f 4, s43 := bitAt f 3, rm := BitVec.ofNat 3 (bitsAt f 0 3)
            fpst := BitVec.ofNat 7 (bitsAt f 32 7) }
        else none
      | _, _, _, _ => none

end Sys2Proof.Machine
end

