-- ==== Sys2Proof/Machine/Queue.lean ====
section
/-! DEFINITION. Hardware queues (spec/14 R342-R345), the lines hardware itself enqueues (R452, R473) with
the overflow rings they wait in (R256), and the Blotter (spec/21 R479, R480). -/

namespace Sys2Proof.Machine

/-- A queue descriptor (R342). -/
structure QDesc where
  ring : Nat
  lsz : Nat
  head : Nat
  tail : Nat
  en : Bool
  qc : Nat
  deriving DecidableEq, Repr

/-- The descriptor's words are sound (R342). -/
def qdescOk (w : List Nat) : Bool :=
  let x := fun k => w.getD k 0
  zeroOutside (2 ^ 56 - 64) (x 0) && zeroOutside 31 (x 1) && decide (1 ≤ x 1) && decide (x 1 ≤ 20)
    && zeroOutside (2 ^ 63 + 63) (x 4) && (!bitAt (x 4) 63 || decide (bitsAt (x 4) 0 6 ≤ 47))
    && x 5 == 0 && x 6 == 0 && x 7 == 0

def qdescOf (w : List Nat) : QDesc :=
  let x := fun k => w.getD k 0
  ⟨x 0, bitsAt (x 1) 0 5, x 2, x 3, bitAt (x 4) 63, bitsAt (x 4) 0 6⟩

def queueFlt (va : Nat) : LFault := fltAt .instruction 22 va

/-- Read a descriptor (R342, R344): 64-byte aligned, checked as an 8-byte store. -/
def readDesc (s : State) (who : Who) (va : Nat) : Res QDesc :=
  Res.at (if va < 2 ^ 56 && va % 64 != 0 then .bad s (flt .protection 1)
  else (checkVa s who .store va 8).bind fun s _ =>
    (loadPays s who va 8).bind fun s w =>
      if qdescOk w then .ok s (qdescOf w) else .bad s (queueFlt va)) va

def QDesc.cap (q : QDesc) : Nat := 2 ^ q.lsz
def QDesc.count (q : QDesc) : Nat := (q.tail + 2 ^ 64 - q.head) % 2 ^ 64
def QDesc.full (q : QDesc) : Bool := decide (q.cap ≤ q.count)
def QDesc.slot (q : QDesc) (n : Nat) : Nat := q.ring + 64 * (n % q.cap)

/-- Rewrite a descriptor's payload word and leave its tag (R342). -/
def storePay (s : State) (who : Who) (va x : Nat) : Res Unit :=
  (checkVa s who .store va 8).bind fun s t => Res.at (physStore s who va t.da 8 x none) va

/-- The hardware word of a line (R343). -/
def lineWord (tail type : Nat) : Nat := tail % 2 ^ 32 * 2 ^ 32 + type % 256 * 256 + 1

/-- Signal queue core QC (R342). -/
def signalCore (s : State) (q : QDesc) : State :=
  if q.en then { s with hub := { s.hub with qsig := spSet 0 s.hub.qsig q.qc (spGet 0 s.hub.qsig q.qc + 1) } }
  else s

/-- The race detector's part in a queue's step on `n` bytes at `va` (R327): a warp's step is checked as an atomic, and the
hardware's own steps clear the shadow (log 59). -/
def queueTouch (s : State) (x : Option Warp) (who : Who) (va n : Nat) : Res Unit :=
  (checkVa s who .store va 8).bind fun s t => match x with
    | none => .ok (clearShadow s who t.pte va n) ()
    | some w => (List.range (n / 32)).foldl (fun r k => r.bind fun s _ => raceGate s w t (va + 32 * k) .atomic 0)
        (.ok s ())

/-- One ENQ step at the descriptor's home (R344), by a warp or by hardware: false when the queue is full. -/
def enqStep (s0 : State) (x : Option Warp) (who : Who) (va : Nat) (ws : List Val) (type : Nat) : Res Bool :=
  ((readDesc s0 who va).bind fun s q =>
    if q.full then .ok s false
    else (queueTouch s x who va 32).bind fun s _ => (queueTouch s x who (q.slot q.tail) 64).bind fun s _ =>
      (storeLine s who (q.slot q.tail) (ws.take 7 ++ [vRaw (lineWord q.tail type)])).bind fun s _ =>
      (storePay s who (va + 24) ((q.tail + 1) % 2 ^ 64)).bind fun s _ => .ok (signalCore s q) true).undo s0

/-- Read successive words as LD does. -/
def loadVals (s : State) (who : Who) (va : Nat) : Nat → Res (List Val)
  | 0 => .ok s []
  | k + 1 => (loadVal s who va).bind fun s x => (loadVals s who (va + 8) k).map fun l => x :: l

/-- One DEQ step (R344), by a warp or by hardware: none when the queue is empty. -/
def deqStep (s0 : State) (x : Option Warp) (who : Who) (va : Nat) : Res (Option (List Val)) :=
  ((readDesc s0 who va).bind fun s q =>
    if q.count == 0 then .ok s none
    else (queueTouch s x who va 32).bind fun s _ => (queueTouch s x who (q.slot q.head) 64).bind fun s _ =>
      (loadVals s who (q.slot q.head) 8).bind fun s l =>
      (storeVal s who (q.slot q.head + 56) (vRaw 0)).bind fun s _ =>
        (storePay s who (va + 16) ((q.head + 1) % 2 ^ 64)).bind fun s _ => .ok s (some l)).undo s0

/-! ### Lines enqueued by hardware -/

/-- The queue-table entry of a queue number (R345, R517). -/
def queueEntry (s : State) (n : Nat) : Option QEnt :=
  s.hub.qtab.find? fun q => q.num == n && q.v

/-- Send the snoop for a line that the host holds (R511), once the way to the host is open (R497). -/
def sendSnoop (s : State) (line : Nat) : State :=
  if s.hub.snoops.contains line || !(hostWay s line) then s else { s with hub := { s.hub with snoops := s.hub.snoops ++ [line] } }

/-- Enqueue a line of seven words to queue `n` at once, if it can be (R452). A line of the queue that the host holds is
asked for. -/
def tryLine (s : State) (die n type : Nat) (ws : List Val) : State × Bool :=
  match queueEntry s n with
  | none => (s, false)
  | some q =>
    match enqStep s none { dieWho die false with asid := q.asid } q.desc ws type with
    | .ok t ok => (if ok then t else s, ok)
    | .bad _ _ => (s, false)
    | .hold h l => (if h == .snoop then sendSnoop s l else s, false)

/-- Enqueue a line; when the queue is full or unusable it waits in the die's overflow ring (R256, R452). The
TYPE travels in word 7 of the waiting line. -/
def hwLine (s : State) (die n type : Nat) (ws : List Val) : State :=
  match tryLine s die n type ws with
  | (s, true) => s
  | (s, false) => updDie s die fun d => { d with overflow := d.overflow ++ [(n, ws.take 7 ++ [vRaw type])] }

/-- Waiting lines of one die in order: each goes out as soon as its queue takes it. -/
def drainDie (s : State) (die : Nat) : State :=
  let ls := (getDie s die).overflow
  if ls.isEmpty then s
  else ls.foldl (fun s l => hwLine s die l.1 (l.2.getD 7 vZero).n (l.2.take 7))
    (updDie s die fun d => { d with overflow := [] })

def drainLines (s : State) : State := (List.range 8).foldl drainDie s

/-! ### The Blotter -/

/-- What a core latches (R480), the ready warps of its quadrants given. -/
def coreSnap (s : State) (c : Core) (ready : Nat → Nat) : CoreSnap where
  cycle := s.cycle
  asid := c.live.getD 0
  quads := (List.range 4).map fun q => match ((c.last.getD q (none, 0)).1).bind fun u => findWarp s u with
    | some w => (w.pc, wordN (wixNat w), ready q)
    | none => (0#56, 0#64, ready q)
  batch := match c.mq with
    | m :: _ => m.batch.toNat
    | [] => 0
  depth := c.mq.length
  busy := c.copies.length
  bconf := c.bconf

/-- What a die latches (R525): queue depth per level, open bins, group-unit entries in use, engine queue
depths; the die-cache occupancies, which are left open (logs 6, 7); its CYCLE (R480). -/
def dieSnap (s : State) (d : Die) : List Nat :=
  ((List.range 48).map fun l => (d.queue.filter fun r => r.lvl == l).length)
    ++ [d.bins.length,
        ((s.launches.filter fun l => l.die == d.num && l.granted).map fun l =>
          match l.groups with
          | some g => (g.filter fun e => e.count != 0).length
          | none => 0).sum]
    ++ (d.engines.map fun e => e.length)
    ++ [(Config.telemetry s.freeCtr).toNat, (Config.telemetry (s.freeCtr + 1)).toNat, s.cycle]

/-- Ports whose link is trained: scale-up ports 0 to 31 by the routes over them, then the CXL ports of the hubs, trained
with the bring-up (R506, R525, R528). -/
def portsUp (s : State) : List Nat :=
  (List.range 34).filter fun k =>
    if k < 32 then s.hub.routes.any fun d => Config.devPort d % 32 == k else !s.hub.inReset

/-- An enabled trigger: the Blotter fires when armed, and otherwise counts a miss (R479, R480). The hub latches at once and
the cores at the end of the turn. -/
def blotFire (s : State) (src asid wnum code : Nat) : State :=
  let b := s.hub.blot
  if b.arm then
    { s with
      hub := { s.hub with blot := { b with
        fired := true, arm := false, src := src, asid := asid, wnum := wnum, code := code
        cycle := s.cycle, out := true, latch := true, links := s.hub.linkDown, ports := portsUp s
        pcs := s.hub.fwPcs } }
      dies := s.dies.map fun d => { d with snap := dieSnap s d }
      freeCtr := s.freeCtr + 2 }
  else { s with hub := { s.hub with blot := { b with miss := min (b.miss + 1) 0xFFFF } } }

/-- A fault fires at its handler entry or escalation when its class is enabled (R479). -/
def blotFault (s : State) (asid wnum code : Nat) : State :=
  if s.hub.blot.fen && s.hub.blot.fcls.getLsbD (code - 1) then blotFire s 3 asid wnum code else s

end Sys2Proof.Machine
end

