-- ==== Sys2Proof/Machine/Ops.lean ====
section
/-! DEFINITION. The shared operations of a warp: registers, the latch history, the rejoin stack, taking a
fault, the return from it, escalation to the host, diversion to lane handlers and the return from them
(spec/01 R16-R17, spec/03 R72-R82, spec/04 R106-R122, spec/07 R192-R198, spec/20 R440-R453). -/

namespace Sys2Proof.Machine

/-! ### Registers (R16, R17) -/

/-- A mask register as read: m0 reads all ones. -/
def maskVal (w : Warp) (n : BitVec 3) : Mask := if n == 0#3 then allLanes else w.m.getD n.toNat 0#32

/-- A vector register. -/
def rowVal (w : Warp) (n : Nat) : Row := w.v.getD n nilRow

def sregVal (w : Warp) (n : Nat) : Val := w.sreg.getD n vNil

/-- A register as an operand. -/
def readReg (w : Warp) : Reg → Opd
  | .v n => .vec (rowVal w n.toNat)
  | .s n => .sca (sregVal w n.toNat)
  | .m n => .sca (vRaw (maskVal w n).toNat)
  | .t n => .sca (tileHandle w.pos n.toNat)
  | .zr => .sca vZero

/-- The register lies inside its space (R17). -/
def regExists (w : Warp) : Reg → Bool
  | .v n => decide (n.toNat < w.allot)
  | _ => true

def setV (w : Warp) (n : Nat) (r : Row) : Warp := { w with v := setAt w.v n r }
def setS (w : Warp) (n : Nat) (v : Val) : Warp := { w with sreg := setAt w.sreg n v }
def setM (w : Warp) (n : BitVec 3) (m : Mask) : Warp :=
  if n == 0#3 then w else { w with m := setAt w.m n.toNat m }

/-- Write lanes of a destination, or its one value (R16, R17, R70). -/
def writeDst (w : Warp) (d : Dst) (m : Mask) (o : Opd) : Warp :=
  match d with
  | .reg (.v n) => setV w n.toNat (rowMerge m (rowWith o.lane) (rowVal w n.toNat))
  | .reg (.s n) => setS w n.toNat (o.lane 0)
  | .reg (.m n) => setM w n ((o.lane 0).pl.setWidth 32)
  | _ => w

/-! ### The latch history (R72) -/

/-- The entry an outstanding load pushed is one place further down, or has been dropped. -/
def PendLoad.aged (p : PendLoad) : PendLoad :=
  { p with latch := p.latch.bind fun k => if k + 1 < 8 then some (k + 1) else none }

def pushLatch (w : Warp) (o : Opd) : Warp :=
  { w with
    latches := (o :: w.latches).take 8, outstanding := w.outstanding.map PendLoad.aged
    sparse := w.sparse.map fun p => { p with wait := p.wait.aged } }

/-- Sparse operations of the warp are in flight (R363). -/
def Warp.inFlight (w : Warp) : Bool := !w.sparse.isEmpty

/-- What an inactive lane, or a guarded-off instruction, leaves in the entry (R72, R76). A guarded-off scalar
instruction whose destination is no register has no old value; DESIGN CHOICE ⟨NIL, 0⟩ (log 53). -/
def oldOf (w : Warp) (d : Dst) (vec : Bool) : Opd :=
  match d with
  | .reg (.v n) => .vec (if regExists w (.v n) then rowVal w n.toNat else nilRow)
  | .reg (.s n) => .sca (sregVal w n.toNat)
  | .reg (.m n) => .sca (vRaw (maskVal w n).toNat)
  | _ => if vec then .vec nilRow else .sca vNil

/-- The entry of an instruction that wrote `new` in the lanes of `m` (R72). -/
def latchOf (w : Warp) (d : Dst) (vec : Bool) (m : Mask) (new : Opd) : Opd :=
  match d with
  | .reg (.m n) =>
    .sca (vRaw (if n == 0#3 then allLanes else (new.lane 0).pl.setWidth 32).toNat)
  | _ =>
    if vec then .vec (rowMerge m (rowWith new.lane) (rowWith (oldOf w d vec).lane)) else .sca (new.lane 0)

/-! ### The program counter (R61, R81, R82) -/

/-- Continue after an instruction of `size` bytes; under REP with the next repetition. -/
def advance (w : Warp) (size : Nat) : Warp :=
  let w := { w with replay := none, held := none, joining := false }
  if w.repc ≤ 1 then { w with repc := 0, pc := w.pc + BitVec.ofNat 56 size }
  else { w with repc := w.repc - 1 }

/-- Continue at an address. -/
def jumpTo (w : Warp) (pc : Addr) : Warp := { w with replay := none, held := none, joining := false, pc := pc }

/-! ### The rejoin stack (R192-R198) -/

/-- Live lanes (R189). -/
def liveLanes (w : Warp) : Mask :=
  ((w.stack ++ w.spill.flatten).foldl (fun m e => m ||| e.mask) w.em) &&& ~~~w.exited

/-- `n` more entries keep the stack within its 1,024 (R198). -/
def depthOk (w : Warp) (n : Nat) : Bool := decide (w.depth + n ≤ 1024)

/-- Push an entry; a full chip first spills its 16 oldest entries as one block. -/
def pushEntry (s : State) (u : Nat) (e : Rejoin) : State :=
  match findWarp s u with
  | none => s
  | some w =>
    if w.stack.length < 32 then updWarp s u fun w => { w with stack := e :: w.stack }
    else
      let b := w.stack.drop 16
      let s := spillBlock s u w.spill.length b
      updWarp s u fun w => { w with stack := e :: w.stack.take 16, spill := b :: w.spill }

/-- An entry without the exited lanes; none when it is left empty. -/
def stripEntry (ex : Mask) (e : Rejoin) : Option Rejoin :=
  let m := e.mask &&& ~~~ex
  if m == 0#32 then none else some { e with mask := m }

/-- Reload spilled blocks while none is on chip; false when a block cannot be read (R198, R461). -/
def refillGo (s : State) (w : Warp) : List (List Rejoin) → Warp × Bool
  | [] => ({ w with spill := [] }, true)
  | b :: l => match readBlock s w l.length b with
    | some b =>
      let on := b.filterMap (stripEntry w.exited)
      if on.isEmpty then refillGo s w l else ({ w with stack := on, spill := l }, true)
    | none => ({ w with spill := b :: l }, false)

def refillWarp (s : State) (w : Warp) : Warp × Bool :=
  if w.stack.isEmpty then refillGo s w w.spill else (w, true)

/-- Pop the top entry and refill. -/
def popEntry (s : State) (w : Warp) : Warp := (refillWarp s { w with stack := w.stack.drop 1 }).1

/-! ### Faults (R440-R448) -/

/-- What a fault reports (R442-R448). -/
structure Report where
  cls : FClass
  det : Nat
  info : Nat
  flm : Mask
  rlm : Mask
  fva : List Word
  async : Nat
  kind : SKind
  repPc : Addr
  resPc : Addr
  ticket : Nat
  lanes : Mask
  whole : Bool
  popped : List Opd
  part : List (Nat × Val) := []
  deriving DecidableEq, Repr

/-- FCAUSE (R444). -/
def fcauseOf (r : Report) : Word :=
  wordN (r.async * 2 ^ 62 + r.cls.code * 2 ^ 57 + r.det % 256 * 2 ^ 49
    + boolNat (r.kind == .replay || r.kind == .sparse) * 2 ^ 48 + r.info % 2 ^ 16 * 2 ^ 32 + r.rlm.toNat)

def noFva : List Word := List.replicate 32 0#64

/-- One address in every lane of a mask (R443). -/
def fvaAll (m : Mask) (a : Nat) : List Word := lanes.map fun i => if inMask m i then wordN a else 0#64

/-- What the replay that a warp carries out keeps of earlier executions: channel values, and completed lanes'
values (R442, R450). -/
def Warp.kept (w : Warp) : List Opd × List (Nat × Val) :=
  match w.replay with
  | some r => (r.popped, r.part)
  | none => ([], [])

/-- A fault of the whole instruction at the warp's PC, for the lanes `m`. -/
def wholeReport (w : Warp) (f : LFault) (m : Mask) (size : Nat) : Report :=
  { cls := f.cls, det := f.det, info := f.info, flm := m, rlm := 0#32
    fva := fvaAll m f.fva, async := 0, kind := .replay, repPc := w.pc
    resPc := w.pc + BitVec.ofNat 56 size, ticket := 0, lanes := m, whole := false, popped := w.kept.1, part := w.kept.2 }

/-- A host-wait id of a context is in use: by a host-wait record, or by a copy whose warp is gone (R451, R453). -/
def hwLive (s : State) (asid n : Nat) : Bool :=
  s.warps.any (fun w => w.asid == asid && w.status == .hostWait && w.hwId == n)
    || s.cores.any fun c => c.copies.any (fun j => j.asid == asid && j.orphan == n)
      || c.decs.any fun j => j.asid == asid && j.orphan == n

/-- Records of the device that may hold a host-wait id. -/
def hwCount (s : State) : Nat := s.warps.length + (s.cores.map fun c => c.copies.length + c.decs.length).sum

/-- The next free host-wait id of a context (R452). -/
def nextHw (s : State) (asid : Nat) : Nat :=
  let step := fun n => if n == 2 ^ 32 - 1 then 1 else n + 1
  (List.range (hwCount s + 1)).foldl (fun n _ => if hwLive s asid n then step n else n) (getCtx s asid).hwNo

/-- Take the next host-wait id. -/
def takeHw (s : State) (asid : Nat) : State × Nat :=
  let id := nextHw s asid
  (updCtx s asid fun c => { c with hwNo := if id == 2 ^ 32 - 1 then 1 else id + 1 }, id)

/-- Whom an escalation line names (R452): a warp, or what is left of a retired one. -/
structure Subj where
  asid : Nat
  wnum : Nat
  die : Nat
  deriving DecidableEq, Repr

def Warp.subj (w : Warp) : Subj := ⟨w.asid, w.wnum, w.die⟩

/-- Write an escalation line (R452). A line of which no host-wait record and no released copy comes has no id: its word 0
holds 0 (log 18). -/
def escLine (s : State) (w : Subj) (own : Bool) (reason : Nat) (fc : Word) (flm : Mask) (fva : Word) (pc : Addr)
    (w6 : Val) : State × Nat :=
  let (s, id) := if own then takeHw s w.asid else (s, 0)
  (hwLine s w.die (getCtx s w.asid).escq 2
    [vNat id, ⟨.raw, fc⟩, vRaw flm.toNat, ⟨.int, fva⟩, vCode pc,
     vNat (w.wnum + w.asid * 2 ^ 32 + w.die * 2 ^ 42 + reason * 2 ^ 48), w6], id)

/-- A warp leaves its slot for a host-wait record (R451, R263): it is saved, with the release of R304. -/
def hostHold (s : State) (u id : Nat) (k : HwKind) : State :=
  let s := noteRelease s u 6
  saveWarp (updWarp s u fun w =>
    { w with status := .hostWait, hwId := id, hwKind := k, held := none, joining := false }) u

/-- Escalate the fault of warp `u` with reason 0 or 1: it waits for the host (R451). -/
def escalate (s : State) (u reason : Nat) (fc : Word) (flm : Mask) (fva : List Word) (pc : Addr)
    (inner : Word) : State :=
  match findWarp s u with
  | none => s
  | some w =>
    let (s, id) := escLine s w.subj true reason fc flm (fva.getD (lowLane flm) 0#64) pc
      (if reason == 1 then ⟨.raw, inner⟩ else vZero)
    hostHold s u id (if reason == 1 then .double else .fault)

/-- A fault with no warp that could take it, reason 2 (R165, R451): the line names warp `w`. That of a copy has an id, by which
the host releases it (R453). -/
def escalateGone (s : State) (w : Subj) (r : Report) : State × Nat :=
  escLine (blotFault s w.asid w.wnum r.cls.code) w (r.async == 1) 2 (fcauseOf r) r.flm
    (r.fva.getD (lowLane r.flm) 0#64) r.repPc (if r.async == 1 then vNat r.ticket else vZero)

/-- A double fault (R448): the outer frame's fault goes to the host with the inner FCAUSE. -/
def doubleFault (s : State) (w : Warp) (inner : Word) : State :=
  match w.sframe with
  | some f => escalate s w.uid 1 f.fcause f.flm w.fva f.repPc inner
  | none => escalate s w.uid 1 w.fcause w.flm w.fva w.pc inner

/-- An inner FCAUSE of class instruction, detail 31 (R444, R448). -/
def innerCause (info : Nat) : Word := wordN (3 * 2 ^ 57 + 31 * 2 ^ 49 + info * 2 ^ 32)

/-- The supervisor frame a fault saves (R448). -/
def frameOf_ (w : Warp) (r : Report) : SFrame :=
  { latches := w.latches, s20 := (List.range 4).map fun k => sregVal w (20 + k)
    ha := w.ha, hb := w.hb, em := w.em, repc := w.repc, hnd := w.hnd, depth := w.depth
    repPc := r.repPc, resPc := r.resPc, fcause := fcauseOf r, flm := r.flm, kind := r.kind
    ticket := r.ticket, lanes := r.lanes, whole := r.whole, popped := r.popped, part := r.part, sp := w.sparse }

/-- The warp at the entry of its supervisor handler (R447); its loads have completed (R460). -/
def supEntry (w : Warp) (r : Report) (pc : Addr) : Warp :=
  { w with
    pc := pc, em := r.flm, sup := true
    flm := r.flm, fva := r.fva, fcause := fcauseOf r
    ha := rowOf (vCode r.repPc)
    hb := rowOf (if r.async == 1 then vNat r.ticket else vNil)
    latches := [], outstanding := [], sparse := [], repc := 0, replay := none, held := none, joining := false
    sframe := some (frameOf_ w r) }

/-- The handler's entry is read as the PDT is read (R111, R447): the address, or the inner FCAUSE of a
read that faults and 0 of an entry that is no CODE. -/
def supTarget (s : State) (w : Warp) (code : Nat) : State × (Addr ⊕ Word) :=
  let base := (getCtx s w.asid).svtb.toNat
  if base == 0 then (s, .inr 0#64)
  else match atHand s fun s => loadVal s w.who (base + 8 * code) with
    | .ok s v => (s, if v.tag == .code then .inl (v.pl.setWidth 56) else .inr 0#64)
    | .bad s f => (s, .inr (fcauseOf (wholeReport w f 0#32 0)))
    | .hold _ _ => (s, .inr 0#64)

/-- Taking a fault: the one way into the supervisor handler (R447, R448). -/
def enterSup (s : State) (u : Nat) (r : Report) : State :=
  match findWarp s u with
  | none => s
  | some w =>
    let s := blotFault s w.asid w.wnum r.cls.code
    if w.sup then doubleFault s w (fcauseOf r)
    else
      let (s, t) := supTarget s w r.cls.code
      match t with
      | .inl pc => updWarp s u fun w => supEntry w r pc
      | .inr inner =>
        escalate (updWarp s u fun w =>
          { w with sframe := some (frameOf_ w r), flm := r.flm, fva := r.fva, fcause := fcauseOf r
                   sparse := [], replay := none })
          u 1 (fcauseOf r) r.flm r.fva r.repPc inner

/-- A breakpoint event (R473): the warp becomes a host-wait record and a line goes to the debug queue. What it was
doing, the supervisor frame included, stays as it is; a comparator leaves a replay in hand. -/
def debugEvent (s : State) (u det info : Nat) (r : Report) (k : HwKind) : State :=
  match findWarp s u with
  | none => s
  | some w =>
    let r := { r with cls := .instruction, det := det, info := info }
    let (s, id) := takeHw s w.asid
    let s := hwLine s w.die (getCtx s w.asid).dbgq 3
      [vNat id, ⟨.raw, fcauseOf r⟩, vRaw r.flm.toNat, ⟨.int, r.fva.getD (lowLane r.flm) 0#64⟩,
       vCode r.repPc, vNat (w.wnum + w.asid * 2 ^ 32 + w.die * 2 ^ 42), vZero]
    hostHold (updWarp s u fun w => { w with
      event := some (frameOf_ w r), replay := if det == 25 then w.replay else none, outstanding := []
      pc := if r.kind == .after then r.resPc else w.pc }) u id k

/-- A fault of warp `u`: a race that traps is a breakpoint event where a debugger is attached, at either privilege
(R328, R473); everything else goes to the supervisor handler. -/
def takeFault (s : State) (u : Nat) (r : Report) : State :=
  match findWarp s u with
  | none => s
  | some w =>
    if r.cls == .instruction && r.det == 26 && (getCtx s w.asid).dbg then
      debugEvent s u 26 0 r (.breakpoint true false)
    else enterSup s u r

/-! ### The return (R450) -/

/-- What SRET puts back from the frame. -/
def supRestore (w : Warp) (f : SFrame) : Warp :=
  { w with
    latches := f.latches, outstanding := [], sparse := f.sp
    sreg := (f.s20.zipIdx).foldl (fun l e => setAt l (20 + e.2) e.1) w.sreg
    ha := f.ha, hb := f.hb, repc := f.repc, em := f.em, hnd := f.hnd
    sup := false, sframe := none, held := none }

/-- The lanes SRET replays (R450, R530). -/
def replayLanes (f : SFrame) (keep : Mask) : Mask :=
  let all := f.flm ||| f.fcause.setWidth 32
  if f.whole then (if all &&& keep == all then f.lanes else 0#32) else all &&& keep

/-- The frame of a race fault: its replay is performed unchecked (R328). -/
def raceFrame (f : SFrame) : Bool :=
  bitsAt f.fcause.toNat 57 5 == 3 && bitsAt f.fcause.toNat 49 8 == 26

/-- The warp after SRET, for a frame of kind replay or after (R450). -/
def supReturn (w : Warp) (f : SFrame) (keep : Mask) : Warp :=
  let w := supRestore w f
  match f.kind with
  | .replay =>
    { w with pc := f.repPc, replay := some ⟨replayLanes f keep, f.popped, f.part, raceFrame f, f.resPc⟩ }
  | _ => { w with pc := f.resPc, replay := none }

/-! ### Diversion to lane handlers (R106-R122) -/

/-- A lane that diverts: its operands and the reason. -/
structure DivLane where
  lane : Nat
  a : Val
  b : Val
  rsn : Bool
  off : Nat
  deriving DecidableEq, Repr

/-- The table entry of a diverting lane (R110, R122). -/
def divEntry (c : Ctx) (cls : Nat) (d : DivLane) : Nat × Nat :=
  if 16 ≤ cls then (c.lvtb.toNat, c.lvtb.toNat + 8 * (cls - 16))
  else (c.pdtb.toNat, c.pdtb.toNat + 8 * (cls * 512 + boolNat d.rsn * 256 + d.a.tag.toNat * 16 + d.b.tag.toNat))

/-- Read the entries of the diverting lanes in lane order (R111): the handler of each, or its fault. The race detector does
not check these reads: DESIGN CHOICE (log 15). An entry of a reserved tag is a tag fault, as of LD: DESIGN CHOICE (log 13). -/
def divTargets (s : State) (w : Warp) (cls : Nat) : List DivLane → Res (List (DivLane × (Addr ⊕ LFault)))
  | [] => .ok s []
  | d :: l =>
    let (base, at_) := divEntry (getCtx s w.asid) cls d
    let det := if 16 ≤ cls then 2 else 1
    let one : Res (Addr ⊕ LFault) :=
      if base == 0 then .ok s (.inr (fltAt .typeFault det at_))
      else match loadVal s w.who at_ with
        | .ok s v => .ok s (if v.tag == .code then .inl (v.pl.setWidth 56) else .inr (fltAt .typeFault det at_))
        | .bad s f => .ok s (.inr f)
        | .hold h ln => .hold h ln
    one.bind fun s t => (divTargets s w cls l).map fun r => (d, t) :: r

/-- The groups of R113: handler, reason and lanes, ordered by lowest lane. -/
def divGroups : List (DivLane × Addr) → List (Addr × Bool × Mask) → List (Addr × Bool × Mask)
  | [], g => g
  | (d, a) :: l, g =>
    if g.any fun e => e.1 == a && e.2.1 == d.rsn then
      divGroups l (modifyFirst (fun e => e.1 == a && e.2.1 == d.rsn)
        (fun e => (e.1, e.2.1, e.2.2 ||| laneMask d.lane)) g)
    else divGroups l (g ++ [(a, d.rsn, laneMask d.lane)])

/-- The entry state of a handler (R114). -/
def handlerEntry (w : Warp) (dv : Diverted) (pc : Addr) (m : Mask) (rsn : Bool) : Warp :=
  { w with
    pc := pc, em := m, hopRsn := rsn, hnd := true, latches := [], outstanding := [], repc := 0, replay := none
    held := none, joining := false
    ha := rowMerge m dv.oa w.ha, hb := rowMerge m dv.ob w.hb }

/-- Operands of the diverting lanes as rows. -/
def divRow (p : DivLane → Val) (ds : List DivLane) : Row :=
  rowWith fun i => match ds.find? fun d => d.lane == i with
    | some d => p d
    | none => vNil

/-- Push the frame, the rejoin entry and the pending entries, and enter the first group (R113). `resume`
is where the warp goes on when the handlers have returned, with `repc` repetitions left. -/
def divertTo (s : State) (u cls : Nat) (g : List (Addr × Bool × Mask)) (dv : Diverted)
    (resume : Addr) (repc : Nat) : State :=
  match findWarp s u, g with
  | some w, (pc, rsn, m) :: rest =>
    let f : HFrame := { latches := w.latches, ha := w.ha, hb := w.hb, hopRsn := w.hopRsn
                        hopCls := w.hopCls, hpc := w.hpc, repc := repc, hnd := w.hnd, alarm := false
                        div := some dv }
    let lvl := w.hframes.length + 1
    let s := updWarp s u fun w => { w with hframes := f :: w.hframes, hopCls := cls, hpc := w.pc }
    let s := pushEntry s u ⟨.handler, false, resume, lvl, repc, w.em⟩
    let s := rest.reverse.foldl (fun s e => pushEntry s u ⟨.pending, e.2.1, e.1, lvl, 0, e.2.2⟩) s
    updWarp s u fun w => handlerEntry w dv pc m rsn
  | _, _ => s

/-- The value HRET writes into the destination of the diverting instruction (R117). -/
def hretWrite (w : Warp) (dv : Diverted) (em : Mask) (v : Opd) : Warp × Diverted :=
  let acc := rowMerge em (rowWith v.lane) dv.acc
  match dv.dst with
  | .reg (.v n) =>
    ((maskLanes em).foldl (fun w i =>
      let r := n.toNat + dv.offs.getD i 0
      setV w r (setAt (rowVal w r) i (v.lane i))) w, { dv with acc := acc })
  | .reg (.s n) => (setS w n.toNat (v.lane (lowLane em)), { dv with acc := acc })
  | .reg (.m n) => (setM w n ((v.lane (lowLane em)).pl.setWidth 32), { dv with acc := acc })
  | _ => (w, { dv with acc := if dv.vec then acc else rowOf (v.lane (lowLane em)) })

/-- The latch entry of a diverting instruction when its rejoin entry pops (R74). -/
def divLatch (w : Warp) (dv : Diverted) : Opd :=
  match dv.dst with
  | .reg (.v n) => .vec (rowVal w n.toNat)
  | .reg (.s n) => .sca (sregVal w n.toNat)
  | .reg (.m n) => .sca (vRaw (maskVal w n).toNat)
  | _ => if dv.vec then .vec dv.acc else .sca (rowAt dv.acc 0)

/-- What a handler frame puts back (R117). -/
def frameBack (w : Warp) (f : HFrame) : Warp :=
  { w with latches := f.latches, outstanding := [], ha := f.ha, hb := f.hb, hopRsn := f.hopRsn, hopCls := f.hopCls
           hpc := f.hpc, repc := f.repc, hnd := f.hnd, hframes := w.hframes.drop 1 }

end Sys2Proof.Machine
end

