-- ==== Sys2Proof/Machine/Batch.lean ====
section
/-! DEFINITION. Matrix batches and tile locks (spec/17 R412-R414, R421, R430). A batch is complete once it is
closed and no accepted instruction or follow-on copy of it is left. -/

namespace Sys2Proof.Machine

/-- Batches of warp `u` with work that has not ended: accepted instructions, on whatever core, and copies
with a follow-on (R389, R413). -/
def pendingBatches (s : State) (u : Nat) : List (BitVec 31) :=
  s.cores.flatMap fun c =>
    ((c.mq.filter fun m => m.warp == u).map fun m => m.batch)
    ++ c.copies.filterMap fun j => match j.kind with
      | .cpym _ _ _ _ _ b => if j.warp == u then some b else none
      | _ => none

/-- How far batch `b` lies behind OPEN. -/
def batchAge (w : Warp) (b : BitVec 31) : Nat := (w.opn - b).toNat

/-- DONE (R412): the oldest batch with pending work, or OPEN. -/
def batchDone (w : Warp) (l : List (BitVec 31)) : BitVec 31 :=
  l.foldl (fun d b => if batchAge w d < batchAge w b then b else d) w.opn

/-- Batch `b` is closed and older than DONE. -/
def batchOver (w : Warp) (b : BitVec 31) : Bool := decide (batchAge w w.done < batchAge w b)

/-- A batch that is over and in which an INT32 element left its range sets FPST.AW (R421), in the save area too where the
warp's state lies there. -/
def awBatch (s : State) (u : Nat) : State :=
  match findWarp s u with
  | none => s
  | some w =>
    if w.awDue.any (batchOver w) then
      setFpWord (updWarp s u fun w => { w with awDue := w.awDue.filter fun b => !(batchOver w b) }) u
        fun w => { w with fpst := w.fpst ||| 0x40#7 }
    else s

/-- Bring DONE, HLT, the locks and FPST.AW of a warp up to date (R412, R414, R421, R428). -/
def syncBatch (s : State) (u : Nat) : State :=
  let l := pendingBatches s u
  let halt := s.cores.any fun c => c.mq.any fun m => m.warp == u && m.halted
  let s := updWarp s u fun w => { w with done := batchDone w l, hlt := halt }
  let s := awBatch s u
  match findWarp s u with
  | none => s
  | some w =>
    if s.cores.any fun c => c.locks.any fun k => k.warp == u && batchOver w k.batch then
      { s with cores := s.cores.map fun c => { c with
          locks := c.locks.filter fun k => !(k.warp == u && batchOver w k.batch) } }
    else s

/-- Close the open batch (R413, R426). -/
def closeBatch (s : State) (u : Nat) : State :=
  syncBatch (updWarp s u fun w => { w with opn := w.opn + 1#31 }) u

/-- A queued MMA holds a read lock on a tile of the context (R414). -/
def tileLocked (s : State) (p : Pos) (asid t : Nat) : Bool :=
  (getCore s p).locks.any fun k => k.tile == t && k.asid == asid

/-- A tile of a core as one number, for a warp that waits for it. -/
def tileCode (p : Pos) (t : Nat) : Nat := ((p.die * 16 + p.col) * 16 + p.row) * 32 + t

def tilePos (n : Nat) : Pos := ⟨n / 8192, n / 512 % 16, n / 32 % 16⟩

/-- Close every open batch that locks the tile (R414). -/
def closeLocks (s : State) (asid code : Nat) : State :=
  ((getCore s (tilePos code)).locks.filter fun k => k.tile == code % 32 && k.asid == asid).foldl
    (fun s k => match findWarp s k.warp with
      | some w => if w.opn == k.batch then closeBatch s k.warp else s
      | none => s) s

/-- A core as one number, for an access that waits for its context there. -/
def coreCode (p : Pos) : Nat := tileCode p 0

/-- A core is asked to make a context resident again (R296). -/
def wantCtx (s : State) (p : Pos) (asid : Nat) : State :=
  if (getCore s p).wanted.contains asid then s else updCore s p fun c => { c with wanted := c.wanted ++ [asid] }

/-- What an access that must wait does meanwhile: the snoop that takes a line back (R511), the batches that lock a tile
(R414), the request for a context that is not on the core (R296). -/
def engineHold (s : State) (asid : Nat) (h : Held) (line : Nat) : State :=
  match h with
  | .snoop => sendSnoop s line
  | .tile => closeLocks s asid line
  | .context => wantCtx s (tilePos line) asid
  | _ => s

end Sys2Proof.Machine
end

