-- ==== Sys2Proof/Machine/Operands.lean ====
section
/-! DEFINITION. Operands: guards, channels, sources, addresses and the checks of R85 that every
instruction word goes through (spec/03 R65-R72, R75, R76, R83-R85, spec/14 R347-R350). -/

namespace Sys2Proof.Machine

/-! ### Guards (R75) -/

/-- The effective lane set, or the lanes of a replay, whose guard is not read again (R450). -/
def effLanes (w : Warp) (g : Guard) : Mask :=
  match w.replay with
  | some r => r.lanes
  | none => w.em &&& (maskVal w g.m ^^^ (if g.neg then allLanes else 0#32))

/-- SRET has skipped every lane of the instruction (R450). -/
def skipped (w : Warp) : Bool :=
  match w.replay with
  | some r => r.lanes == 0#32
  | none => false

/-! ### Places (R83, R84) -/

/-- The context holds a core (R84): a rectangle of one of its live launches, or the core it runs on. -/
def coreHeld (s : State) (asid : Nat) (p : Pos) : Bool :=
  s.launches.any fun l => l.asid == asid && match l.rect with
    | some r => match r.org with
      | some (d, c, y) => decide (d ≤ p.die) && decide (p.die < d + r.dies) && decide (c ≤ p.col)
          && decide (p.col < c + r.cols) && decide (y ≤ p.row) && decide (p.row < y + r.rows)
      | none => false
    | none => false

/-- The core a 14-bit place names from `o` (R83, R84). -/
def placeOf (s : State) (asid : Nat) (o : Pos) (x : Nat) : Except LFault Pos :=
  let die := (o.die : Int) + sxInt 4 (bitsAt x 10 4)
  let col := (o.col : Int) + sxInt 5 (bitsAt x 5 5)
  let row := (o.row : Int) + sxInt 5 (bitsAt x 0 5)
  if 0 ≤ die ∧ die < 8 ∧ 0 ≤ col ∧ col < 16 ∧ 0 ≤ row ∧ row < 10 then
    let p : Pos := ⟨die.toNat, col.toNat, row.toNat⟩
    if p == o || coreHeld s asid p then .ok p else .error (flt .place 1)
  else .error (flt .place 0)

/-! ### Channels (R347-R350) -/

def Chan.freed : Chan := ⟨.free, 0, ⟨0, 0, 0⟩, [], false, 0, false, false⟩

def getChan (w : Warp) (n : BitVec 4) : Chan := w.chans.getD n.toNat Chan.freed

def putChan (s : State) (u : Nat) (n : BitVec 4) (c : Chan) : State :=
  updWarp s u fun w => { w with chans := setAt w.chans n.toNat c }

/-- A binding that delivers rows to a source (R347). -/
def chanRows (c : Chan) : Bool := c.kind == .fin || c.kind == .dec

def chanFlt : LFault := flt .instruction 23

def getFifo (s : State) (p : Pos) (asid k : Nat) : Fifo := (coreCtx s p asid).fifos.getD k Fifo.empty

def setFifo (s : State) (p : Pos) (asid k : Nat) (f : Fifo) : State :=
  updCoreCtx s p asid fun c => { c with fifos := setAt c.fifos k f }

/-- The decoder job behind a .dec binding. -/
def findDec (s : State) (p : Pos) (seq : Nat) : Option DecJob :=
  (getCore s p).decs.find? fun j => j.seq == seq

def putDec (s : State) (p : Pos) (j : DecJob) : State :=
  updCore s p fun c => { c with decs := modifyFirst (fun x => x.seq == j.seq) (fun _ => j) c.decs }

/-- The state of a context on a core is at hand: it is live or in the shadow slot. While it streams or lies
in memory, its user waits (R296). A context that has never been on the core finds it there once no other
context is live. -/
def ctxHere (s : State) (p : Pos) (asid : Nat) : Bool :=
  let c := getCore s p
  match c.sts.find? fun x => x.asid == asid with
  | some x => x.place != .memory
  | none => c.live.isNone

/-- A row of up to 32 values, completed with ⟨NIL, 0⟩ (R350). -/
def fillRow (l : List Val) : Row := (l ++ List.replicate (32 - l.length) vNil).take 32

/-- Pop or peek one channel (R69, R347-R350). -/
def chanRead (s : State) (u : Nat) (n : BitVec 4) (pop : Bool) : Res Opd :=
  match findWarp s u with
  | none => .bad s chanFlt
  | some w =>
    let c := getChan w n
    match c.kind with
    | .deq =>
      (match c.buf with
      | v :: l => .ok (if pop then putChan s u n { c with buf := l } else s) (.sca v)
      | [] => match deqStep s (some w) w.who c.desc with
        | .bad s f => .bad s f
        | .hold h ln => .hold h ln
        | .ok s (some l) =>
          .ok (putChan s u n { c with buf := if pop then (l.take 7).drop 1 else l.take 7 })
            (.sca (l.getD 0 vNil))
        | .ok _ none => .hold .channel 0)
    | .fin =>
      let k := c.desc % 4
      let f := getFifo s c.pos w.asid k
      if !ctxHere s c.pos w.asid then .hold .context (coreCode c.pos)
      else match f.rows with
        | r :: l => .ok (if pop then setFifo s c.pos w.asid k { f with rows := l, head := (f.head + 1) % 64 } else s) (.vec r)
        | [] => .hold .channel 0
    | .dec =>
      (match findDec s c.pos c.job with
      | none => .hold .channel 0
      | some j =>
        if 32 ≤ j.buf.length then
          .ok (if pop then putDec s c.pos { j with buf := j.buf.drop 32 } else s) (.vec (j.buf.take 32))
        else if j.err then .bad s (flt .arithmetic 8)
        else if !j.ended || c.fin then .hold .channel 0
        else if j.buf.isEmpty then
          .ok (if pop then putChan s u n { c with fin := true } else s) (.vec nilRow)
        else .ok (if pop then putDec s c.pos { j with buf := [] } else s) (.vec (fillRow j.buf)))
    | _ => .bad s chanFlt

/-- ENQ of a complete line of an .enq binding, TYPE 0 (R348): the ENQ releases. -/
def chanFlush (s : State) (w : Warp) (c : Chan) : Res Bool :=
  let (t, w) := released s w 8
  (enqStep t (some w) w.who c.desc (c.buf ++ List.replicate (7 - c.buf.length) vNil) 0).undo s

/-- A destination channel can take a push, or makes the instruction wait (R69, R118). `vec` tells a
vector result, which .enq refuses (R347). -/
def chanReady (s : State) (w : Warp) (n : BitVec 4) (vec : Bool) : Res Unit :=
  let c := getChan w n
  match c.kind with
  | .enq =>
    if vec then .bad s chanFlt
    else if c.resv then .hold .channel 0
    else if c.buf.length < 6 then .ok s ()
    else if c.buf.length == 6 then
      -- the seventh word makes the line: its ENQ may find the queue full, but must be able to act (R348)
      (match chanFlush s w { c with buf := c.buf ++ [vNil] } with
      | .bad _ f => .bad s f
      | .hold h l => .hold h l
      | .ok _ _ => .ok s ())
    else match chanFlush s w c with
      | .ok s true => .ok (putChan s w.uid n { c with buf := [] }) ()
      | .ok _ false => .hold .channel 0
      | .bad s f => .bad s f
      | .hold h l => .hold h l
  | .fout =>
    let f := getFifo s c.pos w.asid (bitsAt c.desc 16 2)
    if !ctxHere s c.pos w.asid then .hold .context (coreCode c.pos)
    else if c.resv || decide (64 ≤ f.rows.length + f.resv) then .hold .channel 0
    else .ok s ()
  | _ => .bad s chanFlt

/-- Push a result (R347): a scalar into .fout fills the row; the seventh word of .enq makes the line. -/
def chanPush (s : State) (u : Nat) (n : BitVec 4) (o : Opd) : State :=
  match findWarp s u with
  | none => s
  | some w =>
    let c := { getChan w n with resv := false }
    match c.kind with
    | .enq =>
      let c := { c with buf := c.buf ++ [o.lane 0] }
      if c.buf.length < 7 then putChan s u n c
      else match chanFlush (putChan s u n c) w c with
        | .ok s true => putChan s u n { c with buf := [] }
        | _ => putChan s u n c
    | .fout =>
      let k := bitsAt c.desc 16 2
      let f := getFifo s c.pos w.asid k
      setFifo (putChan s u n c) c.pos w.asid k { f with rows := f.rows ++ [rowWith o.lane] }
    | _ => s

/-- The channels of a warp that hold a full line whose ENQ met a full queue. -/
def fullLines (w : Warp) : List (BitVec 4) :=
  ((List.range 16).map (BitVec.ofNat 4)).filter fun n => (getChan w n).kind == .enq && (getChan w n).buf.length == 7

/-- A line that waits in its binding goes as soon as its queue has room (R344, R348). -/
def sendLine (s : State) (u : Nat) (n : BitVec 4) : State :=
  match findWarp s u with
  | none => s
  | some w => match chanFlush s w (getChan w n) with
    | .ok s true => putChan s u n { getChan w n with buf := [] }
    | .hold h l => engineHold s w.asid h l
    | _ => s

/-- All of them. -/
def sendLines (s : State) : State :=
  s.warps.foldl (fun s w => (fullLines w).foldl (fun s n => sendLine s w.uid n) s) s

/-- Reserve the slot of a diverting instruction's push (R118). -/
def chanReserve (s : State) (u : Nat) (n : BitVec 4) : State :=
  match findWarp s u with
  | none => s
  | some w =>
    let c := getChan w n
    let s := putChan s u n { c with resv := true }
    if c.kind == .fout then
      let k := bitsAt c.desc 16 2
      let f := getFifo s c.pos w.asid k
      setFifo s c.pos w.asid k { f with resv := f.resv + 1 }
    else s

/-- Give a reserved slot back. -/
def chanGiveBack (s : State) (u : Nat) (n : BitVec 4) : State :=
  match findWarp s u with
  | none => s
  | some w =>
    let c := getChan w n
    let s := if c.kind == .fout && c.resv then
        let k := bitsAt c.desc 16 2
        let f := getFifo s c.pos w.asid k
        setFifo s c.pos w.asid k { f with resv := f.resv - 1 }
      else s
    putChan s u n { c with resv := false }

/-- The push of a reserved slot (R118). Where the handler has bound the entry anew, the binding that it then has takes the
push, with no check of its room: DESIGN CHOICE (log 34). -/
def chanPushResv (s : State) (u : Nat) (n : BitVec 4) (o : Opd) : State := chanPush (chanGiveBack s u n) u n o

/-! ### Sources -/

/-- The source is a vector operand (R70): a vector register or latch entry, or a channel of rows. -/
def srcVec (w : Warp) : Src → Bool
  | .reg (.v _) => true
  | .latch k => match w.latches[k.toNat]? with
    | some o => o.isVec
    | none => false
  | .chan _ n => chanRows (getChan w n)
  | _ => false

/-- Check 4 of one source (R85): allotment and latch validity. -/
def srcOk (w : Warp) : Src → Bool
  | .reg r => regExists w r
  | .latch k => (w.latches[k.toNat]?).isSome
  | _ => true

/-- Check 4 of a destination: allotment; a tile register is refused outside the matrix engine (R17). -/
def dstOk (w : Warp) : Dst → Bool
  | .reg (.t _) => false
  | .reg r => regExists w r
  | _ => true

/-- The channels used are bound in the right direction (R347), check 5 of R85. -/
def srcChanOk (w : Warp) : Src → Bool
  | .chan _ n =>
    let k := (getChan w n).kind
    k == .deq || k == .fin || k == .dec
  | _ => true

def dstChanOk (w : Warp) (vec : Bool) : Dst → Bool
  | .chan n =>
    let k := (getChan w n).kind
    k == .fout || (k == .enq && !vec)
  | _ => true

/-- Read the sources in field order (R69). `old` holds the channel values of an earlier execution, which
a replay does not pop again (R450). The second list is what the channels gave. -/
def readSrcs (s : State) (w : Warp) : List Src → List Opd → Res (List Opd × List Opd)
  | [], _ => .ok s ([], [])
  | x :: l, old =>
    match x with
    | .chan pop n =>
      (match old with
      | o :: old => (readSrcs s w l old).map fun r => (o :: r.1, o :: r.2)
      | [] => (chanRead s w.uid n pop).bind fun s o =>
        (readSrcs s w l []).map fun r => (o :: r.1, o :: r.2))
    | .reg r => (readSrcs s w l old).map fun q => (readReg w r :: q.1, q.2)
    | .latch k => (readSrcs s w l old).map fun q => ((w.latches[k.toNat]?).getD (.sca vNil) :: q.1, q.2)
    | .lit t v => (readSrcs s w l old).map fun q => (.sca (canonLit t v) :: q.1, q.2)

/-! ### The checks of an instruction word (R85) -/

/-- What every word states about itself before it acts. -/
structure Ins where
  size : Nat
  g : Guard
  priv : Bool := false
  dsts : List Dst := []          -- destination registers, first first (R130)
  pushes : Bool := true          -- it has a destination field (R72)
  srcs : List Src := []
  shape : Option Bool := none    -- some v: vector or not whatever the destination (R206)
  vecOk : Bool := false          -- a scalar instruction that accepts a vector source (R71)
  whole : Bool := false          -- a combining instruction (R530)
  reads : List Reg := []         -- registers it reads beside its source fields, for R202
  bad : Warp → Bool := fun _ => false  -- a form that only the operands' shapes show to be undefined (R166)
  chk : Warp → Bool := fun _ => true  -- further points of check 4: runs, group slots
  pre : Warp → Option LFault := fun _ => none  -- a use refused before any effect (R14, R119)

/-- An instruction that has passed its checks, with its operands. -/
structure Ready where
  w : Warp
  eff : Mask
  vec : Bool
  ops : List Opd
  popped : List Opd
  whole : Bool := false

/-- Bytes of an instruction with these source operands (R61, R68). -/
def srcsSize (l : List Src) : Nat := if l.any Src.isLit then 16 else 8

/-- A word with one destination and these sources. -/
def insOf (g : Guard) (d : Dst) (srcs : List Src) : Ins :=
  { size := srcsSize srcs, g := g, dsts := [d], srcs := srcs }

/-- A word without a destination field. -/
def insNo (g : Guard) (srcs : List Src) : Ins :=
  { size := srcsSize srcs, g := g, pushes := false, srcs := srcs }

/-- Per lane or once (R70). -/
def insVec (w : Warp) (i : Ins) : Bool :=
  match i.shape with
  | some b => b
  | none => match i.dsts with
    | .reg (.v _) :: _ => true
    | .reg (.s _) :: _ | .reg (.m _) :: _ | .reg (.t _) :: _ => false
    | .reg .zr :: _ | .nowb :: _ | .chan _ :: _ => i.srcs.any (srcVec w)
    | [] => i.srcs.any (srcVec w)

/-- Check 4 of R85. -/
def insOk (w : Warp) (i : Ins) (vec : Bool) : Bool :=
  i.srcs.all (srcOk w) && i.dsts.all (dstOk w) && i.chk w && (vec || i.vecOk || !(i.srcs.any (srcVec w)))

/-- A warp that must wait stays at its word, which has not issued, so SUPP still covers it (R474). Nothing else
changes but the snoop it waits for (R511) and the open batches that lock the tile it waits for, which close
(R69, R202, R414). -/
def holdAt (s : State) (u : Nat) (h : Held) (line : Nat) : State :=
  let s := match findWarp s u with
    | some w => engineHold s w.asid h line
    | none => s
  updWarp s u fun w => { w with held := some h, supp := w.supp || (s.suppUsed && s.cur == u) }

/-- A source names what an outstanding load has not delivered (R72, R169). -/
def srcAwaits (p : PendLoad) : Src → Bool
  | .reg r => p.regs.contains r
  | .latch k => p.latch == some k.toNat
  | _ => false

/-- The guard, a source or another register it reads awaits a result. -/
def readAwaits (w : Warp) (i : Ins) (p : PendLoad) : Bool :=
  (w.replay.isNone && p.regs.contains (.m i.g.m))
    || (effLanes w i.g != 0#32 && (i.srcs.any (srcAwaits p) || i.reads.any fun r => p.regs.contains r))

/-- The Operands condition of R202, for loads and sparse instructions. A destination that awaits a sparse result waits too:
its old value goes into the latch entry (R72), and the older result must not come after the newer (log 56). -/
def awaits (w : Warp) (i : Ins) : Bool :=
  (w.outstanding.any (readAwaits w i)) || w.sparse.any fun p => readAwaits w i p.wait
    || i.dsts.any fun d => match d with
      | .reg r => p.wait.regs.contains r
      | _ => false

/-- A fault that concerns the instruction as a whole, for the lanes `m`. -/
def faultAll (s : State) (w : Warp) (f : LFault) (m : Mask) (size : Nat) (whole : Bool := false) : State :=
  takeFault s w.uid { wholeReport w f m size with whole := whole }

/-- A guarded-off instruction (R76). -/
def guardedOff (s : State) (w : Warp) (i : Ins) : State :=
  updWarp s w.uid fun w' =>
    let w' := if i.pushes then
        pushLatch w' (match i.dsts with
          | d :: _ => oldOf w d (insVec w i)
          | [] => .sca vNil)
      else w'
    advance w' i.size

/-- What R202 asks of the operands, then the checks of R85 from check 2 on, in order, then the sources; `k` carries
the instruction out. -/
def issue (s : State) (i : Ins) (k : State → Ready → State) : Host.Outcome State Fault Refusal :=
  match s.issuer with
  | none => .fault .noWarp
  | some w =>
    let eff := effLanes w i.g
    if awaits w i then .next (holdAt s w.uid .operands 0)
    else if i.bad w && !skipped w then .next (faultAll s w (flt .undefinedInstr 0) w.em i.size)
    else if i.priv && !w.sup && !skipped w then .next (faultAll s w (flt .instruction 0) w.em i.size)
    else if eff == 0#32 then .next (guardedOff s w i)
    else
      let vec := insVec w i
      if !insOk w i vec then .next (faultAll s w operandFlt eff i.size i.whole)
      else if !(i.srcs.all (srcChanOk w) && i.dsts.all (dstChanOk w vec)) then
        .next (faultAll s w chanFlt eff i.size i.whole)
      else match i.pre w with
      | some f => .next (faultAll s w f eff i.size i.whole)
      | none =>
        let ready := match i.dsts with
          | .chan n :: _ => chanReady s w n vec
          | _ => .ok s ()
        match ready.bind fun s _ => readSrcs s w i.srcs w.kept.1 with
        | .hold h l => .next (holdAt s w.uid h l)
        | .bad _ f => .next (faultAll s w f eff i.size i.whole)
        | .ok s (ops, popped) => .next (k s ⟨w, eff, vec, ops, popped, i.whole⟩)

/-! ### Runs of registers (R130) -/

/-- Elements of a format in one packed word (R37, R154). -/
def fmtCount : Fmt → Nat
  | .f64 | .i64 | .ts | .raw => 1
  | .f32 | .i32 | .n32 => 2
  | .f16 | .bf16 | .i16 | .n16 => 4
  | .e4m3 | .e5m2 | .e8m0 | .i8 | .n8 => 8

/-- Every register of a run exists (R130). -/
def runOk (w : Warp) (r : Run) (n : Nat) : Bool :=
  match r with
  | .v k => decide (k.toNat + n ≤ w.allot)
  | .s k => decide (k.toNat + n ≤ 64)

/-- The registers of a run as destinations (R130). -/
def runDsts (r : Run) (n : Nat) : List Dst :=
  (List.range n).map fun j => match r with
    | .v k => .reg (.v (k + BitVec.ofNat 8 j))
    | .s k => .reg (.s (k + BitVec.ofNat 6 j))

/-- The registers of a run, for R202. -/
def runRegs (r : Run) (n : Nat) : List Reg :=
  (List.range n).map fun j => match r with
    | .v k => .v (k + BitVec.ofNat 8 j)
    | .s k => .s (k + BitVec.ofNat 6 j)

/-- The first register of a run as a source. -/
def runSrc : Run → Src
  | .v k => .reg (.v k)
  | .s k => .reg (.s k)

/-- Register `j` of a run in a lane. -/
def runLane (w : Warp) (r : Run) (j lane : Nat) : Val :=
  match r with
  | .v k => rowAt (rowVal w (k.toNat + j)) lane
  | .s k => sregVal w (k.toNat + j)

/-! ### Effective addresses (R65, R166) -/

/-- BASE + (IDX << SC) + DISP·s for one lane, modulo 2^64 (R65). -/
def addrOf (b i : Val) (sc : BitVec 2) (disp : BitVec 9) (n : Nat) : Nat :=
  (b.n + i.n * 2 ^ sc.toNat + (disp.toInt * (n : Int) % 2 ^ 64).toNat) % 2 ^ 64

end Sys2Proof.Machine
end

