-- ==== Sys2Proof/Machine/Flags.lean ====
section
/-! DEFINITION. FPCTL, FPST and the vector NaN trap (spec/02 R49-R58). -/

namespace Sys2Proof.Machine

/-- The rounding mode of an instruction field (R48, R49): DYN takes FPCTL.RM; where SR is not accepted,
FPCTL.RM = SR rounds with RNE. -/
def Rnd.ofCode : Nat → Rnd
  | 1 => .rtz | 2 => .rdn | 3 => .rup | 4 => .rna | _ => .rne

/-- The dynamic mode as a rounding, for an instruction that is no conversion (R49). -/
def dynRnd (w : Warp) : Rnd := Rnd.ofCode w.rm.toNat

/-- The mode of an RM field that does not accept SR. -/
def rmRnd (w : Warp) : Rm → Rnd
  | .rne => .rne | .rtz => .rtz | .rdn => .rdn | .rup => .rup | .rna => .rna
  | .sr => .rne | .dyn => dynRnd w

/-- The conversions round stochastically: SR named, or DYN with FPCTL.RM = SR (R49). -/
def rmIsSr (w : Warp) : Rm → Bool
  | .sr => true
  | .dyn => w.rm == 5#3
  | _ => false

/-- E4M3 and E5M2 saturation as FPCTL sets it (R41, R54). -/
def warpSat (w : Warp) : Sat8 := ⟨w.s43, w.s52⟩

/-- OR an instruction's flags into FPST (R56). -/
def orFlags (w : Warp) (f : Flags) : Warp := { w with fpst := w.fpst ||| f }

/-- The NaN trap becomes due (R57, R58): lanes `m` received a NaN from the instruction at `pc`. In the
replay of an instruction whose trap is still due the lanes join those of the first execution. -/
def raiseNan (w : Warp) (m : Mask) (pc : Addr) : Warp :=
  if m == 0#32 || w.sup then w
  else match w.nanDue with
    | some (m0, pc0) =>
      if pc0 == pc then { w with nanDue := some (m0 ||| m, pc) }
      else if w.nt then { w with nt := false, nanDue := some (m, pc) } else w
    | none => if w.nt then { w with nt := false, nanDue := some (m, pc) } else w

end Sys2Proof.Machine
end

