-- ==== Sys2Proof/Machine/Lanes.lean ====
section
/-! DEFINITION. Carrying out an instruction lane by lane and completing it: results, flags, the NaN trap,
faults, diversion, the latch entry (spec/03 R72, spec/04 R106, spec/05 R127-R130, spec/20 R442, R530). -/

namespace Sys2Proof.Machine

/-- What one lane's execution gives: the values of its destination registers, flags, and whether a NaN
result was written (R57); a diversion to the PDT; a lane-vector event; or a fault. -/
inductive LaneRes where
  | ok (vs : List Val) (fl : Flags) (nan : Bool)
  | div (a b : Val) (rsn : Bool)
  | event (a b : Val) (off : Nat)
  | bad (f : LFault)
  deriving DecidableEq, Repr

/-- A plain result. -/
def LaneRes.val (v : Val) : LaneRes := .ok [v] 0#7 false

/-- How an instruction completes. -/
structure Fin where
  cls : Nat := 0             -- op class of a diversion (R96, R122)
  traps : Bool := false      -- it computes or converts a floating-point result (R57)
  whole : Bool := false      -- a combining instruction (R530)
  redo : Bool := false       -- issued again after its lane-vector event (R122, R179)
  acc : Row := nilRow        -- values the diverting instruction keeps for its latch entry

/-- Lanes that hold a result, a fault or a diversion. -/
def okLanes (l : List (Nat × LaneRes)) : Mask :=
  maskWhere fun i => l.any fun p => p.1 == i && match p.2 with
    | .ok _ _ _ => true
    | _ => false

def nanLanes (l : List (Nat × LaneRes)) : Mask :=
  maskWhere fun i => l.any fun p => p.1 == i && match p.2 with
    | .ok _ _ n => n
    | _ => false

def allFlags (l : List (Nat × LaneRes)) : Flags :=
  l.foldl (fun f p => match p.2 with
    | .ok _ g _ => f ||| g
    | _ => f) 0#7

def laneFaults (l : List (Nat × LaneRes)) : List (Nat × LFault) :=
  l.filterMap fun p => match p.2 with
    | .bad f => some (p.1, f)
    | _ => none

def laneDivs (l : List (Nat × LaneRes)) : List DivLane :=
  l.filterMap fun p => match p.2 with
    | .div a b r => some ⟨p.1, a, b, r, 0⟩
    | .event a b o => some ⟨p.1, a, b, false, o⟩
    | _ => none

/-- Value `j` of the lanes that completed, as an operand. -/
def resOpd (l : List (Nat × LaneRes)) (vec : Bool) (j : Nat) : Opd :=
  let at_ := fun i => match l.find? fun p => p.1 == i with
    | some (_, .ok vs _ _) => vs.getD j vNil
    | _ => vNil
  if vec then .vec (rowWith at_)
  else .sca (match l with
    | (i, _) :: _ => at_ i
    | [] => vNil)

/-- Number of values the lanes wrote. -/
def resWidth (l : List (Nat × LaneRes)) : Nat :=
  l.foldl (fun n p => match p.2 with
    | .ok vs _ _ => max n vs.length
    | _ => n) 0

/-- Write the completed lanes into the destination registers (R72, R130). -/
def writeRes (w : Warp) (ds : List Dst) (l : List (Nat × LaneRes)) (vec : Bool) : Warp :=
  if okLanes l == 0#32 then w
  else (ds.zipIdx).foldl (fun w d =>
    if d.2 < resWidth l then writeDst w d.1 (okLanes l) (resOpd l vec d.2) else w) w

/-- The reported fault of several lanes (R442): lowest class code, detail of its lowest lane. -/
def worstFault : List (Nat × LFault) → Option LFault
  | [] => none
  | (_, f) :: l => match worstFault l with
    | some g => if f.cls.code ≤ g.cls.code then some f else some g
    | none => some f

/-- The report of a fault in some lanes (R442, R443, R530). A scalar instruction's one lane is the lowest of its
effective lane set (R97, R127), but an ownership fault reports the whole set (R411). -/
def lanesReport (r : Ready) (size : Nat) (n : Fin) (fs : List (Nat × LFault)) (rest : Mask) (f : LFault) :
    Report :=
  let same := fun (g : LFault) => g.cls == f.cls && g.det == f.det
  let own := !r.vec && f.cls == .ownership
  let flm := if own then r.eff else maskWhere fun i => fs.any fun p => p.1 == i && same p.2
  let rlm := (maskWhere fun i => fs.any fun p => p.1 == i && !(same p.2)) ||| rest
  { cls := f.cls, det := f.det, info := f.info, flm := flm, rlm := rlm
    fva := lanes.map fun i => match fs.find? fun p => p.1 == i && same p.2 with
      | some p => wordN p.2.fva
      | none => if own && r.eff.getLsbD i then wordN f.fva else 0#64
    async := 0, kind := .replay, repPc := r.w.pc, resPc := r.w.pc + BitVec.ofNat 56 size
    ticket := 0, lanes := r.eff, whole := n.whole, popped := r.popped }

/-- The destination is no register: what completed lanes wrote to it, a replay must know (R442). -/
def keepsPart (i : Ins) : Bool :=
  match i.dsts with
  | .chan _ :: _ | .nowb :: _ | .reg .zr :: _ => true
  | _ => false

/-- The completed lanes' values that no register holds, with those of earlier executions (R442; log 54). -/
def partOf (i : Ins) (r : Ready) (l : List (Nat × LaneRes)) : List (Nat × Val) :=
  if r.vec && keepsPart i then
    r.w.kept.2 ++ l.filterMap fun p => match p.2 with
      | .ok (v :: _) _ _ => some (p.1, v)
      | _ => none
  else []

/-- The lanes' results with those that completed before this replay (R442). -/
def withPart (r : Ready) (l : List (Nat × LaneRes)) : List (Nat × LaneRes) :=
  l ++ r.w.kept.2.map fun p => (p.1, LaneRes.val p.2)

/-- Complete an instruction with no fault and no diversion: the latch entry, a channel push, the next
instruction (R72, R347). -/
def complete (s : State) (i : Ins) (r : Ready) (l : List (Nat × LaneRes)) : State :=
  let o := resOpd l r.vec 0
  match i.dsts with
  | d :: _ =>
    let s := match d with
      | .chan n => chanPush s r.w.uid n (latchOf r.w d r.vec (okLanes l) o)
      | _ => s
    updWarp s r.w.uid fun w =>
      advance (if i.pushes then pushLatch w (latchOf r.w d r.vec (okLanes l) o) else w) i.size
  | [] => updWarp s r.w.uid fun w => advance w i.size

/-- Divert the lanes `ds` (R106, R113, R122). `before` is the state with no effect of the instruction, to
which the rejoin-depth fault returns (R198); `s` holds the results of the lanes that completed. The handler's entry of an
instruction that is issued again afterwards names that instruction, with REPC undiminished: DESIGN CHOICE (log 37). -/
def divertLanes (before s : State) (i : Ins) (r : Ready) (n : Fin) (ds : List DivLane)
    (l : List (Nat × LaneRes)) : State :=
  let all := maskWhere fun k => ds.any fun d => d.lane == k
  if r.w.sup then doubleFault s r.w (innerCause (if 16 ≤ n.cls then 2 else 1))
  else match divTargets s r.w n.cls ds with
    | .hold h ln => holdAt before r.w.uid h ln
    | .bad s f => faultAll s r.w f all i.size
    | .ok s ts =>
      let fs := ts.filterMap fun t => match t.2 with
        | .inr f => some (t.1.lane, f)
        | .inl _ => none
      match worstFault fs with
      | some f =>
        takeFault s r.w.uid { wholeReport r.w f all i.size with
          fva := lanes.map fun k => match ts.find? fun t => t.1.lane == k with
            | some t => wordN (divEntry (getCtx s r.w.asid) n.cls t.1).2
            | none => 0#64
          lanes := r.eff, popped := r.popped, part := partOf i r l }
      | none =>
        let g := divGroups (ts.filterMap fun t => match t.2 with
          | .inl a => some (t.1, a)
          | .inr _ => none) []
        if 32 ≤ r.w.hframes.length then
          takeFault s r.w.uid { wholeReport r.w (flt .instruction 2) all i.size with
            lanes := r.eff, popped := r.popped, part := partOf i r l }
        else if !depthOk r.w g.length then
          faultAll before r.w (flt .instruction 3) r.eff i.size
        else
          let d := i.dsts.headD .nowb
          let dv : Diverted :=
            { dst := d, vec := r.vec, pushes := i.pushes
              acc := if r.vec then rowMerge (okLanes l) (rowWith (resOpd l true 0).lane) n.acc
                else rowOf ((resOpd l false 0).lane 0)
              offs := lanes.map fun k => match ds.find? fun x => x.lane == k with
                | some x => x.off
                | none => 0
              pc := r.w.pc, redo := if n.redo then some all else none
              oa := divRow (fun x => x.a) ds, ob := divRow (fun x => x.b) ds, popped := r.popped }
          let after := advance { r.w with replay := none } i.size
          let s := match d with
            | .chan c => chanReserve s r.w.uid c
            | _ => s
          if n.redo then divertTo s r.w.uid n.cls g dv r.w.pc r.w.repc
          else divertTo s r.w.uid n.cls g dv after.pc after.repc

/-- Everything that follows the lanes' execution (R56, R57, R106, R442, R530). -/
def finish (before s : State) (i : Ins) (r : Ready) (n : Fin) (l : List (Nat × LaneRes)) : State :=
  let fs := laneFaults l
  let ds := laneDivs l
  let rest := maskWhere fun k => ds.any fun d => d.lane == k
  match worstFault fs with
  | some f =>
    let s := if n.whole then s
      else updWarp s r.w.uid fun w =>
        raiseNan (orFlags (writeRes w i.dsts l r.vec) (allFlags l))
          (if n.traps then nanLanes l else 0#32) r.w.pc
    takeFault s r.w.uid { lanesReport r i.size n fs rest f with part := partOf i r l }
  | none =>
    let nan := if nanLanes l == 0#32 then 0#32 else if r.vec then nanLanes l else r.eff
    let s := updWarp s r.w.uid fun w =>
      raiseNan (orFlags (writeRes w i.dsts l r.vec) (allFlags l)) (if n.traps then nan else 0#32) r.w.pc
    if ds.isEmpty then complete s i r (withPart r l) else divertLanes before s i r n ds (withPart r l)

/-- A fault of the instruction as a whole after its sources were read (R442, R450). -/
def faultReady (s : State) (r : Ready) (f : LFault) (size : Nat) : State :=
  takeFault s r.w.uid { wholeReport r.w f r.eff size with popped := r.popped, whole := r.whole }

/-- The lanes an instruction executes for: its effective lane set, or the lowest lane of it once (R97, R127). -/
def execLanes (r : Ready) : List Nat := if r.vec then maskLanes r.eff else [lowLane r.eff]

/-- An instruction whose lanes need nothing but their operands. -/
def pureIns (s : State) (i : Ins) (n : Fin) (op : Ready → Nat → LaneRes) :
    Host.Outcome State Fault Refusal :=
  issue s i fun t r => finish s t i r n ((execLanes r).map fun k => (k, op r k))

/-- Lanes in ascending order, each on the state the one before left (R168, R189); a lane that faults leaves no
trace in it (R442). -/
def laneLoop (op : State → Nat → Res LaneRes) : List Nat → State → Res (List (Nat × LaneRes))
  | [], s => .ok s []
  | k :: l, s =>
    match (op s k).undo s with
    | .ok s x => (laneLoop op l s).map fun r => (k, x) :: r
    | .bad s f => (laneLoop op l s).map fun r => (k, .bad f) :: r
    | .hold h ln => .hold h ln

/-- An instruction whose lanes act on memory or on another part of the device in ascending order. -/
def stateIns (s : State) (i : Ins) (n : Fin) (op : Ready → State → Nat → Res LaneRes)
    (after : State → Ready → State := fun s _ => s) : Host.Outcome State Fault Refusal :=
  issue s i fun s' r =>
    match laneLoop (op r) (execLanes r) s' with
    | .ok t l => finish s (after t r) i r n l
    | .bad t f => faultReady t r f i.size
    | .hold h ln => holdAt s r.w.uid h ln

/-- An instruction that acts once for the warp and completes with one result (R161, R207). -/
def onceIns (s : State) (i : Ins) (op : State → Ready → Res (List Val)) :
    Host.Outcome State Fault Refusal :=
  issue s i fun s' r =>
    match op s' r with
    | .ok t vs => finish s t i r {} [(lowLane r.eff, .ok vs 0#7 false)]
    | .bad t f => faultReady t r f i.size
    | .hold h ln => holdAt s r.w.uid h ln

/-- The operand of a source field in a lane. -/
def Ready.val (r : Ready) (j k : Nat) : Val := (r.ops.getD j (.sca vZero)).lane k

end Sys2Proof.Machine
end

