-- ==== Sys2Proof/Machine/Control.lean ====
section
/-! DEFINITION. Branches, calls, returns, EXIT and NOP (spec/06 R160-R165), join counters (spec/08 R226). -/

namespace Sys2Proof.Machine

/-! ### Branches -/

/-- Target of a format-B branch (R66). -/
def branchTarget (w : Warp) (off : BitVec 33) : Addr := w.pc + BitVec.ofInt 56 (8 * off.toInt)

/-- A word that runs once on the scalar unit and has no destination field (R161). -/
def scalarNo (g : Guard) (srcs : List Src) : Ins := { insNo g srcs with shape := some false }

/-- Go to `pc`, or on to the next instruction. -/
def branchIf (taken : Bool) (pc : Addr) (size : Nat) (w : Warp) : Warp :=
  if taken then jumpTo w pc else advance w size

/-- JMP (R162). -/
def execJmp (g : Guard) (off : BitVec 33) (s : State) : Host.Outcome State Fault Refusal :=
  issue s (scalarNo g []) fun s r => updWarp s r.w.uid fun w => jumpTo w (branchTarget r.w off)

/-- BR (R162). -/
def execBr (g : Guard) (n : Bool) (c : Src) (off : BitVec 33) (s : State) : Host.Outcome State Fault Refusal :=
  issue s (scalarNo g [c]) fun s r =>
    let v := r.val 0 0
    if v.tag != .bool then faultReady s r typeFlt 8
    else updWarp s r.w.uid (branchIf ((v.pl == 1#64) != n) (branchTarget r.w off) 8)

/-- The link value (R162). -/
def linkVal (w : Warp) (size : Nat) : Val := vCode (w.pc + BitVec.ofNat 56 size)

/-- CALL (R162): format B pushes no latch entry. -/
def execCall (g : Guard) (l : Dst) (off : BitVec 33) (s : State) : Host.Outcome State Fault Refusal :=
  issue s { scalarNo g [] with dsts := [l] } fun s r =>
    updWarp s r.w.uid fun w =>
      jumpTo (writeDst w l r.eff (.sca (linkVal r.w 8))) (branchTarget r.w off)

/-- CALLR (R162). -/
def execCallr (g : Guard) (l : Dst) (t : Src) (s : State) : Host.Outcome State Fault Refusal :=
  let i := { insOf g l [t] with shape := some false }
  issue s i fun s r =>
    let v := r.val 0 0
    if v.tag != .code then faultReady s r typeFlt i.size
    else
      let k := linkVal r.w i.size
      updWarp s r.w.uid fun w =>
        jumpTo (pushLatch (writeDst w l r.eff (.sca k)) (.sca k)) (v.pl.setWidth 56)

/-- RET (R162). -/
def execRet (g : Guard) (t : Src) (s : State) : Host.Outcome State Fault Refusal :=
  issue s (scalarNo g [t]) fun s r =>
    let v := r.val 0 0
    if v.tag != .code then faultReady s r typeFlt (srcsSize [t])
    else updWarp s r.w.uid fun w => jumpTo w (v.pl.setWidth 56)

/-- LOOPD (R163). -/
def execLoopd (g : Guard) (c : BitVec 6) (off : BitVec 33) (s : State) : Host.Outcome State Fault Refusal :=
  issue s { scalarNo g [] with reads := [.s c] } fun s r =>
    let v := sregVal r.w c.toNat
    if v.tag != .int then faultReady s r typeFlt 8
    else if v.i ≤ 0 then updWarp s r.w.uid fun w => advance w 8
    else updWarp s r.w.uid fun w =>
      branchIf (decide (1 < v.i)) (branchTarget r.w off) 8 (setS w c.toNat (vInt (v.i - 1)))

/-- NOP (R160). -/
def execNop (g : Guard) (s : State) : Host.Outcome State Fault Refusal :=
  issue s (insNo g []) fun s r => updWarp s r.w.uid fun w => advance w 8

/-! ### Join counters (R226) -/

/-- Check a counter's address as an 8-byte store on a tagged page and read its count. A word with a reserved tag is a tag
fault (R14, R334) and not the type fault of a word that is not INT (R164): DESIGN CHOICE (log 55). -/
def counterRead (s : State) (w : Warp) (va lane : Nat) : Res (Tr × Int) :=
  (laneCheck s w .store va 8 .atomic lane).bind fun s t =>
    Res.at (if pteCls t.pte != 0 then .bad s (flt .classFault 0)
      else (physLoadW s w.who 0 t.da).bind fun s p =>
        if 12 < p.1.toNat then .bad s (flt .tagFault 0)
        else if p.1 != 0#4 then .bad s typeFlt
        else .ok s (t, sxInt 64 p.2)) va

/-- Write a counter's new count at its home; a zero releases the records on it (R250). -/
def counterWrite (s : State) (w : Warp) (va : Nat) (t : Tr) (c : Int) : Res Unit :=
  Res.at (physStore s w.who va t.da 8 (wordOf c).toNat (some 0#4)) va

def counterFlt : LFault := flt .arithmetic 5

/-- Take `n` from a counter, which must not fall below zero (R164). -/
def counterSub (s : State) (w : Warp) (va n : Nat) : Res Unit :=
  (counterRead s w va (lowLane w.em)).bind fun s c =>
    if c.2 < (n : Int) then .bad s { counterFlt with fva := va }
    else counterWrite s w va c.1 (c.2 - n)

/-! ### EXIT (R164, R196) -/

/-- An exhausted path: the warp resumes the top entry, when there is one on chip (R196). -/
def resumeTop (s : State) (w : Warp) : Option Warp :=
  match w.stack with
  | e :: _ => some (jumpTo { popEntry s w with em := e.mask } e.pc)
  | [] => none

/-- The warp without the exiting lanes, on the path it continues on; no path is left when EM is zero. -/
def leaveLanes (s : State) (w : Warp) (m : Mask) (size : Nat) : Warp :=
  let w := { w with em := w.em &&& ~~~m, exited := w.exited ||| m
                    stack := w.stack.filterMap (stripEntry m) }
  let w := (refillWarp s w).1
  if w.em != 0#32 then advance w size
  else (resumeTop s w).getD (advance w size)

/-- The exiting lanes of a packed warp decrement their class's counter first, each with a release (R164 step 2, R310). -/
def exitCount (s : State) (w : Warp) (m : Mask) : Res Unit :=
  if w.packed then
    let n := (maskLanes m).length
    let t := noteReleases s w.uid 6 n
    (counterSub t ((findWarp t w.uid).getD w) w.jca n).undo s
  else .ok s ()

/-- EXIT (R164, R119). -/
def execExit (g : Guard) (s : State) : Host.Outcome State Fault Refusal :=
  issue s { scalarNo g [] with pre := fun w => if w.hnd then some (flt .instruction 28) else none }
    fun s' r =>
      match exitCount s' r.w r.eff with
      | .ok t _ => updWarp t r.w.uid fun w => leaveLanes t w r.eff 8
      | .bad t f => faultReady t r f 8
      | .hold h l => holdAt s r.w.uid h l

end Sys2Proof.Machine
end

