-- ==== Sys2Proof/Machine/FMath.lean ====
section
/-! DEFINITION. The special functions (spec/05 R149-R151): the exact value at the input to far more bits
than any result has, so that one rounding of it is the correct rounding. Fixed point on naturals; a value
that does not end carries a last bit 1. -/

namespace Sys2Proof.Machine

/-- Bits after the point of the fixed-point work. -/
def fixP : Nat := 320

/-- Sum of `(-1)^j z^(2j+1) / (2j+1)` from term `j` (alternating) or without the signs, all in units of
2^-P: `pw` is z^(2j+1) and `z2` is z^2. -/
def atanGo (alt : Bool) (p z2 : Nat) : Nat → Nat → Nat → Int → Int
  | 0, _, _, acc => acc
  | k + 1, j, pw, acc =>
    if pw == 0 then acc
    else
      let t : Int := ((pw / (2 * j + 1) : Nat) : Int)
      atanGo alt p z2 k (j + 1) ((pw * z2) >>> p) (if alt && j % 2 == 1 then acc - t else acc + t)

/-- arctan(1/n) in units of 2^-P. -/
def atanInv (p n : Nat) : Int :=
  atanGo true p (2 ^ p / (n * n)) p 0 (2 ^ p / n) 0

/-- pi in units of 2^-P, by Machin's formula. -/
def piFix (p : Nat) : Nat :=
  let g := p + 32
  (16 * atanInv g 5 - 4 * atanInv g 239).toNat >>> 32

/-- ln of a number in [1, 2) given in units of 2^-P: 2 atanh((y-1)/(y+1)). -/
def lnFix (p y : Nat) : Nat :=
  let one := 2 ^ p
  let z := ((y - one) <<< p) / (y + one)
  (2 * atanGo false p ((z * z) >>> p) p 0 z 0).toNat

/-- ln 2 in units of 2^-P: 2 atanh(1/3). -/
def ln2Fix (p : Nat) : Nat :=
  (2 * atanGo false p (2 ^ p / 9) p 0 (2 ^ p / 3) 0).toNat

/-- The tail of exp from term `j`, with term t = x^j / j!. -/
def expGo (p x : Nat) : Nat → Nat → Nat → Nat → Nat
  | 0, _, _, acc => acc
  | k + 1, j, t, acc => if t == 0 then acc else expGo p x k (j + 1) ((t * x) >>> p / (j + 1)) (acc + t)

/-- exp(x) for 0 <= x < 1 in units of 2^-P. -/
def expFix (p x : Nat) : Nat := expGo p x p 0 (2 ^ p) 0

/-- Alternating Taylor sum of sine or cosine: term t has degree j; x2 = x^2. -/
def trigGo (p x2 : Nat) : Nat → Nat → Nat → Bool → Int → Int
  | 0, _, _, _, acc => acc
  | k + 1, j, t, neg, acc =>
    if t == 0 then acc
    else trigGo p x2 k (j + 2) (((t * x2) >>> p) / ((j + 1) * (j + 2))) (!neg)
      (if neg then acc - (t : Int) else acc + (t : Int))

/-- sin and cos of x in units of 2^-P, 0 <= x < 2. -/
def sinFix (p x : Nat) : Int := trigGo p ((x * x) >>> p) p 1 x false 0
def cosFix (p x : Nat) : Int := trigGo p ((x * x) >>> p) p 0 (2 ^ p) false 0

/-- A fixed-point value as a number that does not end: its last bit is 1. -/
def inexactFp (neg : Bool) (v p : Nat) : Fp := .num neg (2 * v + 1) (-(p : Int) - 1)

/-- A value just above (or just below) the exact number m * 2^e, closer than any rounding can tell. -/
def nudge (neg up : Bool) (m : Nat) (e : Int) : Fp :=
  if up then .num neg (m * 2 ^ 80 + 1) (e - 80) else .num neg (m * 2 ^ 80 - 1) (e - 80)

/-- The power of two that a mantissa is, if it is one. -/
def pow2Of (m : Nat) : Option Nat := if m == 2 ^ Nat.log2 m then some (Nat.log2 m) else none

/-- log2 (R149-R151). -/
def fpLog2 (x : Fp) : Fp × Flags :=
  match x with
  | .nan => (.nan, 0#7)
  | .inf neg => if neg then (.nan, fNV) else (.inf false, 0#7)
  | .num neg m e =>
    if m == 0 then (.inf true, fDZ)
    else if neg then (.nan, fNV)
    else
      match pow2Of m with
      | some k => (Fp.ofInt ((k : Int) + e), 0#7)
      | none =>
        let l := Nat.log2 m
        let y := (m <<< fixP) >>> l
        let frac : Int := (((lnFix fixP y) <<< fixP) / ln2Fix fixP : Nat)
        let v : Int := ((l : Int) + e) * (2 ^ fixP : Nat) + frac
        if v < 0 then (inexactFp true (-v).toNat fixP, 0#7) else (inexactFp false v.toNat fixP, 0#7)

/-- 2^a (R149-R151). Beyond 2^20 in magnitude the result overflows or underflows in every format. -/
def fpExp2 (x : Fp) : Fp × Flags :=
  match x with
  | .nan => (.nan, 0#7)
  | .inf neg => if neg then (.num false 0 0, 0#7) else (.inf false, 0#7)
  | .num neg m e =>
    if m == 0 then (.num false 1 0, 0#7)
    else
      let top : Int := (Nat.log2 m : Int) + e
      if 20 ≤ top then (.num false 3 (if neg then -(2 ^ 20 : Int) else 2 ^ 20), 0#7)
      else if top < -70 then (nudge false (!neg) 1 0, 0#7)
      else if 0 ≤ e then
        (.num false 1 (Fp.sgn neg (m <<< e.toNat)), 0#7)
      else
        let d := (-e).toNat
        let i := Fp.sgn neg m
        let n := i / ((2 ^ d : Nat) : Int)
        let f := (i % ((2 ^ d : Nat) : Int)).toNat
        if f == 0 then (.num false 1 n, 0#7)
        else
          let fx := (f <<< fixP) >>> d
          let v := expFix fixP ((fx * ln2Fix fixP) >>> fixP)
          (.num false (2 * v + 1) (n - (fixP : Int) - 1), 0#7)

/-- 1 / a (R149-R151). -/
def fpRcp (x : Fp) : Fp × Flags := Fp.div (.num false 1 0) x

/-- 1 / sqrt a (R149-R151). -/
def fpRsq (x : Fp) : Fp × Flags :=
  match x with
  | .nan => (.nan, 0#7)
  | .inf neg => if neg then (.nan, fNV) else (.num false 0 0, 0#7)
  | .num neg m e =>
    if m == 0 then (.inf neg, fDZ)
    else if neg then (.nan, fNV)
    else
      let (m, e) := if e % 2 == 0 then (m, e) else (2 * m, e - 1)
      let k := 80 + bitLen m
      let t := isqrt (2 ^ (2 * k) / m)
      let s := if t * t * m == 2 ^ (2 * k) then 0 else 1
      (.num false (2 * t + s) (-(k : Int) - e / 2 - 1), 0#7)

/-- The quadrant (modulo 4) and the remainder in [0, pi/2), in units of 2^-P, of m * 2^e radians. -/
def trigReduce (m : Nat) (e : Int) : Nat × Nat :=
  let big := if 0 ≤ e then e.toNat + bitLen m else bitLen m
  let p := fixP + big
  let half := piFix (p + 1) / 4
  let x := if 0 ≤ e then m <<< (e.toNat + p) else (m <<< p) >>> (-e).toNat
  ((x / half) % 4, (x % half) >>> big)

/-- Sine (cosine with `c`) of a positive number m * 2^e; `neg` for the sign of the argument. -/
def fpTrig (c neg : Bool) (m : Nat) (e : Int) : Fp :=
  let top : Int := (Nat.log2 m : Int) + e
  if top < -40 then
    if c then nudge false false 1 0 else nudge neg false m e
  else
    let (q, r) := trigReduce m e
    let q := if c then q + 1 else q
    let v := if q % 2 == 0 then sinFix fixP r else cosFix fixP r
    let flip := (q % 4) / 2 == 1
    inexactFp (if c then flip else flip != neg) v.toNat fixP

/-- sin (R149-R151). -/
def fpSin (x : Fp) : Fp × Flags :=
  match x with
  | .nan => (.nan, 0#7)
  | .inf _ => (.nan, fNV)
  | .num neg m e => if m == 0 then (.num neg 0 0, 0#7) else (fpTrig false neg m e, 0#7)

/-- cos (R149-R151). -/
def fpCos (x : Fp) : Fp × Flags :=
  match x with
  | .nan => (.nan, 0#7)
  | .inf _ => (.nan, fNV)
  | .num neg m e => if m == 0 then (.num false 1 0, 0#7) else (fpTrig true neg m e, 0#7)

end Sys2Proof.Machine
end

