-- ==== Sys2Proof/Machine/Generic.lean ====
section
/-! DEFINITION. Generic operations and tag instructions (spec/04 R96-R126). -/

namespace Sys2Proof.Machine

/-! ### Shared arithmetic -/

/-- A floating-point result of one precision, rounded once (R99, R145), with flags gathered before. -/
def fpRes (dbl : Bool) (r : Rnd) (x : Fp × Flags) (pre : Flags) : LaneRes :=
  let fm : FpFmt := if dbl then .f64 else .f32
  let (b, f) := fm.round noSat r x.1
  .ok [⟨if dbl then .f64 else .f32, wordN b⟩] (f ||| x.2 ||| pre) (fm.isNan b)

/-- An operand of class D (R99): F32 widened exactly, INT converted with RNE. -/
def asF64 (v : Val) : Fp × Flags :=
  match v.tag with
  | .int => let (b, f) := FpFmt.f64.round noSat .rne (Fp.ofInt v.i); (FpFmt.f64.decode b, f)
  | .f32 => (FpFmt.f32.decode v.n, 0#7)
  | _ => (FpFmt.f64.decode v.n, 0#7)

/-- Divert with the operands as read (R106, R114). -/
def genDiv (a b : Val) (rsn : Bool) : LaneRes := .div a b rsn

/-- An exact integer result, or OVF (R99). -/
def intRes (t : Tag) (i : Int) (a b : Val) : LaneRes :=
  if -(2 ^ 63) ≤ i ∧ i < 2 ^ 63 then .val ⟨t, wordOf i⟩ else genDiv a b true

/-- Classes S and D of a binary arithmetic operation (R98-R101). -/
def numRes (w : Warp) (a b : Val) (f : Fp → Fp → Fp × Flags) : LaneRes :=
  if a.tag == .f32 && b.tag == .f32 then
    fpRes false (dynRnd w) (f (FpFmt.f32.decode a.n) (FpFmt.f32.decode b.n)) 0#7
  else
    let (x, fx) := asF64 a
    let (y, fy) := asF64 b
    fpRes true (dynRnd w) (f x y) (fx ||| fy)

def bothNum (a b : Val) : Bool := isNumTag a.tag && isNumTag b.tag
def bothInt (a b : Val) : Bool := a.tag == .int && b.tag == .int

def genAdd (w : Warp) (a b : Val) : LaneRes :=
  if bothInt a b then intRes .int (a.i + b.i) a b
  else if bothNum a b then numRes w a b (Fp.add (dynRnd w))
  else if (a.tag == .ts && b.tag == .int) || (a.tag == .int && b.tag == .ts) then
    intRes .ts (a.i + b.i) a b
  else genDiv a b false

def genSub (w : Warp) (a b : Val) : LaneRes :=
  if bothInt a b then intRes .int (a.i - b.i) a b
  else if bothNum a b then numRes w a b fun x y => Fp.add (dynRnd w) x y.negate
  else if a.tag == .ts && b.tag == .int then intRes .ts (a.i - b.i) a b
  else if a.tag == .ts && b.tag == .ts then intRes .int (a.i - b.i) a b
  else genDiv a b false

def genMul (w : Warp) (a b : Val) : LaneRes :=
  if bothInt a b then intRes .int (a.i * b.i) a b
  else if bothNum a b then numRes w a b Fp.mul
  else genDiv a b false

def genDivide (w : Warp) (a b : Val) : LaneRes :=
  if bothInt a b && b.i == 0 then genDiv a b true
  else if bothNum a b then numRes w a b Fp.div
  else genDiv a b false

/-- Two finite values as integers at one exponent. -/
def alignInts (x y : Fp) : Int × Int × Int :=
  match x, y with
  | .num a m e, .num b n f =>
    let lo := if e ≤ f then e else f
    (Fp.sgn a (m <<< (e - lo).toNat), Fp.sgn b (n <<< (f - lo).toNat), lo)
  | _, _ => (0, 1, 0)

/-- IDIV of class D before its rounding (R101). -/
def fpFloorDiv (x y : Fp) : Fp × Flags :=
  match x, y with
  | .nan, _ | _, .nan => (.nan, 0#7)
  | .inf _, .inf _ => (.nan, fNV)
  | .inf a, .num b _ _ => (.inf (a != b), 0#7)
  | .num a m _, .inf b =>
    if m == 0 || a == b then (.num (a != b) 0 0, 0#7) else (.num true 1 0, 0#7)
  | .num a m e, .num b n f =>
    if n == 0 then (if m == 0 then (.nan, fNV) else (.inf (a != b), fDZ))
    else
      let (i, j, _) := alignInts (.num a m e) (.num b n f)
      (Fp.ofSigned (a != b) (Int.fdiv i j) 0, 0#7)

/-- MOD of class D before its rounding (R101). -/
def fpFloorMod (x y : Fp) : Fp × Flags :=
  match x, y with
  | .nan, _ | _, .nan => (.nan, 0#7)
  | .inf _, _ => (.nan, fNV)
  | .num a m e, .inf b => if m == 0 || a == b then (.num a m e, 0#7) else (.inf b, 0#7)
  | .num a m e, .num b n f =>
    if n == 0 then (.nan, fNV)
    else
      let (i, j, lo) := alignInts (.num a m e) (.num b n f)
      (Fp.ofSigned b (i - j * Int.fdiv i j) lo, 0#7)

/-- IDIV and MOD are class D for every pair that is not INT, INT (R98). -/
def numResD (w : Warp) (a b : Val) (f : Fp → Fp → Fp × Flags) : LaneRes :=
  let (x, fx) := asF64 a
  let (y, fy) := asF64 b
  fpRes true (dynRnd w) (f x y) (fx ||| fy)

def genIdiv (w : Warp) (a b : Val) : LaneRes :=
  if bothInt a b then
    (if b.i == 0 then genDiv a b true else intRes .int (Int.fdiv a.i b.i) a b)
  else if bothNum a b then numResD w a b fpFloorDiv
  else genDiv a b false

def genMod (w : Warp) (a b : Val) : LaneRes :=
  if bothInt a b then
    (if b.i == 0 then genDiv a b true else intRes .int (a.i - b.i * Int.fdiv a.i b.i) a b)
  else if bothNum a b then numResD w a b fpFloorMod
  else genDiv a b false

/-- The canonical NaN of a floating tag (R39). -/
def canonNan (t : Tag) : Val :=
  if t == .f64 then vF64 FpFmt.f64.nanBits else vF32 FpFmt.f32.nanBits

/-- The sign bit's weight in a value of a floating tag. -/
def signWt (t : Tag) : Nat := if t == .f64 then 2 ^ 63 else 2 ^ 31

/-- NEG and ABS of a floating value (R102, R146). -/
def fpSign (neg : Bool) (v : Val) : LaneRes :=
  if v.isNan then .ok [canonNan v.tag] 0#7 true
  else
    let m := v.n % signWt v.tag
    .val ⟨v.tag, wordN (if neg && m == v.n then m + signWt v.tag else m)⟩

def genNeg (_ : Warp) (a : Val) : LaneRes :=
  match a.tag with
  | .int => intRes .int (-a.i) a vNil
  | .f32 | .f64 => fpSign true a
  | _ => genDiv a vNil false

def genAbs (_ : Warp) (a : Val) : LaneRes :=
  match a.tag with
  | .int => intRes .int (if a.i < 0 then -a.i else a.i) a vNil
  | .f32 | .f64 => fpSign false a
  | _ => genDiv a vNil false

/-- MIN and MAX (R104). -/
def genMinMax (mx : Bool) (a b : Val) : LaneRes :=
  if bothNum a b then
    if a.isNan || b.isNan then
      .ok [canonNan (if (a.tag == .f64 && a.isNan) || (b.tag == .f64 && b.isNan) then .f64 else .f32)] 0#7 true
    else
      let pickB := if mx then Fp.below (numOf a) (numOf b) else Fp.below (numOf b) (numOf a)
      .val (if pickB then b else a)
  else if a.tag == .ts && b.tag == .ts then
    .val (if (if mx then decide (a.i < b.i) else decide (b.i < a.i)) then b else a)
  else genDiv a b false

/-- CEQ of a pair, when hardware completes it (R98, R103). -/
def eqPair (a b : Val) : Option Bool :=
  if bothNum a b then some (Fp.cmp (numOf a) (numOf b) == some .eq)
  else if a.tag == b.tag then
    match a.tag with
    | .ts | .sym | .ref | .bool | .nil | .code => some (a.pl == b.pl)
    | _ => none
  else some false

def genEq (ne : Bool) (a b : Val) : LaneRes :=
  match eqPair a b with
  | some e => .val (vBool (e != ne))
  | none => genDiv a b false

/-- CLT, or CLE when `le` (R103). -/
def genLess (le : Bool) (a b : Val) : LaneRes :=
  if bothNum a b then
    .val (vBool (match Fp.cmp (numOf a) (numOf b) with
      | some .lt => true
      | some .eq => le
      | _ => false))
  else if a.tag == .ts && b.tag == .ts then .val (vBool (if le then decide (a.i ≤ b.i) else decide (a.i < b.i)))
  else genDiv a b false

/-! ### The instructions -/

/-- A generic instruction of two sources (R106). -/
def genBin (cls : Nat) (traps : Bool) (g : Guard) (d : Dst) (a b : Src) (s : State)
    (op : Warp → Val → Val → LaneRes) : Host.Outcome State Fault Refusal :=
  pureIns s (insOf g d [a, b]) { cls := cls, traps := traps } fun r k => op r.w (r.val 0 k) (r.val 1 k)

/-- A generic instruction of one source. -/
def genUn (cls : Nat) (traps : Bool) (g : Guard) (d : Dst) (a : Src) (s : State)
    (op : Warp → Val → LaneRes) : Host.Outcome State Fault Refusal :=
  pureIns s (insOf g d [a]) { cls := cls, traps := traps } fun r k => op r.w (r.val 0 k)

/-- ADD (R99). -/
def execAdd (g : Guard) (d : Dst) (a b : Src) (s : State) : Host.Outcome State Fault Refusal :=
  genBin 1 true g d a b s genAdd

/-- SUB (R99). -/
def execSub (g : Guard) (d : Dst) (a b : Src) (s : State) : Host.Outcome State Fault Refusal :=
  genBin 2 true g d a b s genSub

/-- MUL (R99). -/
def execMul (g : Guard) (d : Dst) (a b : Src) (s : State) : Host.Outcome State Fault Refusal :=
  genBin 3 true g d a b s genMul

/-- DIV (R100). -/
def execDiv (g : Guard) (d : Dst) (a b : Src) (s : State) : Host.Outcome State Fault Refusal :=
  genBin 4 true g d a b s genDivide

/-- IDIV (R101). -/
def execIdiv (g : Guard) (d : Dst) (a b : Src) (s : State) : Host.Outcome State Fault Refusal :=
  genBin 5 true g d a b s genIdiv

/-- MOD (R101). -/
def execMod (g : Guard) (d : Dst) (a b : Src) (s : State) : Host.Outcome State Fault Refusal :=
  genBin 6 true g d a b s genMod

/-- NEG (R102). -/
def execNeg (g : Guard) (d : Dst) (a : Src) (s : State) : Host.Outcome State Fault Refusal :=
  genUn 7 true g d a s genNeg

/-- ABS (R102). -/
def execAbs (g : Guard) (d : Dst) (a : Src) (s : State) : Host.Outcome State Fault Refusal :=
  genUn 8 true g d a s genAbs

/-- MIN (R104). -/
def execMin (g : Guard) (d : Dst) (a b : Src) (s : State) : Host.Outcome State Fault Refusal :=
  genBin 9 true g d a b s fun _ => genMinMax false

/-- MAX (R104). -/
def execMax (g : Guard) (d : Dst) (a b : Src) (s : State) : Host.Outcome State Fault Refusal :=
  genBin 10 true g d a b s fun _ => genMinMax true

/-- CEQ (R103). -/
def execCeq (g : Guard) (d : Dst) (a b : Src) (s : State) : Host.Outcome State Fault Refusal :=
  genBin 11 false g d a b s fun _ => genEq false

/-- CNE (R103). -/
def execCne (g : Guard) (d : Dst) (a b : Src) (s : State) : Host.Outcome State Fault Refusal :=
  genBin 12 false g d a b s fun _ => genEq true

/-- CLT (R103). -/
def execClt (g : Guard) (d : Dst) (a b : Src) (s : State) : Host.Outcome State Fault Refusal :=
  genBin 13 false g d a b s fun _ => genLess false

/-- CLE (R103). -/
def execCle (g : Guard) (d : Dst) (a b : Src) (s : State) : Host.Outcome State Fault Refusal :=
  genBin 14 false g d a b s fun _ => genLess true

/-- TRUTH (R105). -/
def execTruth (g : Guard) (d : Dst) (a : Src) (s : State) : Host.Outcome State Fault Refusal :=
  genUn 15 false g d a s fun _ v => .val (vBool (truthOf v))

/-- TAGOF (R123). -/
def execTagof (g : Guard) (d : Dst) (a : Src) (s : State) : Host.Outcome State Fault Refusal :=
  genUn 0 false g d a s fun _ v => .val (vNat v.tag.toNat)

/-- A value under a new tag (R13, R124). -/
def retag (t : Tag) (v : Val) : LaneRes :=
  match canon t v.pl with
  | some x => .val x
  | none => .bad (flt .tagFault 1)

/-- TAGSET with the tag in MOD (R14, R124). -/
def execTagset (g : Guard) (t : BitVec 4) (d : Dst) (a : Src) (s : State) :
    Host.Outcome State Fault Refusal :=
  pureIns s { insOf g d [a] with
      pre := fun _ => if (Tag.ofNat? t.toNat).isSome then none else some (flt .instruction 0) } {}
    fun r k => match Tag.ofNat? t.toNat with
      | some t => retag t (r.val 0 k)
      | none => .bad (flt .instruction 0)

/-- TAGSET.dyn (R124). -/
def execTagsetDyn (g : Guard) (d : Dst) (a b : Src) (s : State) : Host.Outcome State Fault Refusal :=
  genBin 0 false g d a b s fun _ x t =>
    if t.tag != .int || decide (15 < t.n) then .bad typeFlt
    else match Tag.ofNat? t.n with
      | some t => retag t x
      | none => .bad (flt .instruction 0)

/-- TAGIS (R125). -/
def execTagis (g : Guard) (d : Dst) (a b : Src) (s : State) : Host.Outcome State Fault Refusal :=
  genBin 0 false g d a b s fun _ x t =>
    if t.tag != .int then .bad typeFlt else .val (vBool (bitAt t.n x.tag.toNat))

/-- MOV (R126). -/
def execMov (g : Guard) (d : Dst) (a : Src) (s : State) : Host.Outcome State Fault Refusal :=
  genUn 0 false g d a s fun _ v => .val v

end Sys2Proof.Machine
end

