-- ==== Sys2Proof/Machine/FloatOps.lean ====
section
/-! DEFINITION. Floating-point instructions and special functions (spec/05 R143-R151). -/

namespace Sys2Proof.Machine

/-- A source of precision P is accepted (R144). -/
def fpTagOk (dbl : Bool) (t : Tag) : Bool := t == .f32 || (dbl && t == .f64)

/-- The exact value of an accepted source. -/
def fpArg (v : Val) : Fp := if v.tag == .f64 then FpFmt.f64.decode v.n else FpFmt.f32.decode v.n

/-- A source as a value of the precision: F32 widened in a .d instance (R144, R146). -/
def fpWiden (dbl : Bool) (v : Val) : Val :=
  if dbl && v.tag == .f32 then vF64 (widen32 v.n) else v

/-- An instruction of one floating source. -/
def fpUn (g : Guard) (dbl : Bool) (d : Dst) (a : Src) (s : State) (op : Warp → Val → LaneRes) :
    Host.Outcome State Fault Refusal :=
  pureIns s (insOf g d [a]) { traps := true } fun r k =>
    if fpTagOk dbl (r.val 0 k).tag then op r.w (r.val 0 k) else .bad typeFlt

/-- An instruction of two floating sources. -/
def fpBin (g : Guard) (dbl : Bool) (d : Dst) (a b : Src) (s : State) (op : Warp → Val → Val → LaneRes) :
    Host.Outcome State Fault Refusal :=
  pureIns s (insOf g d [a, b]) { traps := true } fun r k =>
    if fpTagOk dbl (r.val 0 k).tag && fpTagOk dbl (r.val 1 k).tag then op r.w (r.val 0 k) (r.val 1 k)
    else .bad typeFlt

/-- FADD (R145). -/
def execFadd (g : Guard) (dbl : Bool) (rm : Rm) (d : Dst) (a b : Src) (s : State) :
    Host.Outcome State Fault Refusal :=
  fpBin g dbl d a b s fun w x y => fpRes dbl (rmRnd w rm) (Fp.add (rmRnd w rm) (fpArg x) (fpArg y)) 0#7

/-- FSUB (R145). -/
def execFsub (g : Guard) (dbl : Bool) (rm : Rm) (d : Dst) (a b : Src) (s : State) :
    Host.Outcome State Fault Refusal :=
  fpBin g dbl d a b s fun w x y =>
    fpRes dbl (rmRnd w rm) (Fp.add (rmRnd w rm) (fpArg x) (fpArg y).negate) 0#7

/-- FMUL (R145). -/
def execFmul (g : Guard) (dbl : Bool) (rm : Rm) (d : Dst) (a b : Src) (s : State) :
    Host.Outcome State Fault Refusal :=
  fpBin g dbl d a b s fun w x y => fpRes dbl (rmRnd w rm) (Fp.mul (fpArg x) (fpArg y)) 0#7

/-- FFMA (R145). -/
def execFfma (g : Guard) (dbl : Bool) (rm : Rm) (d : Dst) (a b c : Src) (s : State) :
    Host.Outcome State Fault Refusal :=
  pureIns s (insOf g d [a, b, c]) { traps := true } fun r k =>
    let x := r.val 0 k
    let y := r.val 1 k
    let z := r.val 2 k
    if fpTagOk dbl x.tag && fpTagOk dbl y.tag && fpTagOk dbl z.tag then
      fpRes dbl (rmRnd r.w rm) (Fp.fma (rmRnd r.w rm) (fpArg x) (fpArg y) (fpArg z)) 0#7
    else .bad typeFlt

/-- FDIV (R145). -/
def execFdiv (g : Guard) (dbl : Bool) (rm : Rm) (d : Dst) (a b : Src) (s : State) :
    Host.Outcome State Fault Refusal :=
  fpBin g dbl d a b s fun w x y => fpRes dbl (rmRnd w rm) (Fp.div (fpArg x) (fpArg y)) 0#7

/-- FSQRT (R145). -/
def execFsqrt (g : Guard) (dbl : Bool) (rm : Rm) (d : Dst) (a : Src) (s : State) :
    Host.Outcome State Fault Refusal :=
  fpUn g dbl d a s fun w x => fpRes dbl (rmRnd w rm) (Fp.sqrt (fpArg x)) 0#7

/-- FMIN and FMAX (R146). -/
def fpMinMax (mx dbl : Bool) (x y : Val) : LaneRes :=
  let x := fpWiden dbl x
  let y := fpWiden dbl y
  if x.isNan || y.isNan then .ok [canonNan (if dbl then .f64 else .f32)] 0#7 true
  else
    let pickY := if mx then Fp.below (fpArg x) (fpArg y) else Fp.below (fpArg y) (fpArg x)
    .val (if pickY then y else x)

/-- FMIN (R146). -/
def execFmin (g : Guard) (dbl : Bool) (d : Dst) (a b : Src) (s : State) : Host.Outcome State Fault Refusal :=
  fpBin g dbl d a b s fun _ => fpMinMax false dbl

/-- FMAX (R146). -/
def execFmax (g : Guard) (dbl : Bool) (d : Dst) (a b : Src) (s : State) : Host.Outcome State Fault Refusal :=
  fpBin g dbl d a b s fun _ => fpMinMax true dbl

/-- The relation CND names (R147). -/
def fcmpHolds (c : FCnd) (o : Option Ordering) : Bool :=
  match c, o with
  | .eq, some .eq => true
  | .ne, o => o != some .eq
  | .lt, some .lt => true
  | .le, some .lt => true
  | .le, some .eq => true
  | .gt, some .gt => true
  | .ge, some .gt => true
  | .ge, some .eq => true
  | .un, none => true
  | .ord, some _ => true
  | _, _ => false

/-- FCMP (R147). -/
def execFcmp (g : Guard) (dbl : Bool) (cnd : FCnd) (d : Dst) (a b : Src) (s : State) :
    Host.Outcome State Fault Refusal :=
  fpBin g dbl d a b s fun _ x y => .val (vBool (fcmpHolds cnd (Fp.cmp (fpArg x) (fpArg y))))

/-- FRND (R148): no flag. -/
def execFrnd (g : Guard) (dbl : Bool) (rm : Rm) (d : Dst) (a : Src) (s : State) :
    Host.Outcome State Fault Refusal :=
  fpUn g dbl d a s fun w x =>
    match fpRes dbl .rne (Fp.integral (rmRnd w rm) (fpArg x), 0#7) 0#7 with
    | .ok vs _ n => .ok vs 0#7 n
    | r => r

/-- FABS (R146). -/
def execFabs (g : Guard) (dbl : Bool) (d : Dst) (a : Src) (s : State) : Host.Outcome State Fault Refusal :=
  fpUn g dbl d a s fun _ x => fpSign false (fpWiden dbl x)

/-- FNEG (R146). -/
def execFneg (g : Guard) (dbl : Bool) (d : Dst) (a : Src) (s : State) : Host.Outcome State Fault Refusal :=
  fpUn g dbl d a s fun _ x => fpSign true (fpWiden dbl x)

/-- LOG2 (R150, R151). -/
def execLog2 (g : Guard) (dbl : Bool) (d : Dst) (a : Src) (s : State) : Host.Outcome State Fault Refusal :=
  fpUn g dbl d a s fun _ x => fpRes dbl .rne (fpLog2 (fpArg x)) 0#7

/-- EXP2 (R150, R151). -/
def execExp2 (g : Guard) (dbl : Bool) (d : Dst) (a : Src) (s : State) : Host.Outcome State Fault Refusal :=
  fpUn g dbl d a s fun _ x => fpRes dbl .rne (fpExp2 (fpArg x)) 0#7

/-- RCP (R150, R151). -/
def execRcp (g : Guard) (dbl : Bool) (d : Dst) (a : Src) (s : State) : Host.Outcome State Fault Refusal :=
  fpUn g dbl d a s fun _ x => fpRes dbl .rne (fpRcp (fpArg x)) 0#7

/-- RSQ (R150, R151). -/
def execRsq (g : Guard) (dbl : Bool) (d : Dst) (a : Src) (s : State) : Host.Outcome State Fault Refusal :=
  fpUn g dbl d a s fun _ x => fpRes dbl .rne (fpRsq (fpArg x)) 0#7

/-- SIN (R150, R151). -/
def execSin (g : Guard) (dbl : Bool) (d : Dst) (a : Src) (s : State) : Host.Outcome State Fault Refusal :=
  fpUn g dbl d a s fun _ x => fpRes dbl .rne (fpSin (fpArg x)) 0#7

/-- COS (R150, R151). -/
def execCos (g : Guard) (dbl : Bool) (d : Dst) (a : Src) (s : State) : Host.Outcome State Fault Refusal :=
  fpUn g dbl d a s fun _ x => fpRes dbl .rne (fpCos (fpArg x)) 0#7

end Sys2Proof.Machine
end

