-- ==== Sys2Proof/Machine/Cross.lean ====
section
/-! DEFINITION. Mask instructions, BRD and cross-lane instructions (spec/08 R206-R221, R530,
spec/07 R195, R205). -/

namespace Sys2Proof.Machine

/-! ### Mask instructions (R207, R210, R211) -/

/-- A mask source (R207). -/
def maskArg (v : Val) : Option Mask :=
  if v.tag == .raw || v.tag == .int then some (v.pl.setWidth 32) else none

/-- A scalar-unit instruction with a scalar result. -/
def scalarIns (g : Guard) (d : Dst) (srcs : List Src) (vecOk : Bool) : Ins :=
  { insOf g d srcs with shape := some false, vecOk := vecOk }

/-- A mask instruction of two mask sources. -/
def maskBin (g : Guard) (d : Dst) (a b : Src) (s : State) (op : Mask → Mask → Mask) :
    Host.Outcome State Fault Refusal :=
  onceIns s (scalarIns g d [a, b] false) fun s r =>
    match maskArg (r.val 0 0), maskArg (r.val 1 0) with
    | some x, some y => .ok s [vRaw (op x y).toNat]
    | _, _ => .bad s typeFlt

/-- MAND (R210). -/
def execMand (g : Guard) (d : Dst) (a b : Src) (s : State) : Host.Outcome State Fault Refusal :=
  maskBin g d a b s (· &&& ·)

/-- MOR (R210). -/
def execMor (g : Guard) (d : Dst) (a b : Src) (s : State) : Host.Outcome State Fault Refusal :=
  maskBin g d a b s (· ||| ·)

/-- MXOR (R210). -/
def execMxor (g : Guard) (d : Dst) (a b : Src) (s : State) : Host.Outcome State Fault Refusal :=
  maskBin g d a b s (· ^^^ ·)

/-- MNOT (R210). -/
def execMnot (g : Guard) (d : Dst) (a : Src) (s : State) : Host.Outcome State Fault Refusal :=
  onceIns s (scalarIns g d [a] false) fun s r =>
    match maskArg (r.val 0 0) with
    | some x => .ok s [vRaw (~~~x).toNat]
    | none => .bad s typeFlt

/-- The operand is a vector. -/
def Ready.isVec (r : Ready) (j : Nat) : Bool := (r.ops.getD j (.sca vZero)).isVec

/-- Active lanes whose value is true (R105). -/
def trueLanes (r : Ready) (j : Nat) : Mask :=
  maskWhere fun k => inMask r.eff k && truthOf (r.val j k)

/-- MPOPC (R210). -/
def execMpopc (g : Guard) (d : Dst) (a : Src) (s : State) : Host.Outcome State Fault Refusal :=
  onceIns s (scalarIns g d [a] true) fun s r =>
    if r.isVec 0 then .ok s [vNat (maskLanes (trueLanes r 0)).length]
    else match maskArg (r.val 0 0) with
      | some x => .ok s [vNat (maskLanes x).length]
      | none => .bad s typeFlt

/-- MFFS (R210). -/
def execMffs (g : Guard) (hi : Bool) (d : Dst) (a : Src) (s : State) : Host.Outcome State Fault Refusal :=
  onceIns s (scalarIns g d [a] false) fun s r =>
    match maskArg (r.val 0 0) with
    | some x =>
      let l := if hi then (maskLanes x).reverse else maskLanes x
      .ok s [match l with
        | k :: _ => vNat k
        | [] => vInt (-1)]
    | none => .bad s typeFlt

/-- The bits of a mask destination as held (R211). -/
def dstMask (w : Warp) : Dst → Mask
  | .reg (.m n) => maskVal w n
  | .reg (.s n) => (sregVal w n.toNat).pl.setWidth 32
  | _ => 0#32

/-- MSET (R211). -/
def execMset (g : Guard) (mrg : Bool) (d : Dst) (a : Src) (s : State) : Host.Outcome State Fault Refusal :=
  onceIns s { scalarIns g d [a] true with reads := if mrg then (match d with | .reg x => [x] | _ => []) else [] } fun s r =>
    let old := if mrg then dstMask r.w d else 0#32
    .ok s [vRaw (trueLanes r 0 ||| (old &&& ~~~r.eff)).toNat]

/-- MGET (R211). -/
def execMget (g : Guard) (d : Dst) (a : Src) (s : State) : Host.Outcome State Fault Refusal :=
  pureIns s { insOf g d [a] with shape := some true, chk := fun w => !srcVec w a } {} fun r k =>
    match maskArg (r.val 0 k) with
    | some x => .val (vBool (inMask x k))
    | none => .bad typeFlt

/-! ### BRD (R195, R212) -/

/-- BRD. A stack that is full faults before a channel condition is popped (R198). -/
def execBrd (g : Guard) (n : Bool) (c : Src) (off join : BitVec 33) (s : State) :
    Host.Outcome State Fault Refusal :=
  issue s { scalarNo g [c] with size := 16, vecOk := true } fun t r =>
    let bad := maskWhere fun k => inMask r.eff k && (r.val 0 k).tag != .bool
    if bad != 0#32 then
      takeFault t r.w.uid { wholeReport r.w typeFlt bad 16 with popped := r.popped }
    else
      let taken := maskWhere fun k => inMask r.eff k && ((r.val 0 k).pl == 1#64) != n
      let defer := r.w.em &&& ~~~taken
      if taken == 0#32 then updWarp t r.w.uid fun w => advance w 16
      else if defer == 0#32 then updWarp t r.w.uid fun w => jumpTo w (branchTarget r.w off)
      else if !depthOk r.w 2 then faultAll s r.w (flt .instruction 3) r.eff 16
      else
        let lvl := r.w.hframes.length
        let s := pushEntry t r.w.uid ⟨.join, false, branchTarget r.w join, lvl, 0, r.w.em⟩
        let s := pushEntry s r.w.uid ⟨.path, false, r.w.pc + 16#56, lvl, 0, defer⟩
        updWarp s r.w.uid fun w => { jumpTo w (branchTarget r.w off) with em := taken }

/-! ### Moving values between lanes (R213-R216) -/

/-- VOTE (R213). -/
def execVote (g : Guard) (md : VoteMode) (d : Dst) (a : Src) (s : State) : Host.Outcome State Fault Refusal :=
  onceIns s (scalarIns g d [a] true) fun s r =>
    let t := trueLanes r 0
    .ok s [vBool (match md with
      | .some => t != 0#32
      | .every => t == r.eff
      | .same => (maskLanes r.eff).all fun k => r.val 0 k == r.val 0 (lowLane r.eff)
      | .none => t == 0#32)]

/-- Source lane of SHFL (R214). -/
def shflLane (md : ShflMode) (i : Nat) (b : Val) : Int :=
  match md with
  | .lane => (b.n % 32 : Nat)
  | .rot => ((i : Int) + b.i) % 32
  | .shift => (i : Int) + b.i
  | .swap => (Nat.xor i (b.n % 32) : Nat)

/-- SHFL (R214). -/
def execShfl (g : Guard) (md : ShflMode) (fill : Option Src) (d : Dst) (a b : Src) (s : State) :
    Host.Outcome State Fault Refusal :=
  pureIns s { insOf g d (a :: b :: fill.toList) with shape := some true } {} fun r k =>
    let x := r.val 1 k
    if x.tag != .int then .bad typeFlt
    else
      let j := shflLane md k x
      if 0 ≤ j ∧ j < 32 ∧ inMask r.eff j.toNat = true then .val (r.val 0 j.toNat)
      else .val (match fill with
        | some _ => r.val 2 k
        | none => r.val 0 k)

/-- LGATHER (R215). -/
def execLgather (g : Guard) (n : BitVec 3) (d : Dst) (a : BitVec 8) (b : Src) (s : State) :
    Host.Outcome State Fault Refusal :=
  let c := n.toNat + 1
  pureIns s { insOf g d [b] with shape := some true, reads := runRegs (.v a) c, chk := fun w => runOk w (.v a) c } {}
    fun r k =>
    let x := r.val 0 k
    if x.tag != .int then .bad typeFlt
    else if x.n < 32 * c then .val (rowAt (rowVal r.w (a.toNat + x.n / 32)) (x.n % 32))
    else .val vNil

/-- BCAST (R216); without a lane operand it is .first. -/
def execBcast (g : Guard) (lane : Option Src) (d : Dst) (a : Src) (s : State) :
    Host.Outcome State Fault Refusal :=
  onceIns s { scalarIns g d (a :: lane.toList) true with
      chk := fun w => !(lane.toList.any (srcVec w)) } fun s r =>
    match lane with
    | none => .ok s [r.val 0 (lowLane r.eff)]
    | some _ =>
      let x := r.val 1 0
      if x.tag != .int then .bad s typeFlt
      else if 32 ≤ x.n then .bad s (flt .arithmetic 4)
      else .ok s [r.val 0 x.n]

/-! ### Ranking (R209) -/

/-- Tags a type field accepts. -/
def tyOk (ty : Ty) (t : Tag) : Bool :=
  match ty with
  | .i => t == .int
  | .ts => t == .ts
  | .f32 => t == .f32
  | .f64 => t == .f64 || t == .f32

def tyTag : Ty → Tag
  | .i => .int | .ts => .ts | .f32 => .f32 | .f64 => .f64

/-- `x` ranks strictly below `y`, neither a NaN. -/
def rankBelow (ty : Ty) (x y : Val) : Bool :=
  match ty with
  | .i | .ts => decide (x.i < y.i)
  | _ => Fp.below (fpArg x) (fpArg y)

/-- `x` ranks strictly below `y`, NaNs equal to one another and lowest or highest. -/
def rankLess (ty : Ty) (nanLow : Bool) (x y : Val) : Bool :=
  match x.isNan, y.isNan with
  | true, true => false
  | true, false => nanLow
  | false, true => !nanLow
  | false, false => rankBelow ty x y

/-! ### Reductions and scans (R205, R217, R218) -/

/-- A value under reduction: its carried index and the flags so far. -/
structure RedVal where
  v : Val
  idx : Int
  fl : Flags
  deriving DecidableEq, Repr

/-- combine(x, y) of R217, x the lower lane. -/
def redCombine (op : ROp) (ty : Ty) (rnd : Rnd) (x y : RedVal) : RedVal :=
  let fl := x.fl ||| y.fl
  let keep := fun (z : RedVal) => { z with fl := fl }
  match op with
  | .add =>
    (match ty with
    | .i | .ts => ⟨vInt (x.v.i + y.v.i), x.idx, fl⟩
    | _ =>
      match fpRes (ty == .f64) rnd (Fp.add rnd (fpArg x.v) (fpArg y.v)) 0#7 with
      | .ok (v :: _) f _ => ⟨v, x.idx, fl ||| f⟩
      | _ => keep x)
  | .min =>
    if x.v.isNan || y.v.isNan then ⟨canonNan (tyTag ty), x.idx, fl⟩
    else if rankBelow ty y.v x.v then keep y else keep x
  | .max =>
    if x.v.isNan || y.v.isNan then ⟨canonNan (tyTag ty), x.idx, fl⟩
    else if rankBelow ty x.v y.v then keep y else keep x
  | .and => ⟨⟨.int, x.v.pl &&& y.v.pl⟩, x.idx, fl⟩
  | .or => ⟨⟨.int, x.v.pl ||| y.v.pl⟩, x.idx, fl⟩
  | .xor => ⟨⟨.int, x.v.pl ^^^ y.v.pl⟩, x.idx, fl⟩
  | .argmin => if rankLess ty false y.v x.v then keep y else keep x
  | .argmax => if rankLess ty true x.v y.v then keep y else keep x

/-- The value a lane brings: a binary64 sum starts from widened values (R217), and a NaN that is the only operand of
a sum, minimum or maximum is delivered canonical too (R39). -/
def redStart (op : ROp) (ty : Ty) (v : Val) (idx : Int) : RedVal :=
  ⟨if v.isNan && (op == .add || op == .min || op == .max) then canonNan (tyTag ty)
    else if op == .add then fpWiden (ty == .f64) v else v, idx, 0#7⟩

/-- One level of the tree of R205. -/
def treeLevel (f : RedVal → RedVal → RedVal) : List (Option RedVal) → List (Option RedVal)
  | some x :: some y :: l => some (f x y) :: treeLevel f l
  | some x :: none :: l => some x :: treeLevel f l
  | none :: y :: l => y :: treeLevel f l
  | l => l

/-- The whole tree. -/
def redTree (f : RedVal → RedVal → RedVal) (l : List (Option RedVal)) : Option RedVal :=
  (treeLevel f (treeLevel f (treeLevel f (treeLevel f (treeLevel f l))))).headD none

/-- An instruction that combines lanes (R530): any lane's fault leaves it without effect. -/
def combineIns (s : State) (i : Ins) (n : Fin) (bad : Ready → Nat → Option LFault)
    (res : Ready → List (Nat × LaneRes)) : Host.Outcome State Fault Refusal :=
  let i := { i with whole := true }
  issue s i fun t r =>
    let fs := (maskLanes r.eff).filterMap fun k => (bad r k).map fun f => (k, LaneRes.bad f)
    if fs.isEmpty then finish s t i r n (res r)
    else finish s t i { r with vec := true } { n with whole := true } fs

/-- The destinations of an arg form: the value and its index (R207). -/
def argDsts (d : Dst) : List Dst :=
  match d with
  | .reg (.s n) => [d, .reg (.s (n + 1#6))]
  | _ => [d]

/-- The index an arg form carries from lane `k` (R217). -/
def redIdx (r : Ready) (b : Src) (k : Nat) : Int := if b == .reg .zr then (k : Int) else (r.val 1 k).i

/-- REDW (R217). -/
def execRedw (g : Guard) (op : ROp) (ty : Ty) (d : Dst) (a b : Src) (s : State) :
    Host.Outcome State Fault Refusal :=
  let arg := op.isArg
  let i := scalarIns g d (if arg then [a, b] else [a]) true
  combineIns s { i with dsts := if arg then argDsts d else [d] } { traps := true }
    (fun r k => if tyOk ty (r.val 0 k).tag && (!arg || (r.val 1 k).tag == .int) then none else some typeFlt)
    fun r =>
      let xs := lanes.map fun k =>
        if inMask r.eff k then some (redStart op ty (r.val 0 k) (if arg then redIdx r b k else 0)) else none
      match redTree (redCombine op ty (dynRnd r.w)) xs with
      | some z =>
        [(lowLane r.eff, .ok (if arg then [z.v, vInt z.idx] else [z.v]) z.fl z.v.isNan)]
      | none => []

/-- One step of the scan over distance `w`. -/
def scanStep (f : RedVal → RedVal → RedVal) (w : Nat) (x : List (Option RedVal)) : List (Option RedVal) :=
  lanes.map fun i =>
    if i < w then x.getD i none
    else match x.getD (i - w) none, x.getD i none with
      | some a, some b => some (f a b)
      | some a, none => some a
      | none, b => b

/-- The scan of R218. -/
def scanAll (f : RedVal → RedVal → RedVal) (x : List (Option RedVal)) : List (Option RedVal) :=
  [1, 2, 4, 8, 16].foldl (fun x w => scanStep f w x) x

/-- The identity of an exclusive scan (R218). -/
def scanIdent (op : ROp) (ty : Ty) : Val :=
  let inf := fun (neg : Bool) => match ty with
    | .f64 => vF64 (FpFmt.f64.infBits + FpFmt.f64.signBit neg)
    | .f32 => vF32 (FpFmt.f32.infBits + FpFmt.f32.signBit neg)
    | t => ⟨tyTag t, wordOf (if neg then -(2 ^ 63) else 2 ^ 63 - 1)⟩
  match op with
  | .min | .argmin => inf false
  | .max | .argmax => inf true
  | .and => ⟨tyTag ty, 0xFFFFFFFFFFFFFFFF#64⟩
  | _ => ⟨tyTag ty, 0#64⟩

/-- SCANW (R218). -/
def execScanw (g : Guard) (op : ROp) (ty : Ty) (ex : Bool) (d : Dst) (a : Src) (s : State) :
    Host.Outcome State Fault Refusal :=
  combineIns s { insOf g d [a] with shape := some true } { traps := true }
    (fun r k => if tyOk ty (r.val 0 k).tag then none else some typeFlt)
    fun r =>
      let xs := lanes.map fun k =>
        if inMask r.eff k then some (redStart op ty (r.val 0 k) 0) else none
      let ys := scanAll (redCombine op ty (dynRnd r.w)) xs
      let fl := ys.foldl (fun f y => match y with
        | some z => f ||| z.fl
        | none => f) 0#7
      (maskLanes r.eff).map fun k =>
        let from_ := if ex then ((maskLanes r.eff).filter fun p => decide (p < k)).getLast? else some k
        let v := match from_ with
          | some p => match ys.getD p none with
            | some z => z.v
            | none => vNil
          | none => scanIdent op ty
        (k, .ok [v] fl v.isNan)

/-! ### Ranking and sorting (R219-R221) -/

/-- An element to be ranked, with what it carries. -/
structure RankEl where
  key : Val
  pay : Val

/-- Insert in front of the first element that `before` puts after `e`. -/
def rankInsert (before : Val → Val → Bool) (e : RankEl) : List RankEl → List RankEl
  | [] => [e]
  | x :: l => if before e.key x.key then e :: x :: l else x :: rankInsert before e l

/-- Stable sort: elements of equal rank keep their order. -/
def rankSort (before : Val → Val → Bool) (l : List RankEl) : List RankEl :=
  l.foldl (fun acc e => rankInsert before e acc) []

/-- A row instruction's results: every lane of every destination register (R208). -/
def rowResults (f : Nat → List Val) : List (Nat × LaneRes) := lanes.map fun k => (k, .ok (f k) 0#7 false)

/-- A value TOPK.nz excludes (R219). -/
def isZeroVal (v : Val) : Bool :=
  match v.tag with
  | .f32 | .f64 => (fpArg v).isZero
  | _ => v.n == 0

/-- TOPK (R219). -/
def execTopk (g : Guard) (n : BitVec 3) (ty : Ty) (nf nz : Bool) (d a : BitVec 8) (b : Src) (s : State) :
    Host.Outcome State Fault Refusal :=
  let c := n.toNat + 1
  let i : Ins := { insOf g .nowb [b] with
    dsts := runDsts (.v d) 2, shape := some true, whole := true, reads := runRegs (.v a) c
    chk := fun w => !srcVec w b && runOk w (.v d) 2 && runOk w (.v a) c }
  issue s i fun t r =>
    let k := r.val 0 0
    if k.tag != .int then faultReady t r typeFlt i.size
    else if k.n < 1 ∨ 32 < k.n then faultReady t r (flt .arithmetic 4) i.size
    else
      let bad := (maskLanes r.eff).filterMap fun l =>
        if (List.range c).all fun j => tyOk ty (runLane r.w (.v a) j l).tag then none
        else some (l, LaneRes.bad typeFlt)
      if !bad.isEmpty then finish s t i r { whole := true } bad
      else
        let els := (List.range c).flatMap fun j => (maskLanes r.eff).filterMap fun l =>
          let v := runLane r.w (.v a) j l
          if nz && isZeroVal v then none else some (RankEl.mk v (vNat (32 * j + l)))
        let top := (rankSort (fun e x => rankLess ty (!nf) x e) els).take k.n
        finish s t i r {} (rowResults fun l => match top[l]? with
          | some e => [e.key, e.pay]
          | none => [vNil, vInt (-1)])

/-- Lanes whose key is not accepted. -/
def keyBad (ty : Ty) (as : List (BitVec 8)) (r : Ready) (k : Nat) : Option LFault :=
  if as.all fun a => tyOk ty (rowAt (rowVal r.w a.toNat) k).tag then none else some typeFlt

/-- The active keys and payloads of a run of two, in lane order. -/
def keyRun (r : Ready) (a : BitVec 8) : List RankEl :=
  (maskLanes r.eff).map fun k => ⟨runLane r.w (.v a) 0 k, runLane r.w (.v a) 1 k⟩

/-- The merge of R220: `n` bounds the output. -/
def mergeRuns (ty : Ty) : Nat → List RankEl → List RankEl → List RankEl
  | 0, _, _ => []
  | _, [], y => y
  | _, x, [] => x
  | n + 1, x :: xs, y :: ys =>
    if rankLess ty false y.key x.key then y :: mergeRuns ty n (x :: xs) ys
    else x :: mergeRuns ty n xs (y :: ys)

/-- MERGE (R220). -/
def execMerge (g : Guard) (ty : Ty) (d a b : BitVec 8) (s : State) : Host.Outcome State Fault Refusal :=
  combineIns s { insOf g .nowb [] with
      dsts := runDsts (.v d) 4, shape := some true, reads := runRegs (.v a) 2 ++ runRegs (.v b) 2
      chk := fun w => runOk w (.v d) 4 && runOk w (.v a) 2 && runOk w (.v b) 2 } {}
    (keyBad ty [a, b]) fun r =>
      let out := mergeRuns ty 64 (keyRun r a) (keyRun r b)
      let at_ : Nat → RankEl := fun q => (out[q]?).getD ⟨vNil, vNil⟩
      rowResults fun k => [(at_ k).key, (at_ (32 + k)).key, (at_ k).pay, (at_ (32 + k)).pay]

/-- SORTW (R221). -/
def execSortw (g : Guard) (ty : Ty) (desc : Bool) (d a : BitVec 8) (s : State) :
    Host.Outcome State Fault Refusal :=
  combineIns s { insOf g .nowb [] with
      dsts := runDsts (.v d) 2, shape := some true, reads := runRegs (.v a) 2
      chk := fun w => runOk w (.v d) 2 && runOk w (.v a) 2 } {}
    (keyBad ty [a]) fun r =>
      let before := fun e x => if desc then rankLess ty true x e else rankLess ty false e x
      let out := rankSort before (keyRun r a)
      rowResults fun k => match out[k]? with
        | some e => [e.key, e.pay]
        | none => [vNil, vNil]

end Sys2Proof.Machine
end

