-- ==== Sys2Proof/Machine/Convert.lean ====
section
/-! DEFINITION. Conversions, K8DEC, HASH and RNDU (spec/05 R152-R158, spec/02 R44-R53, R59, R60). -/

namespace Sys2Proof.Machine

/-- A value that may be converted (R153). -/
def numArg (v : Val) : Option Num :=
  match v.tag with
  | .int | .ts => some (.int v.i)
  | .f32 => some (.fp (FpFmt.f32.decode v.n))
  | .f64 => some (.fp (FpFmt.f64.decode v.n))
  | _ => none

/-- The 32 elements of a stochastic rounding, or the one of a scalar instance (R53). -/
def srElems (r : Ready) (fm : Fmt) (arg : Nat → Option Num) : List (Nat × Nat) :=
  let one := fun k => match arg k with
    | some x => srDiscard fm x
    | none => (0, 0)
  if r.vec then lanes.map fun k => if inMask r.eff k then one k else (0, 0)
  else [one (lowLane r.eff)]

/-- The rounding of element `k`: the mode, or the decision of R53. -/
def elemRnd (r : Ready) (sr : Bool) (m : Rnd) (ds : List (Nat × Nat)) (k : Nat) : Rnd :=
  if sr then .sr (srDecide ds (if r.vec then k else 0)) else m

/-- The value CVT writes for an element pattern (R152). -/
def cvtVal (df : Fmt) (b : Nat) : Val :=
  match df with
  | .f64 => vF64 b
  | .f32 => vF32 b
  | .f16 | .bf16 | .e4m3 | .e5m2 | .e8m0 => vRaw b
  | _ => vInt (elemInt df b)

/-- CVT (R152, R153). -/
def execCvt (g : Guard) (df : Fmt) (rm : Rm) (d : Dst) (a : Src) (s : State) :
    Host.Outcome State Fault Refusal :=
  pureIns s (insOf g d [a]) { traps := true } fun r =>
    let sr := rmIsSr r.w rm
    let ds := if sr then srElems r df (fun k => numArg (r.val 0 k)) else []
    fun k => match numArg (r.val 0 k) with
      | none => .bad typeFlt
      | some x =>
        let (b, f) := convElem df (warpSat r.w) (elemRnd r sr (rmRnd r.w rm) ds k) x
        .ok [cvtVal df b] f (elemIsNan df b)

/-- Tags PACK accepts (R154). -/
def packTagOk (ef : Fmt) (t : Tag) : Bool :=
  match fmtFp ef, ef with
  | none, .e8m0 | some _, _ => t == .int || t == .f32 || t == .f64
  | none, _ => t == .int

/-- The rounding mode in a 3-bit field. -/
def rmOfBits (b : BitVec 3) : Rm := (Rm.ofCode b.toNat).getD .dyn

/-- PACK (R154). Under SR a TS element that PACK refuses still adds its discarded bits to its neighbours' decisions, and an
element of another refused tag adds 0: DESIGN CHOICE (log 55). -/
def execPack (g : Guard) (ef : Fmt) (md : BitVec 3) (d : Dst) (a : Run) (s : State) :
    Host.Outcome State Fault Refusal :=
  let n := fmtCount ef
  let wb := fmtBits ef
  pureIns s { insOf g d [runSrc a] with reads := runRegs a n, chk := fun w => runOk w a n } { traps := true } fun r =>
    let rm := rmOfBits md
    let sr := !ef.isInt && rmIsSr r.w rm
    let ds := if sr then (List.range n).map fun j => srElems r ef (fun k => numArg (runLane r.w a j k)) else []
    fun k =>
      let vs := (List.range n).map fun j => runLane r.w a j k
      if vs.all fun v => packTagOk ef v.tag then
        let es := (vs.zipIdx).map fun p =>
          if ef.isInt && md == 1#3 then (wrapNat wb p.1.i, (0#7 : Flags))
          else convElem ef (warpSat r.w) (elemRnd r sr (rmRnd r.w rm) (ds.getD p.2 []) k)
            ((numArg p.1).getD (.int 0))
        .ok [vRaw (packElems wb (es.map fun e => e.1))] (es.foldl (fun f e => f ||| e.2) 0#7)
          (es.any fun e => elemIsNan ef e.1)
      else .bad typeFlt

/-- UNPK (R155). -/
def execUnpk (g : Guard) (ef : Fmt) (wide : Bool) (d : Run) (a : Src) (s : State) :
    Host.Outcome State Fault Refusal :=
  let n := fmtCount ef
  pureIns s { insOf g .nowb [a] with dsts := runDsts d n, chk := fun w => runOk w d n } { traps := true }
    fun r k =>
      let v := r.val 0 k
      if v.tag == .raw || v.tag == .int then
        let es := (List.range n).map fun j => elemAt v.n (fmtBits ef) j
        if ef.isInt then .ok (es.map fun b => vInt (elemInt ef b)) 0#7 false
        else
          let fm : FpFmt := if wide then .f64 else .f32
          .ok (es.map fun b =>
              ⟨if wide then .f64 else .f32, wordN (fm.round noSat .rne (elemDecode ef b)).1⟩) 0#7
            (es.any fun b => elemIsNan ef b)
      else .bad typeFlt

/-- K8DEC (R45, R156, R157). -/
def execK8dec (g : Guard) (f16 : Bool) (j : BitVec 2) (d : Run) (a : Src) (s : State) :
    Host.Outcome State Fault Refusal :=
  pureIns s { insOf g .nowb [a] with dsts := runDsts d 2, chk := fun w => runOk w d 2 } {} fun r k =>
    let v := r.val 0 k
    if v.tag == .raw || v.tag == .int then
      let code := elemAt v.n 16 j.toNat
      let row := (coreCtx s r.w.pos r.w.asid).k8.getD (bitsAt code 8 8) 0
      let fm : FpFmt := if f16 then .f16 else .bf16
      let e := fun i => (fm.round noSat .rne (k8Fp row code i)).1
      .ok [vRaw (packElems 16 [e 0, e 1, e 2, e 3]), vRaw (packElems 16 [e 4, e 5, e 6, e 7])] 0#7 false
    else .bad typeFlt

/-- HASH (R59, R158). -/
def execHash (g : Guard) (d : Dst) (a b : Src) (s : State) : Host.Outcome State Fault Refusal :=
  pureIns s (insOf g d [a, b]) {} fun r k => .val ⟨.int, hash64 (r.val 0 k).pl (r.val 1 k).pl⟩

/-- RNDU (R60, R158). -/
def execRndu (g : Guard) (d : Dst) (a b : Src) (s : State) : Host.Outcome State Fault Refusal :=
  pureIns s (insOf g d [a, b]) {} fun r k =>
    let u := (hash64 (r.val 0 k).pl (r.val 1 k).pl).toNat >>> 40
    .val (vF32 (FpFmt.f32.round noSat .rtz (.num false (2 * u + 1) (-25))).1)

end Sys2Proof.Machine
end

