-- ==== Sys2Proof/Machine/Int.lean ====
section
/-! DEFINITION. Typed integer instructions (spec/05 R127-R142). -/

namespace Sys2Proof.Machine

/-- A typed instruction of two sources that accept `okA` and `okB` (R128). -/
def typedBin (g : Guard) (d : Dst) (a b : Src) (s : State) (okA okB : Tag → Bool)
    (op : Val → Val → LaneRes) : Host.Outcome State Fault Refusal :=
  pureIns s (insOf g d [a, b]) {} fun r k =>
    if okA (r.val 0 k).tag && okB (r.val 1 k).tag then op (r.val 0 k) (r.val 1 k) else .bad typeFlt

/-- A typed integer instruction of one source. -/
def typedUn (g : Guard) (d : Dst) (a : Src) (s : State) (op : Val → LaneRes) :
    Host.Outcome State Fault Refusal :=
  pureIns s (insOf g d [a]) {} fun r k =>
    if isIntTag (r.val 0 k).tag then op (r.val 0 k) else .bad typeFlt

/-- RAW when the named operand is RAW, else INT (R132). -/
def rawOrInt (v : Val) : Tag := if v.tag == .raw then .raw else .int

/-- The payload as OV takes it (R133). -/
def ovArg (ov : Ov) (v : Val) : Int := if ov == .us then (v.n : Int) else v.i

/-- An exact result under OV (R133). -/
def ovRes (ov : Ov) (t : Tag) (x : Int) : LaneRes :=
  match ov with
  | .wrap => .val ⟨t, wordOf x⟩
  | .ss =>
    let c := clampInt (-(2 ^ 63)) (2 ^ 63 - 1) x
    .ok [⟨t, wordOf c⟩] (if c == x then 0#7 else fSA) false
  | .us =>
    let c := clampInt 0 (2 ^ 64 - 1) x
    .ok [⟨t, wordOf c⟩] (if c == x then 0#7 else fSA) false

/-- IADD (R132, R133). -/
def execIadd (g : Guard) (ov : Ov) (d : Dst) (a b : Src) (s : State) : Host.Outcome State Fault Refusal :=
  typedBin g d a b s isIntTag isIntTag fun x y =>
    ovRes ov (if (x.tag == .ts) != (y.tag == .ts) then .ts else .int) (ovArg ov x + ovArg ov y)

/-- ISUB (R132, R133). -/
def execIsub (g : Guard) (ov : Ov) (d : Dst) (a b : Src) (s : State) : Host.Outcome State Fault Refusal :=
  typedBin g d a b s isIntTag isIntTag fun x y =>
    ovRes ov (if x.tag == .ts && y.tag != .ts then .ts else .int) (ovArg ov x - ovArg ov y)

/-- IMUL (R133). -/
def execImul (g : Guard) (ov : Ov) (d : Dst) (a b : Src) (s : State) : Host.Outcome State Fault Refusal :=
  typedBin g d a b s isIntTag isIntTag fun x y => ovRes ov .int (ovArg ov x * ovArg ov y)

/-- The payload under U (R134). -/
def uArg (u : Bool) (v : Val) : Int := if u then (v.n : Int) else v.i

/-- IMULH (R134). -/
def execImulh (g : Guard) (u : Bool) (d : Dst) (a b : Src) (s : State) : Host.Outcome State Fault Refusal :=
  typedBin g d a b s isIntTag isIntTag fun x y => .val (vInt (Int.fdiv (uArg u x * uArg u y) (2 ^ 64)))

def divZero : LFault := flt .arithmetic 2

/-- IDIVT (R134). -/
def execIdivt (g : Guard) (u : Bool) (d : Dst) (a b : Src) (s : State) : Host.Outcome State Fault Refusal :=
  typedBin g d a b s isIntTag isIntTag fun x y =>
    if y.n == 0 then .bad divZero else .val (vInt (Int.tdiv (uArg u x) (uArg u y)))

/-- IREMT (R134). -/
def execIremt (g : Guard) (u : Bool) (d : Dst) (a b : Src) (s : State) : Host.Outcome State Fault Refusal :=
  typedBin g d a b s isIntTag isIntTag fun x y =>
    if y.n == 0 then .bad divZero else .val (vInt (Int.tmod (uArg u x) (uArg u y)))

/-- IMAD (R133). -/
def execImad (g : Guard) (ov : Ov) (d : Dst) (a b c : Src) (s : State) : Host.Outcome State Fault Refusal :=
  pureIns s (insOf g d [a, b, c]) {} fun r k =>
    let x := r.val 0 k
    let y := r.val 1 k
    let z := r.val 2 k
    if isIntTag x.tag && isIntTag y.tag && isIntTag z.tag then
      ovRes ov .int (ovArg ov x * ovArg ov y + ovArg ov z)
    else .bad typeFlt

/-- AND (R135). -/
def execAnd (g : Guard) (d : Dst) (a b : Src) (s : State) : Host.Outcome State Fault Refusal :=
  typedBin g d a b s isIntTag isIntTag fun x y => .val ⟨rawOrInt x, x.pl &&& y.pl⟩

/-- OR (R135). -/
def execOr (g : Guard) (d : Dst) (a b : Src) (s : State) : Host.Outcome State Fault Refusal :=
  typedBin g d a b s isIntTag isIntTag fun x y => .val ⟨rawOrInt x, x.pl ||| y.pl⟩

/-- XOR (R135). -/
def execXor (g : Guard) (d : Dst) (a b : Src) (s : State) : Host.Outcome State Fault Refusal :=
  typedBin g d a b s isIntTag isIntTag fun x y => .val ⟨rawOrInt x, x.pl ^^^ y.pl⟩

/-- ANDN (R135). -/
def execAndn (g : Guard) (d : Dst) (a b : Src) (s : State) : Host.Outcome State Fault Refusal :=
  typedBin g d a b s isIntTag isIntTag fun x y => .val ⟨rawOrInt x, x.pl &&& ~~~y.pl⟩

/-- NOT (R135). -/
def execNot (g : Guard) (d : Dst) (a : Src) (s : State) : Host.Outcome State Fault Refusal :=
  typedUn g d a s fun x => .val ⟨rawOrInt x, ~~~x.pl⟩

/-- The shift count (R136). -/
def shCount (wide : Bool) (v : Val) : Nat := if wide then v.n else v.n % 64

/-- SHL (R136). -/
def execShl (g : Guard) (wide : Bool) (d : Dst) (a b : Src) (s : State) : Host.Outcome State Fault Refusal :=
  typedBin g d a b s isIntTag isIntTag fun x y =>
    let c := shCount wide y
    .val ⟨rawOrInt x, if 64 ≤ c then 0#64 else x.pl <<< c⟩

/-- SHR (R136). -/
def execShr (g : Guard) (wide : Bool) (d : Dst) (a b : Src) (s : State) : Host.Outcome State Fault Refusal :=
  typedBin g d a b s isIntTag isIntTag fun x y =>
    let c := shCount wide y
    .val ⟨rawOrInt x, if 64 ≤ c then 0#64 else x.pl >>> c⟩

/-- SAR (R136). -/
def execSar (g : Guard) (wide : Bool) (d : Dst) (a b : Src) (s : State) : Host.Outcome State Fault Refusal :=
  typedBin g d a b s isIntTag isIntTag fun x y =>
    let c := shCount wide y
    .val ⟨rawOrInt x, x.pl.sshiftRight (if 64 ≤ c then 63 else c)⟩

/-- ROL (R136). -/
def execRol (g : Guard) (d : Dst) (a b : Src) (s : State) : Host.Outcome State Fault Refusal :=
  typedBin g d a b s isIntTag isIntTag fun x y => .val ⟨rawOrInt x, x.pl.rotateLeft (y.n % 64)⟩

/-- POPC (R137). -/
def execPopc (g : Guard) (d : Dst) (a : Src) (s : State) : Host.Outcome State Fault Refusal :=
  typedUn g d a s fun x => .val (vNat (popNat 64 x.n))

/-- CLZ (R137). -/
def execClz (g : Guard) (d : Dst) (a : Src) (s : State) : Host.Outcome State Fault Refusal :=
  typedUn g d a s fun x => .val (vNat (clz64 x.n))

/-- CTZ (R137). -/
def execCtz (g : Guard) (d : Dst) (a : Src) (s : State) : Host.Outcome State Fault Refusal :=
  typedUn g d a s fun x => .val (vNat (ctzNat 64 x.n))

/-- BREV (R137). -/
def execBrev (g : Guard) (d : Dst) (a : Src) (s : State) : Host.Outcome State Fault Refusal :=
  typedUn g d a s fun x => .val ⟨rawOrInt x, brev64 x.pl⟩

/-- Position and effective length of a bit field (R138). -/
def fieldPos (v : Val) : Nat := bitsAt v.n 0 6
def fieldLen (v : Val) : Nat := min (bitsAt v.n 8 7) (64 - fieldPos v)

/-- BFX (R138). -/
def execBfx (g : Guard) (sx : Bool) (d : Dst) (a b : Src) (s : State) : Host.Outcome State Fault Refusal :=
  typedBin g d a b s isIntTag isIntTag fun x y =>
    let l := fieldLen y
    let f := bitsAt x.n (fieldPos y) l
    .val (if sx && l != 0 then vInt (sxInt l f) else vNat f)

/-- BFI (R138). -/
def execBfi (g : Guard) (d : Dst) (a b c : Src) (s : State) : Host.Outcome State Fault Refusal :=
  pureIns s (insOf g d [a, b, c]) {} fun r k =>
    let x := r.val 0 k
    let y := r.val 1 k
    let z := r.val 2 k
    if isIntTag x.tag && isIntTag y.tag && isIntTag z.tag then
      let m : Word := wordN ((2 ^ fieldLen y - 1) * 2 ^ fieldPos y)
      .val ⟨rawOrInt z, (z.pl &&& ~~~m) ||| ((x.pl <<< fieldPos y) &&& m)⟩
    else .bad typeFlt

/-- IMIN (R139). -/
def execImin (g : Guard) (d : Dst) (a b : Src) (s : State) : Host.Outcome State Fault Refusal :=
  typedBin g d a b s isIntTag isIntTag fun x y => .val (if y.i < x.i then y else x)

/-- IMAX (R139). -/
def execImax (g : Guard) (d : Dst) (a b : Src) (s : State) : Host.Outcome State Fault Refusal :=
  typedBin g d a b s isIntTag isIntTag fun x y => .val (if x.i < y.i then y else x)

/-- NMIN (R139). -/
def execNmin (g : Guard) (d : Dst) (a b : Src) (s : State) : Host.Outcome State Fault Refusal :=
  typedBin g d a b s isIntTag isIntTag fun x y => .val (if y.n < x.n then y else x)

/-- NMAX (R139). -/
def execNmax (g : Guard) (d : Dst) (a b : Src) (s : State) : Host.Outcome State Fault Refusal :=
  typedBin g d a b s isIntTag isIntTag fun x y => .val (if x.n < y.n then y else x)

/-- The relation CND names (R140). -/
def icmpHolds (c : Cnd) (x y : Val) : Bool :=
  match c with
  | .eq => x.pl == y.pl
  | .ne => x.pl != y.pl
  | .lt => decide (x.i < y.i)
  | .le => decide (x.i ≤ y.i)
  | .gt => decide (y.i < x.i)
  | .ge => decide (y.i ≤ x.i)
  | .ltu => decide (x.n < y.n)
  | .leu => decide (x.n ≤ y.n)

/-- ICMP (R140). -/
def execIcmp (g : Guard) (cnd : Cnd) (d : Dst) (a b : Src) (s : State) : Host.Outcome State Fault Refusal :=
  typedBin g d a b s isIntTag isIntTag fun x y => .val (vBool (icmpHolds cnd x y))

/-- SEL (R141). -/
def execSel (g : Guard) (mask : Bool) (d : Dst) (a b c : Src) (s : State) :
    Host.Outcome State Fault Refusal :=
  pureIns s (insOf g d [a, b, c]) {} fun r k =>
    let z := r.val 2 k
    if z.tag == (if mask then Tag.raw else Tag.bool) then
      .val (if bitAt z.n (if mask && r.vec then k else 0) then r.val 0 k else r.val 1 k)
    else .bad typeFlt

/-- Tags accepted as an address (R142, R166). -/
def isAddrTag : Tag → Bool
  | .int | .raw | .ref | .code => true
  | _ => false

/-- LEA (R142). -/
def execLea (g : Guard) (sc : BitVec 2) (d : Dst) (a b c : Src) (s : State) :
    Host.Outcome State Fault Refusal :=
  pureIns s (insOf g d [a, b, c]) {} fun r k =>
    let x := r.val 0 k
    let y := r.val 1 k
    let z := r.val 2 k
    if isAddrTag x.tag && isIntTag y.tag && isIntTag z.tag then
      .val (vNat (x.n + y.n * 2 ^ sc.toNat + z.n))
    else .bad typeFlt

end Sys2Proof.Machine
end

