-- ==== Sys2Proof/Machine/LaneMem.lean ====
section
/-! DEFINITION. Lane loads and stores, the read barrier, cards, ALLOC and line loads
(spec/06 R166-R179). -/

namespace Sys2Proof.Machine

/-! ### Addresses -/

/-- Tags of BASE and IDX (R166). -/
def baseTagOk (t : Tag) : Bool := isAddrTag t
def idxTagOk (t : Tag) : Bool := t == .int || t == .raw

/-- The address of format M in lane `k`: BASE and IDX are operands `j` and `j + 1` (R65, R166). -/
def laneAddr (r : Ready) (j : Nat) (m : MemOp) (n : Nat) (ln : Bool) (k : Nat) : Except LFault Nat :=
  let b := r.val j k
  let i := r.val (j + 1) k
  if baseTagOk b.tag && idxTagOk i.tag then
    .ok ((addrOf b i m.sc m.disp n + (if ln then 8 * k else 0)) % 2 ^ 64)
  else .error typeFlt

/-- Carry on with an address, or fault in the lane. -/
def withAddr {α : Type} (s : State) (a : Except LFault Nat) (f : Nat → Res α) : Res α :=
  match a with
  | .ok va => f va
  | .error e => .bad s e

/-! ### The read barrier (R172) -/

/-- The leaf that covers a reference's target, when there is one. -/
def targetLeaf (s : State) (who : Who) (va : Nat) : Res (Option Nat) :=
  match translate s who va false with
  | .ok s t => .ok s (some t.pte)
  | .bad s f => if f.cls == .machineCheck then .bad s { f with fva := va } else .ok s none
  | .hold h l => .hold h l

/-- Put the new reference in place of the old one at its source (R172): no boundary, no card. The load waits where the
compare-and-swap must wait; a page that is no longer writable, or a fault, leaves the word as it is. -/
def heal (s : State) (who : Who) (va : Nat) (old new : Val) : Res Unit :=
  let swap := (translate s who va true).bind fun s t =>
    if !pteW t.pte then .ok s ()
    else (physLoadW s who 0 t.da).bind fun s p =>
      if p == (BitVec.ofNat 4 old.tag.toNat, old.n) then
        (physStore s who va t.da 8 new.n (some (BitVec.ofNat 4 new.tag.toNat))).bind fun s _ =>
          .ok (clearShadow s who t.pte va 8) ()
      else .ok s ()
  match swap with
  | .bad _ _ => .ok s ()
  | r => r

/-- What a loaded word becomes (R172): its value, or lane-vector event 1. -/
inductive Barred where
  | val (v : Val)
  | slow (ref : Val) (src : Nat)

/-- Apply the barrier to a word loaded from `va` through `t`. The race detector does not check its read of the header:
DESIGN CHOICE (log 15). -/
def barrier (s : State) (who : Who) (nh : Bool) (va : Nat) (t : Tr) (v : Val) : Res Barred :=
  if v.tag != .ref then .ok s (.val v)
  else (targetLeaf s who v.n).bind fun s leaf =>
    match leaf with
    | none => .ok s (.val v)
    | some p =>
      if !pteMV p then .ok s (.val v)
      else (checkVa s who .header v.n 8).bind fun s th =>
        (readVal s who 0 v.n th).bind fun s h =>
          if h.tag == .fwd then
            let new : Val := ⟨.ref, h.pl⟩
            (if !nh && pteW t.pte then heal s who va v new else .ok s ()).map fun _ => .val new
          else .ok s (.slow v va)

/-- Load one word as LD does (R170). -/
def loadTagged (s : State) (w : Warp) (nh : Bool) (va lane : Nat) : Res Barred :=
  (laneCheck s w .load va 8 .read lane).bind fun s t =>
    (readVal s w.who 0 va t).bind fun s v => barrier s w.who nh va t v

/-- A lane's word as LD first reads it: its address, its translation and the value. -/
abbrev LdWord := Nat × Tr × Val

/-- Check and read the lanes' words in ascending order: lanes that name one word read one value (R168, R170). -/
def readLanes (w : Warp) (ea : Nat → Except LFault Nat) : List Nat → State → Res (List (Nat × Except LFault LdWord))
  | [], s => .ok s []
  | k :: l, s =>
    let one : Res LdWord := withAddr s (ea k) fun va =>
      (laneCheck s w .load va 8 .read k).bind fun s t => (readVal s w.who 0 va t).map fun v => (va, t, v)
    match one.undo s with
    | .ok s x => (readLanes w ea l s).map fun r => (k, .ok x) :: r
    | .bad s f => (readLanes w ea l s).map fun r => (k, .error f) :: r
    | .hold h ln => .hold h ln

/-- Then the read barrier acts on each of them (R172). -/
def barLanes (w : Warp) (nh : Bool) : List (Nat × Except LFault LdWord) → State → Res (List (Nat × LaneRes))
  | [], s => .ok s []
  | (k, x) :: l, s =>
    let one : Res LaneRes := match x with
      | .error f => .bad s f
      | .ok (va, t, v) => (barrier s w.who nh va t v).map fun b => match b with
        | .val v => .val v
        | .slow ref src => .event ref (vNat src) 0
    match one.undo s with
    | .ok s y => (barLanes w nh l s).map fun r => (k, y) :: r
    | .bad s f => (barLanes w nh l s).map fun r => (k, .bad f) :: r
    | .hold h ln => .hold h ln

/-! ### Completing a load (R169) -/

/-- The registers a load of `n` values a lane writes. -/
def loadRegs (i : Ins) (n : Nat) : List Reg :=
  ((i.dsts.zipIdx).filter fun p => decide (p.2 < n)).filterMap fun p => match p.1 with
    | .reg x => some x
    | _ => none

/-- A load whose lanes all completed has its registers and its latch entry outstanding until the data arrives
(R169): nothing reads them before (R202). Any other outcome is final. -/
def finishLoad (before s : State) (i : Ins) (r : Ready) (n : Fin) (l : List (Nat × LaneRes)) : State :=
  let t := finish before s i r n l
  if i.pushes && (laneFaults l).isEmpty && (laneDivs l).isEmpty then
    updWarp t r.w.uid fun w =>
      { w with outstanding := w.outstanding ++ [⟨loadRegs i (resWidth l), some 0⟩] }
  else t

/-- A load instruction. -/
def loadIns (s : State) (i : Ins) (n : Fin) (op : Ready → State → Nat → Res LaneRes) :
    Host.Outcome State Fault Refusal :=
  issue s i fun s' r =>
    match laneLoop (op r) (execLanes r) s' with
    | .ok t l => finishLoad s t i r n l
    | .bad t f => faultReady t r f i.size
    | .hold h ln => holdAt s r.w.uid h ln

/-- Op class of lane-vector event `e` (R122). -/
def eventCls (e : Nat) : Nat := 16 + e

/-- LD (R170, R172). LN with a destination and operands that make it scalar is undefined (R70, R166). -/
def execLd (g : Guard) (ln nh : Bool) (d : Dst) (m : MemOp) (s : State) : Host.Outcome State Fault Refusal :=
  let i := insOf g d m.srcs
  issue s { i with bad := fun w => ln && !insVec w i } fun s' r =>
    match readLanes r.w (laneAddr r 0 m 8 ln) (execLanes r) s' with
    | .hold h n => holdAt s r.w.uid h n
    | .bad t f => faultReady t r f i.size
    | .ok t ws => match barLanes r.w nh ws t with
      | .hold h n => holdAt s r.w.uid h n
      | .bad t f => faultReady t r f i.size
      | .ok t l => finishLoad s t i r { cls := eventCls 1 } l

/-! ### Stores and cards (R171, R174) -/

/-- The card byte's address, when storing `v` through `t` marks one (R174). -/
def cardOf (s : State) (w : Warp) (v : Val) (t : Tr) (va : Nat) : Option Nat :=
  let base := (getCtx s w.asid).cardb.toNat
  if v.tag == .ref && pteCRD t.pte && base != 0 then some (base + va / 512) else none

/-- Check the card byte of a store before anything is written. -/
def cardCheck (s : State) (w : Warp) (c : Option Nat) (lane : Nat) : Res (Option (Nat × Tr)) :=
  match c with
  | none => .ok s none
  | some a => (laneCheck s w .store a 1 .write lane).map fun t => some (a, t)

def cardMark (s : State) (w : Warp) (c : Option (Nat × Tr)) : Res Unit :=
  match c with
  | none => .ok s ()
  | some (a, t) => writePart s w.who a t 1 1

/-- Store a whole tagged word as ST does, with its card. -/
def storeTagged (s : State) (w : Warp) (va : Nat) (v : Val) (lane : Nat) : Res Unit :=
  (laneCheck s w .store va 8 .write lane).bind fun s t =>
    (cardCheck s w (cardOf s w v t va) lane).bind fun s c =>
      (cardMark s w c).bind fun s _ => writeVal s w.who va t v

/-- A lane that wrote no register. -/
def noVal : LaneRes := .ok [] 0#7 false

/-- A store instruction: data is operand 0, BASE and IDX follow. -/
def storeInsOf (g : Guard) (d : Src) (m : MemOp) : Ins := insNo g (d :: m.srcs)

/-- ST (R171). Scalar data under LN is undefined (R166); a latch entry or channel shows its shape only now, and the
fault is that of check 2 (R85, R442; log 55). -/
def execSt (g : Guard) (ln : Bool) (d : Src) (m : MemOp) (s : State) : Host.Outcome State Fault Refusal :=
  stateIns s { storeInsOf g d m with bad := fun w => ln && srcOk w d && !srcVec w d } {} fun r s k =>
    withAddr s (laneAddr r 1 m 8 ln k) fun va =>
      (storeTagged s r.w va (r.val 0 k) k).map fun _ => noVal

/-! ### Typed loads and stores (R173) -/

/-- Bytes of a format. -/
def fmtBytes (f : Fmt) : Nat := fmtBits f / 8

/-- The value a typed load gives (R173, R339). -/
def ldtVal (f : Fmt) (b : Nat) : Val :=
  match f with
  | .raw => vRaw b
  | .ts => ⟨.ts, wordN b⟩
  | .f64 => vF64 (FpFmt.f64.round noSat .rne (FpFmt.f64.decode b)).1
  | .f32 | .f16 | .bf16 | .e4m3 | .e5m2 | .e8m0 =>
    vF32 (FpFmt.f32.round noSat .rne (elemDecode f b)).1
  | _ => vInt (elemInt f b)

/-- Read `n` bytes at `va`; a reserved tag in the word faults (R14). -/
def loadBytes (s : State) (who : Who) (va : Nat) (t : Tr) (n : Nat) : Res Nat :=
  Res.at ((physLoadW s who 0 (t.da / 8 * 8)).bind fun s p =>
    if pteCls t.pte != 1 && decide (12 < p.1.toNat) then .bad s (flt .tagFault 0)
    else .ok s (bitsAt p.2 (8 * (t.da % 8)) (8 * n))) va

/-- LDT (R173). -/
def execLdt (g : Guard) (f : Fmt) (d : Dst) (m : MemOp) (s : State) : Host.Outcome State Fault Refusal :=
  loadIns s (insOf g d m.srcs) {} fun r s k =>
    withAddr s (laneAddr r 0 m (fmtBytes f) false k) fun va =>
      (laneCheck s r.w .load va (fmtBytes f) .read k).bind fun s t =>
        (loadBytes s r.w.who va t (fmtBytes f)).map fun b => .val (ldtVal f b)

/-- How a converting store rounds (R49, R173): integer views take FPCTL.RM. -/
def storeRm (f : Fmt) (md : BitVec 3) : Rm := if f.isInt then .dyn else rmOfBits md

/-- The element a converting store writes, its flags, and whether it is a NaN pattern; none for a tag
it does not accept (R173, R339). -/
def storeElem (r : Ready) (f : Fmt) (md : BitVec 3) (ds : List (Nat × Nat)) (k : Nat) (v : Val) :
    Option (Nat × Flags × Bool) :=
  match f with
  | .raw => some (v.n, 0#7, false)
  | .ts => if v.tag == .ts || v.tag == .int then some (v.n, 0#7, false) else none
  | _ => match numArg v with
    | none => none
    | some x =>
      let isI := match x with
        | .int _ => true
        | .fp _ => false
      if f.isInt && isI && md == 1#3 then some (wrapNat (fmtBits f) v.i, 0#7, false)
      else
        let rm := storeRm f md
        let (b, fl) := convElem f (warpSat r.w) (elemRnd r (rmIsSr r.w rm) (rmRnd r.w rm) ds k) x
        some (b, fl, elemIsNan f b)

/-- The elements of stochastic rounding of a converting store (R49, R53). -/
def storeElems (r : Ready) (f : Fmt) (md : BitVec 3) : List (Nat × Nat) :=
  if rmIsSr r.w (storeRm f md) then srElems r f fun k => numArg (r.val 0 k) else []

/-- The tag an 8-byte typed store writes (R173). -/
def sttTag : Fmt → Tag
  | .f64 => .f64
  | .ts => .ts
  | .raw => .raw
  | _ => .int

/-- Write a typed element at `va` (R22, R173). -/
def storeBytes (s : State) (who : Who) (f : Fmt) (va : Nat) (t : Tr) (b : Nat) : Res Unit :=
  if fmtBytes f == 8 then writeVal s who va t ⟨sttTag f, wordN b⟩
  else writePart s who va t (fmtBytes f) b

/-- STT (R173). A lane whose data tag is refused takes that type fault whatever its address; the order of the two
is open, DESIGN CHOICE (log 55). -/
def execStt (g : Guard) (f : Fmt) (md : BitVec 3) (d : Src) (m : MemOp) (s : State) :
    Host.Outcome State Fault Refusal :=
  stateIns s (storeInsOf g d m) { traps := true } fun r =>
    let ds := storeElems r f md
    fun s k =>
      match storeElem r f md ds k (r.val 0 k) with
      | none => .bad s typeFlt
      | some (b, fl, nan) =>
        withAddr s (laneAddr r 1 m (fmtBytes f) false k) fun va =>
          (laneCheck s r.w .store va (fmtBytes f) .write k).bind fun s t =>
            (storeBytes s r.w.who f va t b).map fun _ => .ok [] fl nan

/-! ### Header accesses (R175) -/

/-- HLD. -/
def execHld (g : Guard) (d : Dst) (m : MemOp) (s : State) : Host.Outcome State Fault Refusal :=
  loadIns s (insOf g d m.srcs) {} fun r s k =>
    withAddr s (laneAddr r 0 m 8 false k) fun va =>
      (laneCheck s r.w .header va 8 .read k).bind fun s t =>
        (readVal s r.w.who 0 va t).map fun v => .val v

/-- HST. -/
def execHst (g : Guard) (d : Src) (m : MemOp) (s : State) : Host.Outcome State Fault Refusal :=
  stateIns s (storeInsOf g d m) {} fun r s k =>
    withAddr s (laneAddr r 1 m 8 false k) fun va =>
      (laneCheck s r.w .headerStore va 8 .write k).bind fun s t =>
        (writeVal s r.w.who va t (r.val 0 k)).map fun _ => noVal

/-! ### ALLOC (R177) -/

/-- The size in bytes of an object of `n` words. -/
def allocBytes (n : Nat) : Nat := 16 * ((n + 1) / 2)

/-- The fault of a lane's operands (R177). The class is compared as an unsigned payload, so that a negative INT is out of
range: DESIGN CHOICE (log 55). -/
def allocBad (size cls : Val) : Option LFault :=
  if size.tag != .int || cls.tag != .int then some typeFlt
  else if size.i < 1 || decide (2 ^ 24 ≤ size.i) || decide (2 ^ 24 ≤ cls.n) then some (flt .arithmetic 3)
  else none

/-- How the lanes after one that stopped are treated. -/
inductive AllocStop where
  | none
  | full
  | fault (f : LFault)

/-- The lanes of ALLOC in order; the answer carries the new bump pointer. -/
def allocLoop (r : Ready) : List Nat → State → Nat → AllocStop → Res (List (Nat × LaneRes) × Nat)
  | [], s, p, _ => .ok s ([], p)
  | k :: l, s, p, stop =>
    let size := r.val 0 k
    let cls := r.val 1 k
    let add := fun (x : LaneRes) (q : Res (List (Nat × LaneRes) × Nat)) =>
      q.map fun a => ((k, x) :: a.1, a.2)
    match allocBad size cls with
    | some f => add (.bad f) (allocLoop r l s p stop)
    | none =>
      match stop with
      | .full => add (.event size cls 0) (allocLoop r l s p .full)
      | .fault f => add (.bad { f with fva := p }) (allocLoop r l s (p + allocBytes size.n) stop)
      | .none =>
        if r.w.nlim < p + allocBytes size.n then add (.event size cls 0) (allocLoop r l s p .full)
        else
          match (laneCheck s r.w .headerStore p 8 .write k).bind fun s t =>
            writeVal s r.w.who p t ⟨.hdr, wordN (size.n * 2 ^ 24 + cls.n)⟩ with
          | .hold h ln => .hold h ln
          | .bad s f => add (.bad { f with fva := p }) (allocLoop r l s (p + allocBytes size.n) (.fault f))
          | .ok s _ => add (.val (vRef p)) (allocLoop r l s (p + allocBytes size.n) .none)

/-- The bump pointer after the lanes: past the objects made and no further. -/
def allocEnd (r : Ready) (l : List (Nat × LaneRes)) : Nat :=
  l.foldl (fun p x => match x.2 with
    | .ok _ _ _ => p + allocBytes (r.val 0 x.1).n
    | _ => p) r.w.ncur

/-- ALLOC (R177). -/
def execAlloc (g : Guard) (d : Dst) (a b : Src) (s : State) : Host.Outcome State Fault Refusal :=
  let i := insOf g d [a, b]
  issue s i fun s' r =>
    match allocLoop r (execLanes r) s' r.w.ncur .none with
    | .ok t (l, _) =>
      finish s (updWarp t r.w.uid fun w => { w with ncur := allocEnd r l }) i r { cls := eventCls 0 } l
    | .bad t f => faultReady t r f i.size
    | .hold h ln => holdAt s r.w.uid h ln

/-! ### LDL (R179) -/

/-- The `n` words of one lane, in register order: values, and the first that needs the slow path. -/
def ldlLane (w : Warp) (nh : Bool) (ea lane : Nat) : List Nat → State → Res (List Val × Option (Val × Nat × Nat))
  | [], s => .ok s ([], none)
  | j :: l, s =>
    (loadTagged s w nh (ea + 8 * (32 * j + lane)) lane).bind fun s b =>
      (ldlLane w nh ea lane l s).map fun rest => match b with
        | .val v => (v :: rest.1, rest.2)
        | .slow ref src => (vNil :: rest.1, some (ref, src, j))

/-- LDL (R179). -/
def execLdl (g : Guard) (n : BitVec 3) (nh : Bool) (d : BitVec 8) (m : MemOp) (s : State) :
    Host.Outcome State Fault Refusal :=
  let k := n.toNat + 1
  loadIns s { insOf g .nowb m.srcs with
      dsts := runDsts (.v d) k
      chk := fun w => runOk w (.v d) k && !(m.srcs.any (srcVec w)) }
    { cls := eventCls 1, redo := true } fun r s lane =>
      withAddr s (laneAddr r 0 m 256 false lane) fun ea =>
        if ea < 2 ^ 56 && ea % 64 != 0 then .bad s { flt .protection 1 with fva := ea }
        else match ldlLane r.w nh ea lane (List.range k) s with
          | .ok t (vs, none) => .ok t (.ok vs 0#7 false)
          | .ok t (_, some (ref, src, j)) => .ok t (.event ref (vNat src) j)
          | .bad _ f => .bad s f
          | .hold h ln => .hold h ln

end Sys2Proof.Machine
end

