-- ==== Sys2Proof/Machine/Window.lean ====
section
/-! DEFINITION. What lies on a core and its windows: scratchpad bytes and access groups, tile locks, tokens,
the window spaces, LDS, STS, LDW, STW (spec/12 R291-R296, spec/14 R339-R341, spec/16 R387). -/

namespace Sys2Proof.Machine

/-! ### The scratchpad (R291, R292) -/

def spadTop : Nat := 0x80000

def spadFlt (off : Nat) : LFault := fltAt .protection 4 off

/-- `n` bytes of a context's scratchpad on a core. -/
def spadGet (s : State) (p : Pos) (asid off n : Nat) : Nat := cellsGet (coreCtx s p asid).spad off n

def spadSet (s : State) (p : Pos) (asid off n x : Nat) : State :=
  updCoreCtx s p asid fun c => { c with spad := cellsSet c.spad off n x }

/-- Offsets without their repetitions. -/
def dedup : List Nat → List Nat
  | [] => []
  | x :: l => if l.contains x then dedup l else x :: dedup l

/-- Cycles that an access group takes: the most distinct words it names in one bank (R292). -/
def groupCycles (offs : List Nat) : Nat :=
  let ws := dedup (offs.map (· / 8))
  ((List.range 32).map fun b => (ws.filter fun x => x % 32 == b).length).foldl max 0

/-- Count the conflicts of an access group in BCONF (R292). -/
def bankGroup (s : State) (p : Pos) (offs : List Nat) : State :=
  let n := groupCycles offs - 1
  if n == 0 then s else updCore s p fun c => { c with bconf := min (c.bconf + n) (2 ^ 63 - 1) }

/-- The offset of LDS and STS in a lane, or its fault (R339). -/
def spadAddr (r : Ready) (j : Nat) (m : MemOp) (n k : Nat) : Except LFault Nat :=
  let b := r.val j k
  let i := r.val (j + 1) k
  if idxTagOk b.tag && idxTagOk i.tag then
    let a := addrOf b i m.sc m.disp n
    if a < spadTop && a % n == 0 then .ok a else .error (spadFlt a)
  else .error typeFlt

/-- Offsets of the lanes that reach the scratchpad: one access group (R292, R339). -/
def spadGroup (r : Ready) (j : Nat) (m : MemOp) (n : Nat) : List Nat :=
  (execLanes r).filterMap fun k => match spadAddr r j m n k with
    | .ok a => some a
    | .error _ => none

/-- LDS (R339). -/
def execLds (g : Guard) (f : Fmt) (d : Dst) (m : MemOp) (s : State) : Host.Outcome State Fault Refusal :=
  stateIns s (insOf g d m.srcs) {}
    (fun r s k => withAddr s (spadAddr r 0 m (fmtBytes f) k) fun a =>
      .ok s (.val (ldtVal f (spadGet s r.w.pos r.w.asid a (fmtBytes f)))))
    fun s r => bankGroup s r.w.pos (spadGroup r 0 m (fmtBytes f))

/-- STS (R339). -/
def execSts (g : Guard) (f : Fmt) (md : BitVec 3) (d : Src) (m : MemOp) (s : State) :
    Host.Outcome State Fault Refusal :=
  stateIns s (storeInsOf g d m) { traps := true }
    (fun r =>
      let ds := storeElems r f md
      fun s k => match storeElem r f md ds k (r.val 0 k) with
        | none => .bad s typeFlt
        | some (b, fl, nan) =>
          withAddr s (spadAddr r 1 m (fmtBytes f) k) fun a =>
            .ok (spadSet s r.w.pos r.w.asid a (fmtBytes f) b) (.ok [] fl nan))
    fun s r => bankGroup s r.w.pos (spadGroup r 1 m (fmtBytes f))

/-! ### Locks and tokens (R295, R414, R415) -/

/-- A warp holds the token of an accumulator on a core (R415). -/
def holdsToken (s : State) (p : Pos) (asid u a : Nat) : Bool :=
  (coreCtx s p asid).token.getD a none == some u

def ownerFlt : LFault := flt .ownership 0

/-! ### The window spaces (R293-R296) -/

/-- Bytes of a window space: scratchpad, registers, tiles, accumulators. -/
def winSize : Nat → Nat
  | 0 => 0x80000
  | 1 => 0x400000
  | 2 => 0x40000
  | _ => 0x20000

def winFlt (off : Nat) : LFault := fltAt .protection 2 off

/-- Range and alignment of a window access (R293). -/
def winOk (sp off n : Nat) : Bool := decide (off + n ≤ winSize sp) && off % n == 0

/-- The accessing context's warp of a slot, live or in a shadow slot (R296), whose open window covers the row of an offset
(R294). -/
def winWarp (s : State) (p : Pos) (asid off : Nat) : Option Warp :=
  (s.warps.find? fun w => w.pos == p && w.slot == off / 0x10000 && w.asid == asid
    && (w.status == .resident || w.status == .shadowed)).bind fun w =>
      let row := off / 0x100 % 0x100
      if w.rwEn && decide (w.rwFst ≤ row) && decide (row < w.rwFst + w.rwCnt)
          && decide (row < w.allot) then some w
      else none

def closedFlt (off : Nat) : LFault := fltAt .protection 3 off

/-- What stops an access to a window; then the access itself. It waits while a link on its way retrains (R497). -/
def winGate {α : Type} (s : State) (who : Who) (p : Pos) (sp off n : Nat) (f : Res α) : Res α :=
  if !winOk sp off n then .bad s (winFlt off)
  else if waysWait s (hopLinks who.pos.die p.die) then .hold .link 0
  else if !ctxHere s p who.asid then .hold .context (coreCode p)
  else if sp == 3 && !holdsToken s p who.asid who.warp (off / 0x4000) then .bad s { ownerFlt with fva := off }
  else f

/-- Read `n` bytes, or a register word, through a window. -/
def winRead (s : State) (who : Who) (p : Pos) (sp off n : Nat) : Res Val :=
  winGate s who p sp off n <|
    let c := coreCtx s p who.asid
    match sp with
    | 0 => .ok s (vRaw (cellsGet c.spad off n))
    | 1 => (match winWarp s p who.asid off with
      | some w =>
        let v := rowAt (rowVal w (off / 0x100 % 0x100)) (off / 8 % 32)
        .ok s (if n == 8 then v else vRaw (bitsAt v.n (8 * (off % 8)) (8 * n)))
      | none => .bad s (closedFlt off))
    | 2 => .ok s (vRaw (cellsGet c.tiles off n))
    | _ => .ok s (vRaw (cellsGet c.acc off n))

/-- Write through a window. A tile that an MMA holds locked makes the write wait (R295). -/
def winWrite (s : State) (who : Who) (p : Pos) (sp off n : Nat) (v : Val) : Res Unit :=
  winGate s who p sp off n <|
    match sp with
    | 0 => .ok (spadSet s p who.asid off n v.n) ()
    | 1 => (match winWarp s p who.asid off with
      | some w =>
        let row := off / 0x100 % 0x100
        .ok (updWarp s w.uid fun w => setV w row (setAt (rowVal w row) (off / 8 % 32) v)) ()
      | none => .bad s (closedFlt off))
    | 2 =>
      if tileLocked s p who.asid (off / 0x2000) then .hold .tile (tileCode p (off / 0x2000))
      else .ok (updCoreCtx s p who.asid fun c => { c with tiles := cellsSet c.tiles off n v.n }) ()
    | _ => .ok (updCoreCtx s p who.asid fun c => { c with acc := cellsSet c.acc off n v.n }) ()

/-- The window, its core and the offset that a lane of LDW or STW names (R340, R341). -/
def winAddr (s : State) (r : Ready) (j : Nat) (m : MemOp) (n k : Nat) : Except LFault (Pos × Nat × Nat) :=
  let b := r.val j k
  let i := r.val (j + 1) k
  if b.tag != .int || !idxTagOk i.tag then .error typeFlt
  else
    let off := (bitsAt b.n 0 23 + i.n * 2 ^ m.sc.toNat + (m.disp.toInt * (n : Int) % 2 ^ 64).toNat) % 2 ^ 64
    if bitsAt b.n 23 25 != 0 then .error (winFlt off)
    else match placeOf s r.w.asid r.w.pos (bitsAt b.n 50 14) with
      | .ok p =>
        if bitsAt b.n 48 2 == 1 && n != 8 then .error (winFlt off) else .ok (p, bitsAt b.n 48 2, off)
      | .error f => .error f

/-- The access groups of the lanes that reach scratchpads, one for each core (R292). -/
def winGroups (s : State) (r : Ready) (j : Nat) (m : MemOp) (n : Nat) : State :=
  let l := (execLanes r).filterMap fun k => match winAddr s r j m n k with
    | .ok (p, 0, off) => if winOk 0 off n then some (p, off) else none
    | _ => none
  (l.zipIdx).foldl (fun t e =>
    if (l.take e.2).any fun q => q.1 == e.1.1 then t
    else bankGroup t e.1.1 ((l.filter fun q => q.1 == e.1.1).map fun q => q.2)) s

/-- LDW (R341). -/
def execLdw (g : Guard) (sz : BitVec 2) (d : Dst) (m : MemOp) (s : State) : Host.Outcome State Fault Refusal :=
  let n := 2 ^ sz.toNat
  stateIns s (insOf g d m.srcs) {} (fun r s k =>
    match winAddr s r 0 m n k with
    | .error f => .bad s f
    | .ok (p, sp, off) => (winRead s r.w.who p sp off n).map fun v => .val v) fun s r => winGroups s r 0 m n

/-- STW (R341). -/
def execStw (g : Guard) (sz : BitVec 2) (d : Src) (m : MemOp) (s : State) : Host.Outcome State Fault Refusal :=
  let n := 2 ^ sz.toNat
  stateIns s (storeInsOf g d m) {} (fun r s k =>
    match winAddr s r 1 m n k with
    | .error f => .bad s f
    | .ok (p, sp, off) => (winWrite s r.w.who p sp off n (r.val 0 k)).map fun _ => noVal) fun s r => winGroups s r 1 m n

end Sys2Proof.Machine
end

