-- ==== Sys2Proof/Machine/Atomic.lean ====
section
/-! DEFINITION. Atomics, LDA, STL, PHASE and the placement hints (spec/14 R331-R338, spec/12 R285). -/

namespace Sys2Proof.Machine

/-! ### Ordering (R332) -/

def AOrdRel : AOrd → Bool
  | .rel | .ar => true
  | .none | .acq => false

/-- An instruction whose lanes act in ascending order after one release. -/
def releaseIns (s : State) (i : Ins) (rel : Option Nat) (n : Fin) (op : Ready → State → Nat → Res LaneRes) :
    Host.Outcome State Fault Refusal :=
  issue s i fun s' r =>
    let (t, w) := match rel with
      | some scope => released s' r.w scope
      | none => (s', r.w)
    let r := { r with w := w }
    match laneLoop (op r) (execLanes r) t with
    | .ok t l => finish s t i r n l
    | .bad t f => faultReady t r f i.size
    | .hold h ln => holdAt s r.w.uid h ln

/-- The scope at which an atomic releases. -/
def ordRel (o : AOrd) (m : ScopeOp) : Option Nat := if AOrdRel o then some m.scope.toNat else none

/-- The address of an atomic in a lane (R65, R331): BASE is operand `j`. -/
def scopeAddr (r : Ready) (j : Nat) (m : ScopeOp) (n k : Nat) : Except LFault Nat :=
  let b := r.val j k
  if baseTagOk b.tag then .ok (addrOf b vZero 0#2 m.disp n) else .error typeFlt

/-! ### The word of an atomic (R333) -/

/-- Binary32 and binary64 sums of the floating forms: RNE, subnormals kept, canonical NaN, no flags. -/
def atomSum (f : FpFmt) (a b : Nat) : Nat :=
  (f.round noSat .rne (Fp.add .rne (f.decode a) (f.decode b)).1).1

/-- A floating operand as a binary64 pattern. -/
def atomF64 (v : Val) : Nat :=
  if v.tag == .f32 then (FpFmt.f64.round noSat .rne (FpFmt.f32.decode v.n)).1 else v.n

/-- The new payload of an integer form. -/
def atomInt (op : AOp) (a b : Word) : Word :=
  match op with
  | .add => a + b
  | .smin => if a.slt b then a else b
  | .smax => if a.slt b then b else a
  | .umin => if a.ult b then a else b
  | .umax => if a.ult b then b else a
  | .and => a &&& b
  | .or => a ||| b
  | .xor => a ^^^ b
  | .xchg | .fadds | .faddd => b

/-- The new word; none where the tag of the old word or of the operand is not accepted. `raw` tells a raw
page, whose word counts as RAW. -/
def atomNew (op : AOp) (raw : Bool) (old x : Val) : Option Val :=
  match op with
  | .xchg => some x
  | .fadds =>
    if x.tag != .f32 then none
    else if raw then
      some ⟨.raw, wordN (old.n / 2 ^ 32 * 2 ^ 32 + atomSum .f32 (old.n % 2 ^ 32) x.n)⟩
    else if old.tag == .f32 then some (vF32 (atomSum .f32 old.n x.n)) else none
  | .faddd =>
    if !(x.tag == .f32 || x.tag == .f64) then none
    else if raw || old.tag == .f64 then some (vF64 (atomSum .f64 old.n (atomF64 x))) else none
  | _ =>
    if isIntTag old.tag && isIntTag x.tag then some ⟨old.tag, atomInt op old.pl x.pl⟩ else none

/-- One step of an atomic at the home of a word (R334): the check, the old word, the new one if there is
one, with its card. One that writes nothing leaves nothing for the race detector (R327, R330). -/
def atomStep {α : Type} (s : State) (w : Warp) (va n lane : Nat) (read : State → Tr → Res α)
    (new : α → Except LFault (List (Nat × Val))) : Res α :=
  (checkVa s w.who .store va n).bind fun s1 t =>
    let use := match read s1 t with
      | .ok _ old => (match new old with
        | .ok [] => RaceUse.probe
        | _ => .atomic)
      | _ => .atomic
    (raceGate s1 w t va use lane).bind fun s2 _ =>
      (Res.at (read s2 t) va).bind fun s3 old =>
        match new old with
        | .error f => .bad s1 { f with fva := va }
        | .ok ws =>
          let card := ws.findSome? fun p => cardOf s3 w p.2 t (va + p.1)
          (cardCheck s3 w card lane).bind fun s4 c =>
            (cardMark s4 w c).bind fun s5 _ =>
              (ws.foldl (fun (q : Res Unit) p => q.bind fun s _ =>
                writeVal s w.who (va + p.1) { t with da := t.da + p.1 } p.2) (.ok s5 ())).map fun _ => old

/-- ATOM (R333, R334). -/
def execAtom (g : Guard) (op : AOp) (ord : AOrd) (d : Reg) (m : ScopeOp) (s : State) :
    Host.Outcome State Fault Refusal :=
  releaseIns s (insOf g (.reg d) [.reg d, m.base]) (ordRel ord m) {} fun r s k =>
    withAddr s (scopeAddr r 1 m 8 k) fun va =>
      (atomStep s r.w va 8 k (fun s t => (readVal s r.w.who 0 va t).map fun v => (v, pteCls t.pte == 1))
        fun old => match atomNew op old.2 old.1 (r.val 0 k) with
          | some v => .ok [(0, v)]
          | none => .error typeFlt).map fun old => .val old.1

/-- Equality of a stored and an expected word (R335): on a raw page, of payloads alone. -/
def casEq (raw : Bool) (old x : Val) : Bool := if raw then old.pl == x.pl else old == x

/-- CAS (R335). -/
def execCas (g : Guard) (ord : AOrd) (d : Run) (m : ScopeOp) (s : State) : Host.Outcome State Fault Refusal :=
  releaseIns s { insOf g .nowb [m.base] with
      dsts := runDsts d 2, reads := runRegs d 2, chk := fun w => runOk w d 2 } (ordRel ord m) {} fun r s k =>
    withAddr s (scopeAddr r 0 m 8 k) fun va =>
      let hit := fun (o : Val × Bool) => casEq o.2 o.1 (runLane r.w d 0 k)
      (atomStep s r.w va 8 k (fun s t => (readVal s r.w.who 0 va t).map fun v => (v, pteCls t.pte == 1))
        fun old => .ok (if hit old then [(0, runLane r.w d 1 k)] else [])).map fun old =>
          .ok [old.1, vBool (hit old)] 0#7 false

/-- CAS2 (R335): two words as one step. -/
def execCas2 (g : Guard) (ord : AOrd) (d : Run) (m : ScopeOp) (s : State) : Host.Outcome State Fault Refusal :=
  releaseIns s { insOf g .nowb [m.base] with
      dsts := runDsts d 3, reads := runRegs d 4, chk := fun w => runOk w d 4 } (ordRel ord m) {} fun r s k =>
    withAddr s (scopeAddr r 0 m 16 k) fun va =>
      let hit := fun (o : Val × Val × Bool) =>
        casEq o.2.2 o.1 (runLane r.w d 0 k) && casEq o.2.2 o.2.1 (runLane r.w d 1 k)
      (atomStep s r.w va 16 k
        (fun s t => (readVal s r.w.who 0 va t).bind fun s lo =>
          (readVal s r.w.who 0 (va + 8) { t with da := t.da + 8 }).map fun hi => (lo, hi, pteCls t.pte == 1))
        fun old => .ok (if hit old then [(0, runLane r.w d 2 k), (8, runLane r.w d 3 k)] else [])).map
          fun old => .ok [old.1, old.2.1, vBool (hit old)] 0#7 false

/-- LDA (R336). The acquire has nothing left to do (log 7). -/
def execLda (g : Guard) (d : Dst) (m : ScopeOp) (s : State) : Host.Outcome State Fault Refusal :=
  stateIns s (insOf g d [m.base]) {} fun r s k =>
    withAddr s (scopeAddr r 0 m 8 k) fun va =>
      (laneCheck s r.w .load va 8 .read k).bind fun s t =>
        (readVal s r.w.who 0 va t).map fun v => .val v

/-- STL (R336). -/
def execStl (g : Guard) (d : Src) (m : ScopeOp) (s : State) : Host.Outcome State Fault Refusal :=
  releaseIns s (insNo g [d, m.base]) (some m.scope.toNat) {} fun r s k =>
    withAddr s (scopeAddr r 1 m 8 k) fun va =>
      (storeTagged s r.w va (r.val 0 k) k).map fun _ => noVal

/-- PHASE (R337): a release advances the interval number; an acquire has nothing left to do (log 7). -/
def execPhase (g : Guard) (kind : PhaseKind) (scope : BitVec 4) (s : State) :
    Host.Outcome State Fault Refusal :=
  issue s (insNo g []) fun s r =>
    let s := if kind == .acq then s else noteRelease s r.w.uid scope.toNat
    updWarp s r.w.uid fun w => advance w 8

/-! ### Placement hints (R285, R338) -/

def dropPref (s : State) (w : Warp) : State :=
  updCluster s w.pos fun c => { c with pfdrop := c.pfdrop + 1 }

/-- The leaf behind a hint's address: none where the lane is dropped (R338). -/
def hintLeaf (s : State) (w : Warp) (va : Nat) : Res (Option Tr) :=
  if va ≥ 2 ^ 56 then .ok s none
  else match translate s w.who va false with
    | .ok s t => .ok s (if (w.sup || pteU t.pte) && pteCls t.pte != 2 then some t else none)
    | .bad s _ => .ok s none
    | .hold h l => .hold h l

/-- A hint's lanes: dropped lanes are counted, the others leave no trace in this model (log 7). -/
def hintIns (s : State) (g : Guard) (m : MemOp) (leaf : Warp → State → Nat → Res (Option Tr)) :
    Host.Outcome State Fault Refusal :=
  stateIns s (insNo g m.srcs) {} fun r s k =>
    match laneAddr r 0 m 64 false k with
    | .error _ => .ok (dropPref s r.w) noVal
    | .ok va => match leaf r.w s va with
      | .ok s (some _) => .ok s noVal
      | .ok s none => .ok (dropPref s r.w) noVal
      | .bad s f => .bad s f
      | .hold h l => .hold h l

/-- CFLUSH (R338). -/
def execCflush (g : Guard) (_rl : Bool) (m : MemOp) (s : State) : Host.Outcome State Fault Refusal :=
  hintIns s g m fun w s va => hintLeaf s w va

/-- CINVL (R338). -/
def execCinvl (g : Guard) (_rl : Bool) (m : MemOp) (s : State) : Host.Outcome State Fault Refusal :=
  hintIns s g m fun w s va => hintLeaf s w va

/-- A speculative translation (R285): it sets no bit and fills the translation buffer from a completed walk; none where
the access is dropped. -/
def specLeaf (s : State) (w : Warp) (va : Nat) : Res (Option Tr) :=
  if va ≥ 2 ^ 56 then .ok s none
  else match tlbFind s w.who va with
    | some e => .ok s (some (trOf va e.pte.toNat e.size))
    | none => match walk s w.who va with
      | .ok t k =>
        if pteA k.pte then
          .ok (tlbInsert t w.who va (pageSize k.lvl) k.pte) (some (trOf va k.pte (pageSize k.lvl)))
        else .ok s none
      | .bad _ _ => .ok s none
      | .hold h l => .hold h l

/-- A speculative access of a class: a dropped one leaves no trace but its count (R285). One that must wait waits. -/
def specAccess (s : State) (w : Warp) (va cls : Nat) (ok : Nat → Bool) (read : State → Tr → Res State) :
    Res (Option Tr) :=
  match specLeaf s w va with
  | .ok s' (some t) =>
    if (w.sup || pteU t.pte) && pteCls t.pte == cls && !pteCI t.pte && dramOk (domPa t.da) && ok t.pte then
      match read s' t with
      | .ok _ u => .ok u (some t)
      | .bad _ _ => .ok s none
      | .hold h l => .hold h l
    else .ok s none
  | r => r

/-- PREF (R285, R338). -/
def prefLeaf (w : Warp) (s : State) (va : Nat) : Res (Option Tr) :=
  specAccess s w va 0 (fun _ => true) fun s t => (physLoad s w.who 0 (t.da / 64 * 64) 8).bind fun s _ => .ok s s

def execPref (g : Guard) (_l2 : Bool) (m : MemOp) (s : State) : Host.Outcome State Fault Refusal :=
  hintIns s g m prefLeaf

end Sys2Proof.Machine
end

