-- ==== Sys2Proof/Machine/Gauge.lean ====
section
/-! DEFINITION. Gauges and alarms (spec/16 R377-R379, R401-R404). -/

namespace Sys2Proof.Machine

/-! ### Gauge references (R377) -/

def gaugeFlt (a : Nat) : LFault := fltAt .instruction 9 a

/-- The gauge that a reference names; it must lie in memory or in the scratchpad of the core. -/
def gaugeOf (w : Warp) (v : Val) : Except LFault Gauge :=
  if v.tag != .int && v.tag != .raw then .error typeFlt
  else if !bitAt v.n 63 then
    if v.n < 2 ^ 56 && v.n % 16 == 0 then .ok (.mem w.asid v.n) else .error (gaugeFlt v.n)
  else if bitsAt v.n 19 44 == 0 && v.n % 16 == 0 then .ok (.spad w.pos w.asid (v.n % 2 ^ 19))
  else .error (gaugeFlt (v.n % 2 ^ 63))

/-- The check of a gauge at issue (R377): a memory gauge as an 8-byte store on a tagged or raw page. -/
def gaugeCheck (s : State) (who : Who) : Gauge → Res Unit
  | .mem _ va => (checkVa s who .store va 8).map fun _ => ()
  | _ => .ok s ()

/-! ### Counts (R378, R379) -/

/-- The count word at its home: none where it is malformed. -/
def gaugeRead (s : State) (who : Who) (g : Gauge) : Res (Option Nat) :=
  match g with
  | .none => .ok s (some 0)
  | .mem _ va =>
    (checkVa s who .store va 8).bind fun s t =>
      (Res.at (physLoadW s who (if who.eng then 6 else 0) t.da) va).map fun p =>
        if bitAt p.2 63 || (pteCls t.pte != 1 && p.1 != 0#4) then Option.none else some p.2
  | .spad p a off =>
    if !ctxHere s p a then .hold .context (coreCode p)
    else
      let x := spadGet s p a off 8
      .ok s (if bitAt x 63 then Option.none else some x)

def countFlt (g : Gauge) : LFault := fltAt .arithmetic 7 (match g with
  | .mem _ va => va
  | .spad _ _ off => off
  | .none => 0)

/-- Add bytes to a gauge as one atomic step (R316, R379). -/
def gaugeAdd (s : State) (who : Who) (g : Gauge) (n : Nat) : Res Unit :=
  match g with
  | .none => .ok s ()
  | _ => (gaugeRead s who g).bind fun s c => match c with
    | Option.none => .bad s (countFlt g)
    | some c =>
      if 2 ^ 63 ≤ c + n then .bad s (countFlt g)
      else match g with
        | .mem _ va => (checkVa s who .store va 8).bind fun s t =>
          (writeVal s who va t (vNat (c + n))).bind fun s _ => .ok (clearShadow s who t.pte va 8) ()
        | .spad p a off => .ok (spadSet s p a off 8 (c + n)) ()
        | .none => .ok s ()

/-- Change WATCH by payload (R378, R379): the die's gauge watch unit writes it, unchecked by the race detector (R327). -/
def gaugeWatch (s : State) (who : Who) (g : Gauge) (up : Bool) : Res Unit :=
  let f := fun (x : Nat) => x / 65536 * 65536 + (if up then x + 1 else x + 65535) % 65536
  match g with
  | .mem _ va => (checkVa s who .store va 8).bind fun s t =>
    (Res.at (physLoad s who 0 (t.da + 8) 8) va).bind fun s x =>
      (Res.at (physStore s who va (t.da + 8) 8 (f x) Option.none) va).bind fun s _ =>
        .ok (clearShadow s who t.pte (va + 8) 8) ()
  | .spad p a off =>
    if !ctxHere s p a then .hold .context (coreCode p)
    else .ok (spadSet s p a (off + 8) 8 (f (spadGet s p a (off + 8) 8))) ()
  | .none => .ok s ()

/-! ### GWAIT and GTEST (R401) -/

/-- A target, or the fault it raises. -/
def targetOf (v : Val) : Except LFault Nat :=
  if v.tag != .int then .error typeFlt
  else if v.n < 2 ^ 63 then .ok v.n else .error (flt .arithmetic 4)

/-- The gauge and target of an instruction, checked in that order. -/
def gaugeArgs (s : State) (r : Ready) (g t : Val) : Res (Gauge × Nat) :=
  match gaugeOf r.w g with
  | .error f => .bad s f
  | .ok g => (gaugeCheck s r.w.who g).bind fun s _ => match targetOf t with
    | .error f => .bad s f
    | .ok t => .ok s (g, t)

/-- The count of a gauge, or the fault of a malformed one. -/
def countOf (s : State) (who : Who) (g : Gauge) : Res Nat :=
  (gaugeRead s who g).bind fun s c => match c with
    | some c => .ok s c
    | Option.none => .bad s (countFlt g)

/-- The same as a read of the warp, which the race detector checks (R327). -/
def countRead (s : State) (r : Ready) (g : Gauge) : Res Nat :=
  (match g with
  | .mem _ va => (laneCheck s r.w .store va 8 .read (lowLane r.eff)).map fun _ => ()
  | _ => .ok s ()).bind fun s _ => countOf s r.w.who g

/-- An instruction of this chapter: once, on scalar operands (R376). -/
def onceOf (g : Guard) (d : Dst) (srcs : List Src) : Ins := { insOf g d srcs with shape := some false }

/-- GWAIT (R401). -/
def execGwait (g : Guard) (d : Dst) (gauge t : Src) (s : State) : Host.Outcome State Fault Refusal :=
  onceIns s (onceOf g d [gauge, t]) fun s r =>
    (gaugeArgs s r (r.val 0 0) (r.val 1 0)).bind fun s a =>
      (countRead s r a.1).bind fun s c =>
        if a.2 ≤ c then .ok s [vNat c] else .hold .gauge 0

/-- GTEST (R401). -/
def execGtest (g : Guard) (d : Dst) (gauge t : Src) (s : State) : Host.Outcome State Fault Refusal :=
  onceIns s (onceOf g d [gauge, t]) fun s r =>
    (gaugeArgs s r (r.val 0 0) (r.val 1 0)).bind fun s a =>
      (countRead s r a.1).map fun c => [vBool (decide (a.2 ≤ c))]

/-! ### Alarms (R402-R404) -/

/-- The alarm in a slot of a warp. -/
def findAlarm (s : State) (w : Warp) (slot : Nat) : Option Alarm :=
  (getDie s w.pos.die).alarms.find? fun a => a.warp == w.uid && a.slot == slot

/-- Every alarm of a warp, wherever its watch unit is. -/
def warpAlarms (s : State) (u : Nat) : List Alarm :=
  s.dies.flatMap fun d => d.alarms.filter fun a => a.warp == u

/-- The alarm in a slot, on any die: an alarm stays where it was armed. -/
def anyAlarm (s : State) (u slot : Nat) : Option Alarm := (warpAlarms s u).find? fun a => a.slot == slot

def dropAlarm (s : State) (u slot : Nat) : State :=
  { s with dies := s.dies.map fun d => { d with
      alarms := d.alarms.filter fun a => !(a.warp == u && a.slot == slot) } }

/-- The hardware's access to the gauge of an alarm (R402): with no user permission to check again. -/
def alarmWho (w : Warp) : Who := { w.who with sup := true }

/-- The count an alarm has reached, when it has (R379, R403). A scratchpad gauge whose context is not on its core shows
none until that context is there again (log 38). -/
def alarmCount (s : State) (w : Warp) (a : Alarm) : Option Nat :=
  match atHand s fun s => gaugeRead s (alarmWho w) a.gauge with
  | .ok _ (some c) => if a.target ≤ c then some c else none
  | _ => none

/-- Disarm a slot: the alarm goes and WATCH falls by one (R403, R404). It waits for a context that is not on its core. -/
def disarm (s : State) (w : Warp) (a : Alarm) : Res Unit :=
  let s := dropAlarm s w.uid a.slot
  match atHand s fun s => gaugeWatch s (alarmWho w) a.gauge false with
  | .bad _ _ => .ok s ()
  | r => r

/-- Disarm a slot that is armed. -/
def disarmSlot (s : State) (w : Warp) (slot : Nat) : Res Unit :=
  match anyAlarm s w.uid slot with
  | some a => disarm s w a
  | none => .ok s ()

/-- GARM (R402). -/
def execGarm (g : Guard) (slot : BitVec 2) (gauge t h : Src) (s : State) :
    Host.Outcome State Fault Refusal :=
  onceIns s { insNo g [gauge, t, h] with shape := some false } fun s r =>
    (gaugeArgs s r (r.val 0 0) (r.val 1 0)).bind fun s a =>
      if (r.val 2 0).tag != .code then .bad s typeFlt
      else (countOf s r.w.who a.1).bind fun s0 _ =>
        (disarmSlot s0 r.w slot.toNat).bind fun s _ =>
        if 16384 ≤ (getDie s r.w.pos.die).alarms.length then .bad s0 (flt .instruction 15)
        else (gaugeWatch s r.w.who a.1 true).bind fun s _ =>
          .ok (updDie s r.w.pos.die fun d => { d with
            alarms := d.alarms ++ [⟨r.w.uid, slot.toNat, a.1, a.2, (r.val 2 0).pl.setWidth 56⟩] }) []

/-- GDIS (R404). -/
def execGdis (g : Guard) (slot : BitVec 2) (d : Dst) (s : State) : Host.Outcome State Fault Refusal :=
  onceIns s (onceOf g d []) fun s r =>
    match anyAlarm s r.w.uid slot.toNat with
    | none => .ok s [vNat 0]
    | some a =>
      (disarm s r.w a).map fun _ => [vNat (if (alarmCount s r.w a).isSome then 2 else 1)]

/-- The lowest slot of a warp whose alarm is due (R403). -/
def dueAlarm (s : State) (w : Warp) : Option (Alarm × Nat) :=
  (List.range 4).findSome? fun k => (anyAlarm s w.uid k).bind fun a =>
    (alarmCount s w a).map fun c => (a, c)

/-- A boundary at which alarms, copy faults and matrix traps are delivered (R399, R403, R428). -/
def alarmBoundary (w : Warp) : Bool := w.isResident && !w.hnd && !w.sup && w.replay.isNone

/-- The alarm's handler is entered with the observed count (R403). -/
def enterAlarm (s : State) (u : Nat) (a : Alarm) (c : Nat) : State :=
  match findWarp s u with
  | none => s
  | some w =>
    let f : HFrame := { latches := w.latches, ha := w.ha, hb := w.hb, hopRsn := w.hopRsn
                        hopCls := w.hopCls, hpc := w.hpc, repc := w.repc, hnd := w.hnd, alarm := true
                        div := none }
    let s := updWarp s u fun w => { w with hframes := f :: w.hframes }
    let s := pushEntry s u ⟨.handler, false, w.pc, w.hframes.length + 1, w.repc, w.em⟩
    updWarp s u fun w =>
      { w with pc := a.handler, hnd := true, ha := rowOf (vNat c), hb := rowOf (vNat a.slot)
               hopRsn := false, hopCls := 0, hpc := w.pc, latches := [], outstanding := [], repc := 0, held := none }

/-- Deliver a due alarm (R403). -/
def deliverAlarm (s : State) (u : Nat) : State :=
  match findWarp s u with
  | none => s
  | some w =>
    if !(alarmBoundary w) then s
    else match dueAlarm s w with
      | none => s
      | some (a, c) =>
        if 32 ≤ w.hframes.length || !depthOk w 1 then
          takeFault s u { wholeReport w (flt .instruction (if 32 ≤ w.hframes.length then 2 else 3)) w.em 0 with
            kind := .after, async := 3 }
        else match disarm s w a with
          | .ok s _ => enterAlarm s u a c
          | .hold h l => holdAt s u h l
          | .bad s _ => s

end Sys2Proof.Machine
end

