-- ==== Sys2Proof/Machine/Records.lean ====
section
/-! DEFINITION. Records in memory and scratchpad that instructions name: layout records (spec/12 R297, R298),
decoder jobs (spec/16 R394, R395). -/

namespace Sys2Proof.Machine

/-! ### Layout records -/

/-- The race detector's part of a warp's read of `n` bytes, sector by sector (R327). -/
def raceRead (s : State) (who : Who) (va n : Nat) : Res Unit :=
  match findWarp s who.warp with
  | none => .ok s ()
  | some w => (List.range (n / 32)).foldl (fun r k => r.bind fun s _ =>
      (laneCheck s w .load (va + 32 * k) 32 .read (lowLane w.em)).map fun _ => ()) (.ok s ())

/-- Payload words of a record at a virtual address, read as a load of the warp (R166, R327, R383). -/
def recordWords (s : State) (who : Who) (va n : Nat) : Res (List Nat) :=
  (raceRead s who va (8 * n)).bind fun s _ => loadPays s who va n

/-- The layout that eight words describe; none where R298 refuses it. -/
def layoutOf (w : List Nat) : Option Layout :=
  let x := fun k => w.getD k 0
  let esz := bitsAt (x 1) 0 2
  let space := bitsAt (x 1) 4 2
  let ext := (List.range 4).map fun k => bitsAt (x 2) (16 * k) 16
  let str := (List.range 4).map fun k => sxInt 64 (x (3 + k))
  if bitsAt (x 1) 32 32 == 0 && bitsAt (x 1) 6 10 == 0 && bitsAt (x 1) 2 2 == 0 && x 7 == 0
      && space != 3 && (space == 2 || bitsAt (x 1) 16 16 == 0) && ext.all (fun e => e != 0)
      && x 0 % 2 ^ esz == 0 && str.all (fun t => t % ((2 ^ esz : Nat) : Int) == 0) then
    some ⟨x 0, bitsAt (x 1) 18 14, bitsAt (x 1) 16 2, space, esz, ext, str⟩
  else none

/-- Elements that a layout enumerates (R298). -/
def Layout.count (l : Layout) : Nat := l.ext.foldl (· * ·) 1

/-- Indices of element `n`, dimension 0 first (R298). -/
def idxOf : List Nat → Nat → List Nat
  | [], _ => []
  | e :: l, n => n % e :: idxOf l (n / e)

/-- Address of element `n` (R298). -/
def Layout.addr (l : Layout) (n : Nat) : Nat :=
  let off : Int := ((idxOf l.ext n).zip l.str).foldl (fun a p => a + (p.1 : Int) * p.2) 0
  wrapNat 64 ((l.base : Int) + off)

def layoutFlt : LFault := flt .instruction 10

/-! ### Decoder jobs -/

/-- Fields of a job record (R395). -/
def jobSrc (w : List Nat) : Nat := bitsAt (w.getD 0 0) 0 56
def jobNel (w : List Nat) : Nat := bitsAt (w.getD 1 0) 32 32
def jobSlen (w : List Nat) : Nat := bitsAt (w.getD 1 0) 0 32
def jobMode (w : List Nat) : Nat := bitsAt (w.getD 2 0) 56 2
def jobTbl (w : List Nat) : Nat := bitsAt (w.getD 2 0) 32 19
def jobDst (w : List Nat) : Nat := bitsAt (w.getD 2 0) 0 19

/-- Bytes of one element in the scratchpad (R396). -/
def jobElem (w : List Nat) : Nat := if jobMode w == 0 then 1 else 8

/-- R395 and R397: reserved fields, MODE, counts, the table's place, and for CPYX the output. -/
def jobOk (w : List Nat) (chan : Bool) : Bool :=
  let x := fun k => w.getD k 0
  bitsAt (x 0) 56 8 == 0 && jobNel w != 0 && jobSlen w != 0
    && bitsAt (x 2) 58 6 == 0 && bitsAt (x 2) 51 5 == 0 && bitsAt (x 2) 19 13 == 0
    && jobMode w != 3 && jobTbl w % 64 == 0 && x 6 == 0 && x 7 == 0
    && (chan || (decide (jobDst w + jobElem w * jobNel w ≤ spadTop)
        && (jobMode w == 0 || jobDst w % 8 == 0)))

def jobFlt (off : Nat) : LFault := fltAt .instruction 14 off

/-- The eight words of a record in the scratchpad. -/
def spadWords (s : State) (p : Pos) (asid off : Nat) : List Nat :=
  (List.range 8).map fun k => spadGet s p asid (off + 8 * k) 8

/-- The lowest free decoder slot of a core (R395). -/
def freeDec (c : Core) : Option Nat :=
  (List.range 16).find? fun k => !(c.decs.any fun j => j.slot == k)

/-- A new job of warp `w` in slot `k` (R380, R395). -/
def newDec (c : Core) (w : Warp) (k off : Nat) (ws : List Nat) (chan : Bool) (g : Gauge) : DecJob where
  slot := k
  seq := c.seq
  asid := w.asid
  warp := w.uid
  wnum := w.wnum
  st := .queued
  off := off
  words := ws
  tab := []
  chan := chan
  gauge := g
  sup := w.sup
  bitPos := 0
  prod := 0
  tm := wordN (ws.getD 3 0)
  delta := wordN (ws.getD 4 0)
  buf := []
  ended := false
  err := false
  flt := none
  orphan := 0

end Sys2Proof.Machine
end

