-- ==== Sys2Proof/Machine/Queues.lean ====
section
/-! DEFINITION. ENQ, DEQ and CHBIND (spec/14 R344, R347-R350). -/

namespace Sys2Proof.Machine

/-- The descriptor's address from BASE and IDX, operands 0 and 1 (R65, R344). -/
def queueAddr (r : Ready) (m : MemOp) : Except LFault Nat := laneAddr r 0 m 8 false 0

/-- ENQ and DEQ: once for the warp, on lanes 0 to 8 of row `d` whatever EM holds (R344). -/
def queueIns (g : Guard) (dsts : List Dst) (d : BitVec 8) (m : MemOp) : Ins :=
  { insNo g m.srcs with
    dsts := dsts, shape := some false, pushes := !dsts.isEmpty, reads := [.v d], chk := fun w => regExists w (.v d) }

/-- ENQ (R344). -/
def execEnq (g : Guard) (try_ : Bool) (d : BitVec 8) (m : MemOp) (s : State) :
    Host.Outcome State Fault Refusal :=
  issue s (queueIns g [] d m) fun s' r =>
    let size := srcsSize m.srcs
    let row := rowVal r.w d.toNat
    match queueAddr r m with
    | .error f => faultReady s' r f size
    | .ok va =>
      -- the descriptor's fault comes before any effect, and a ring's leaves none
      let (t, w) := released s' r.w 8
      match (enqStep t (some w) w.who va ((List.range 7).map (rowAt row)) (bitsAt (rowAt row 7).n 8 8)).undo s' with
      | .bad t f => faultReady t r f size
      | .hold h l => holdAt s r.w.uid h l
      | .ok t ok =>
        if ok || try_ then
          updWarp t r.w.uid fun w => advance (setV w d.toNat (setAt row 8 (vBool ok))) size
        else holdAt s r.w.uid .queueFull 0

/-- DEQ (R344): the latch entry is the whole row. -/
def execDeq (g : Guard) (try_ : Bool) (d : BitVec 8) (m : MemOp) (s : State) :
    Host.Outcome State Fault Refusal :=
  issue s (queueIns g [.reg (.v d)] d m) fun s' r =>
    let size := srcsSize m.srcs
    match queueAddr r m with
    | .error f => faultReady s' r f size
    | .ok va =>
      match deqStep s' (some r.w) r.w.who va with
      | .bad t f => faultReady t r f size
      | .hold h l => holdAt s r.w.uid h l
      | .ok t l =>
        if l.isNone && !try_ then holdAt s r.w.uid .queueFull 0
        else updWarp t r.w.uid fun w =>
          let row := (l.getD (List.replicate 8 vNil)) ++ [vBool l.isSome] ++ (rowVal w d.toNat).drop 9
          advance (pushLatch (setV w d.toNat row) (.vec row)) size

/-! ### CHBIND (R347-R350) -/

/-- What a binding leaves behind when it is replaced, freed or dropped (R348, R349): a partial line of .enq
is padded and enqueued, a FIFO loses its reader or the row reserved in it, a decoder job is dropped. -/
def chanDrop (s : State) (w : Warp) (n : BitVec 4) : Res Unit :=
  let c := getChan w n
  let free := fun (s : State) => putChan s w.uid n Chan.freed
  match c.kind with
  | .enq =>
    if c.buf.isEmpty then .ok (free s) ()
    else (chanFlush s w c).bind fun s ok => if ok then .ok (free s) () else .hold .queueFull 0
  | .fin =>
    let others := (w.chans.zipIdx).any fun p => p.2 != n.toNat && p.1.kind == .fin
      && p.1.pos == c.pos && p.1.desc == c.desc
    let k := c.desc % 4
    let f := getFifo s c.pos w.asid k
    .ok (free (if others then s else setFifo s c.pos w.asid k { f with reader := none })) ()
  | .dec =>
    .ok (free (updCore s c.pos fun x => { x with decs := x.decs.filter fun j => j.seq != c.job || !j.chan })) ()
  | .fout =>
    let k := bitsAt c.desc 16 2
    let f := getFifo s c.pos w.asid k
    .ok (free (if c.resv then setFifo s c.pos w.asid k { f with resv := f.resv - 1 } else s)) ()
  | _ => .ok (free s) ()

/-- Drop every binding of a warp (R348: it retires or parks at JOIN). -/
def chansDrop (s : State) (u : Nat) : Res Unit :=
  (List.range 16).foldl (fun r k => r.bind fun s _ =>
    match findWarp s u with
    | some w => chanDrop s w (BitVec.ofNat 4 k)
    | none => .ok s ()) (.ok s ())

/-- Make a binding (R347-R350, R395). -/
def chanBind (s : State) (w : Warp) (k : ChKind) (v : Val) : Res Chan :=
  let c : Chan := ⟨k, v.n, w.pos, [], false, 0, false, v.tag == .raw⟩
  let x := v.n
  match k with
  | .fin =>
    let f := getFifo s w.pos w.asid x
    if (f.reader.getD w.uid) != w.uid then .bad s (flt .instruction 24)
    else .ok (setFifo s w.pos w.asid x { f with reader := some w.uid }) c
  | .fout =>
    if bitsAt x 10 4 != 0 then .bad s (flt .place 0)
    else match placeOf s w.asid w.pos (bitsAt x 0 14) with
      | .ok p => .ok s { c with pos := p }
      | .error f => .bad s f
  | .dec =>
    let ws := spadWords s w.pos w.asid x
    let core := getCore s w.pos
    if !jobOk ws true then .bad s (jobFlt x)
    else match freeDec core with
      | none => .hold .copySlots 0
      | some slot =>
        .ok (putCore s { core with
          seq := core.seq + 1
          decs := core.decs ++ [newDec core w slot x ws true .none] }) { c with job := core.seq }
  | _ => .ok s c

/-- CHBIND. A descriptor that is neither INT nor RAW is a type fault, the place operand of .fout too: DESIGN CHOICE (log 34).
A handler that binds a channel anew whose slot a diverting instruction has reserved takes that instruction's push in the new
binding: DESIGN CHOICE (log 34). -/
def execChbind (g : Guard) (kind : ChKind) (ch : BitVec 4) (a : Src) (s : State) :
    Host.Outcome State Fault Refusal :=
  onceIns s { insNo g [a] with shape := some false } fun s r =>
    let v := r.val 0 0
    if v.tag != .int && v.tag != .raw then .bad s typeFlt
    else if !chanDescOk kind v.n then .bad s operandFlt
    else (chanDrop s r.w ch).bind fun t _ =>
      match findWarp t r.w.uid with
      | none => .ok t []
      | some w => match chanBind t w kind v with
        | .ok t c => .ok (putChan t r.w.uid ch c) []
        | .bad _ f => .bad s f
        | .hold h l => .hold h l

end Sys2Proof.Machine
end

