-- ==== Sys2Proof/Machine/Elems.lean ====
section
/-! DEFINITION. Moving the elements that layout records name (spec/12 R297, R298, spec/16 R384, R385). -/

namespace Sys2Proof.Machine

/-- Where an element lies: virtual memory, or a space of a core's windows at an offset. -/
inductive Place where
  | mem (va : Nat)
  | win (p : Pos) (sp off : Nat)
  deriving DecidableEq, Repr

/-- The place of element `n` of a layout, seen from the core of `who` (R297, R384). -/
def elemPlace (s : State) (who : Who) (l : Layout) (n : Nat) : Except LFault Place :=
  let a := l.addr n
  match l.space with
  | 0 => .ok (.mem a)
  | 1 => if a + 2 ^ l.esz ≤ spadTop then .ok (.win who.pos 0 a) else .error (spadFlt a)
  | _ => match placeOf s who.asid who.pos l.place with
    | .ok p => .ok (.win p l.wsp a)
    | .error f => .error { f with fva := a }

/-- Detail of a machine check met by the reader (R445). -/
def Who.det (w : Who) : Nat := if w.eng then 6 else 0

/-- Read one element (R385): bytes as ⟨RAW⟩, or with `tg` the whole tagged word. -/
def readElem (s : State) (who : Who) (pl : Place) (esz : Nat) (tg : Bool) : Res Val :=
  let n := 2 ^ esz
  match pl with
  | .mem va => (checkVa s who .load va n).bind fun s t =>
    if tg then readVal s who who.det va t
    else Res.at ((physLoad s who who.det (t.da / 8 * 8) 8).map fun x =>
      vRaw (bitsAt x (8 * (t.da % 8)) (8 * n))) va
  | .win p sp off => (winRead s who p sp off n).map fun v => if tg && sp == 1 then v else vRaw v.n

/-- Write one element (R385). A tagged page's word that is touched without TG becomes RAW. -/
def writeElem (s : State) (who : Who) (pl : Place) (esz : Nat) (tg : Bool) (v : Val) : Res Unit :=
  let n := 2 ^ esz
  let v := if tg then v else vRaw v.n
  match pl with
  | .mem va => (checkVa s who .store va n).bind fun s t =>
    (if n == 8 then writeVal s who va t v else writePart s who va t n v.n).bind fun s _ =>
      .ok (if who.eng then clearShadow s who t.pte va n else s) ()
  | .win p sp off => winWrite s who p sp off n v

/-- Read element `n` of a layout. -/
def layRead (s : State) (who : Who) (l : Layout) (n : Nat) (tg : Bool) : Res Val :=
  match elemPlace s who l n with
  | .ok pl => readElem s who pl l.esz tg
  | .error f => .bad s f

def layWrite (s : State) (who : Who) (l : Layout) (n : Nat) (tg : Bool) (v : Val) : Res Unit :=
  match elemPlace s who l n with
  | .ok pl => writeElem s who pl l.esz tg v
  | .error f => .bad s f

/-- Elements of one beat of 32 words (R292). -/
def beatElems (esz : Nat) : Nat := 256 / 2 ^ esz

/-- Count the access groups of elements `a` to `b - 1` of a layout in the scratchpad of core `p` (R292, R298): `k` bounds
the beats. -/
def beatGroups (s : State) (p : Pos) (l : Layout) (b : Nat) : Nat → Nat → State
  | 0, _ => s
  | k + 1, a =>
    if b ≤ a then s
    else
      let e := min b ((a / beatElems l.esz + 1) * beatElems l.esz)
      beatGroups (bankGroup s p ((List.range (e - a)).map fun i => l.addr (a + i))) p l b k e

/-- The core whose scratchpad a layout of the accepting core names: its own, or by a window (R84, R297). -/
def layCore (s : State) (who : Who) (l : Layout) : Option Pos :=
  if l.space == 1 then some who.pos
  else if l.space == 2 && l.wsp == 0 then
    match placeOf s who.asid who.pos l.place with
    | .ok p => some p
    | .error _ => none
  else none

/-- The access groups of elements `a` to `b - 1` of a layout: none in another space. -/
def layGroups (s : State) (who : Who) (l : Layout) (a b : Nat) : State :=
  match layCore s who l with
  | some p => beatGroups s p l b (b - a) a
  | none => s

end Sys2Proof.Machine
end

