-- ==== Sys2Proof/Machine/Matrix.lean ====
section
/-! DEFINITION. The matrix instructions as a warp issues them (spec/17 R407-R427). -/

namespace Sys2Proof.Machine

/-! ### Tiles (R407-R409) -/

/-- Bytes per element of a tile format. -/
def tileSize (fmt : Nat) : Nat := if fmt == 3 || fmt == 4 || fmt == 5 then 1 else 2

def shapeOf (c : CoreState) (t : Nat) : Shape := c.shapes.getD t Shape.none

/-- The tile an operand names on the executing core (R409). -/
def tileOf (w : Warp) (v : Val) : Except LFault Nat :=
  if v.tag != .tile then .error typeFlt
  else if v.n / 2 ^ 32 * 2 ^ 32 != posBits w.pos then .error (flt .place 2)
  else .ok (v.n % 32)

/-- A matrix instruction: once, without a destination (R416). -/
def mxIns (g : Guard) (srcs : List Src) : Ins := { insNo g srcs with shape := some false }

/-- An INT or RAW operand. -/
def intRaw (v : Val) : Bool := v.tag == .int || v.tag == .raw

/-- The shape a word describes (R417). -/
def shapeWord (x : Nat) : Option Shape :=
  let f := bitsAt x 16 4
  let r := bitsAt x 8 8
  let c := bitsAt x 0 8
  if x < 2 ^ 20 && 1 ≤ f && f ≤ 6 && 1 ≤ r && r ≤ 128 && 1 ≤ c && c ≤ 128 && r * c * tileSize f ≤ 8192 then
    some ⟨f, r, c⟩
  else none

def withTile {α : Type} (s : State) (w : Warp) (v : Val) (f : Nat → Res α) : Res α :=
  match tileOf w v with
  | .ok t => f t
  | .error e => .bad s e

/-- A write to a tile waits for its locks (R414). -/
def tileFree {α : Type} (s : State) (w : Warp) (t : Nat) (f : Res α) : Res α :=
  if tileLocked s w.pos w.asid t then .hold .tile (tileCode w.pos t) else f

/-- TSHAPE (R417). -/
def execTshape (g : Guard) (t sh : Src) (s : State) : Host.Outcome State Fault Refusal :=
  onceIns s (mxIns g [t, sh]) fun s r =>
    withTile s r.w (r.val 0 0) fun k =>
      if !intRaw (r.val 1 0) then .bad s typeFlt
      else match shapeWord (r.val 1 0).n with
        | none => .bad s (flt .instruction 16)
        | some x => tileFree s r.w k <|
          .ok (updCoreCtx s r.w.pos r.w.asid fun c => { c with shapes := setAt c.shapes k x }) []

/-- The layout record of TLD and TST and its checks against the tile (R418). -/
def tileRecord (s : State) (w : Warp) (v : Val) (sh : Shape) : Res Layout :=
  if !(v.tag == .int || v.tag == .raw || v.tag == .ref) then .bad s typeFlt
  else if v.n < 2 ^ 56 && v.n % 64 != 0 then .bad s (fltAt .protection 1 v.n)
  else if sh.fmt == 0 then .bad s (flt .instruction 16)
  else (recordWords s w.who v.n 8).bind fun s ws => match layoutOf ws with
    | none => .bad s layoutFlt
    | some l =>
      if 2 ^ l.esz == tileSize sh.fmt && l.count == sh.rows * sh.cols then .ok s l else .bad s layoutFlt

/-- The warp's own access to an element is checked by the race detector (R327, R418). -/
def laneElem {α : Type} (s : State) (w : Warp) (l : Layout) (n : Nat) (k : AKind) (u : RaceUse)
    (f : State → Res α) : Res α :=
  match elemPlace s w.who l n with
  | .ok (.mem va) => (laneCheck s w k va (2 ^ l.esz) u (lowLane w.em)).bind fun s _ => f s
  | _ => f s

/-- Elements `n` onward of TLD: memory to tile. -/
def tldLoop (w : Warp) (t sz : Nat) (l : Layout) : Nat → Nat → State → Res Unit
  | 0, _, s => .ok s ()
  | k + 1, n, s =>
    (laneElem s w l n .load .read fun s => layRead s w.who l n false).bind fun s v =>
      tldLoop w t sz l k (n + 1) (updCoreCtx s w.pos w.asid fun c =>
        { c with tiles := cellsSet c.tiles (t * 0x2000 + n * sz) sz v.n })

/-- Elements `n` onward of TST: tile to memory. -/
def tstLoop (w : Warp) (t sz : Nat) (l : Layout) : Nat → Nat → State → Res Unit
  | 0, _, s => .ok s ()
  | k + 1, n, s =>
    let v := vRaw (cellsGet (coreCtx s w.pos w.asid).tiles (t * 0x2000 + n * sz) sz)
    (laneElem s w l n .store .write fun s => layWrite s w.who l n false v).bind fun s _ =>
      tstLoop w t sz l k (n + 1) s

/-- TLD (R418). -/
def execTld (g : Guard) (t rec : Src) (s : State) : Host.Outcome State Fault Refusal :=
  onceIns s (mxIns g [t, rec]) fun s r =>
    withTile s r.w (r.val 0 0) fun k =>
      let sh := shapeOf (coreCtx s r.w.pos r.w.asid) k
      (tileRecord s r.w (r.val 1 0) sh).bind fun s l => tileFree s r.w k <|
        (tldLoop r.w k (tileSize sh.fmt) l l.count 0 s).bind fun s _ =>
          .ok (layGroups s r.w.who l 0 l.count) []

/-- TST (R418). -/
def execTst (g : Guard) (t rec : Src) (s : State) : Host.Outcome State Fault Refusal :=
  onceIns s (mxIns g [t, rec]) fun s r =>
    withTile s r.w (r.val 0 0) fun k =>
      let sh := shapeOf (coreCtx s r.w.pos r.w.asid) k
      (tileRecord s r.w (r.val 1 0) sh).bind fun s l =>
        (tstLoop r.w k (tileSize sh.fmt) l l.count 0 s).bind fun s _ =>
          .ok (layGroups s r.w.who l 0 l.count) []

/-! ### Acceptance (R413, R419-R425) -/

/-- On whose behalf an instruction is accepted: a warp's own, or a CPYM follow-on (R389). -/
structure Accept where
  pos : Pos
  asid : Nat
  warp : Nat
  batch : BitVec 31
  nt : Bool
  follow : Bool

/-- The warp's own acceptance into its open batch. -/
def Warp.accept (w : Warp) : Accept := ⟨w.pos, w.asid, w.uid, w.opn, w.nt, false⟩

/-- Put an instruction into the unit's queue; a full queue makes its warp wait (R413). -/
def acceptWork (s : State) (a : Accept) (op : MOp) : Res Unit :=
  if 16 ≤ (getCore s a.pos).mq.length then .hold .unitQueue 0
  else .ok (updCore s a.pos fun c => { c with
    mq := c.mq ++ [⟨a.warp, a.asid, a.batch, op, a.nt, a.follow, 0, false, false⟩] }) ()

/-- The token is at the unit (R411). -/
def tokenHome (s : State) (p : Pos) (asid acc : Nat) : Bool :=
  ((coreCtx s p asid).token.getD acc none).isNone

def accTyOf (s : State) (p : Pos) (asid acc : Nat) : AccTy := (coreCtx s p asid).accTy.getD acc .f32

/-- Formats of the tiles, the k-group size and an integer accumulator (R419). -/
def pairInfo : Pair → Nat × Nat × Nat × Bool
  | .bf16 => (1, 1, 8, false)
  | .f16 => (2, 2, 8, false)
  | .e4m3 => (3, 3, 16, false)
  | .e4m3e5m2 => (3, 4, 16, false)
  | .e5m2e4m3 => (4, 3, 16, false)
  | .e5m2 => (4, 4, 16, false)
  | .i8 => (5, 5, 16, true)
  | .e4m3k8 => (3, 6, 16, false)
  | .e5m2k8 => (4, 6, 16, false)

def pairTy (p : Pair) : AccTy := if (pairInfo p).2.2.2 then .i32 else .f32

/-- Elements of tB's rows (R420). -/
def tbCols (p : Pair) (sh : Shape) : Nat := if (pairInfo p).2.1 == 6 then 8 * sh.cols else sh.cols

/-- Checks 2 to 5 of R420. -/
def mmaFault (s : State) (p : Pos) (asid : Nat) (pair : Pair) (set blk : Bool) (acc ta tb : Nat) :
    Option LFault :=
  let c := coreCtx s p asid
  let a := shapeOf c ta
  let b := shapeOf c tb
  if a.fmt != (pairInfo pair).1 || b.fmt != (pairInfo pair).2.1 then some (flt .instruction 17)
  else if 64 < a.rows || 64 < b.rows || tbCols pair b != a.cols || a.cols % 8 != 0 || a.cols < 8
      || 128 < a.cols || (blk && a.cols != 32) then some (flt .instruction 16)
  else if !tokenHome s p asid acc then some ownerFlt
  else if !set && accTyOf s p asid acc != pairTy pair then some (flt .instruction 18)
  else none

/-- Accept an MMA: the checks, the queue, the read locks (R414, R420). -/
def acceptMma (s : State) (a : Accept) (pair : Pair) (set blk : Bool) (acc ta tb : Nat) : Res Unit :=
  match mmaFault s a.pos a.asid pair set blk acc ta tb with
  | some f => .bad s f
  | none => (acceptWork s a (.mma pair set acc ta tb)).bind fun s _ =>
    .ok (updCore s a.pos fun c => { c with
      locks := c.locks ++ [⟨ta, a.asid, a.warp, a.batch⟩, ⟨tb, a.asid, a.warp, a.batch⟩] }) ()

/-- MMA (R420). -/
def execMma (g : Guard) (pair : Pair) (set blk : Bool) (acc : BitVec 3) (ta tb : Src) (s : State) :
    Host.Outcome State Fault Refusal :=
  onceIns s (mxIns g [ta, tb]) fun s r =>
    withTile s r.w (r.val 0 0) fun a => withTile s r.w (r.val 1 0) fun b =>
      (acceptMma s r.w.accept pair set blk acc.toNat a b).map fun _ => []

/-- A scale vector's place (R422). -/
def scaleOk (f32 : Bool) (off : Nat) : Bool :=
  if f32 then decide (off + 256 ≤ spadTop) && off % 4 == 0 else decide (off + 64 ≤ spadTop)

/-- Accept an SACC (R422). -/
def acceptSacc (s : State) (a : Accept) (f32 : Bool) (ad ap : Nat) (sa sb : Val) : Res Unit :=
  if !intRaw sa || !intRaw sb then .bad s typeFlt
  else if !tokenHome s a.pos a.asid ad || !tokenHome s a.pos a.asid ap then .bad s ownerFlt
  else if accTyOf s a.pos a.asid ad != .f32 || accTyOf s a.pos a.asid ap != .f32 then
    .bad s (flt .instruction 18)
  else if !scaleOk f32 sa.n then .bad s (spadFlt sa.n)
  else if !scaleOk f32 sb.n then .bad s (spadFlt sb.n)
  else acceptWork s a (.sacc f32 ad ap sa.n sb.n)

/-- SACC (R422). -/
def execSacc (g : Guard) (f32 : Bool) (ad ap : BitVec 3) (sa sb : Src) (s : State) :
    Host.Outcome State Fault Refusal :=
  onceIns s (mxIns g [sa, sb]) fun s r =>
    (acceptSacc s r.w.accept f32 ad.toNat ap.toNat (r.val 0 0) (r.val 1 0)).map fun _ => []

/-- ACCZ (R423). -/
def execAccz (g : Guard) (i32 : Bool) (acc : BitVec 3) (s : State) : Host.Outcome State Fault Refusal :=
  onceIns s (mxIns g []) fun s r =>
    if !tokenHome s r.w.pos r.w.asid acc.toNat then .bad s ownerFlt
    else (acceptWork s r.w.accept (.accz i32 acc.toNat)).map fun _ => []

/-- Bytes of an output element, and the accumulator type it takes (R425). -/
def outSize : OutFmt → Nat
  | .f32 | .i32 => 4
  | .bf16 | .f16 => 2
  | .e4m3 | .e5m2 | .i8 => 1

def outTy : OutFmt → AccTy
  | .i32 | .i8 => .i32
  | _ => .f32

/-- A descriptor word of ACCOUT: stride, columns and rows (R425). -/
def outDesc (of_ : OutFmt) (x : Nat) : Option (Nat × Nat × Nat) :=
  let st := bitsAt x 20 19
  let c := bitsAt x 7 7
  let r := bitsAt x 0 7
  if bitsAt x 39 25 == 0 && bitsAt x 14 6 == 0 && 1 ≤ c && c ≤ 64 && 1 ≤ r && r ≤ 64
      && st % outSize of_ == 0 then some (st, c, r)
  else none

/-- The gauge field of an instruction that accepts zr for none. -/
def optGauge (w : Warp) (x : Src) (v : Val) : Except LFault Gauge :=
  if x == .reg .zr then .ok .none else gaugeOf w v

/-- ACCOUT (R425). -/
def execAccout (g : Guard) (of_ : OutFmt) (rm acc : BitVec 3) (off gauge desc : Src) (s : State) :
    Host.Outcome State Fault Refusal :=
  onceIns s (mxIns g [off, gauge, desc]) fun s r =>
    let o := r.val 0 0
    let d := r.val 2 0
    if !intRaw o || !intRaw d then .bad s typeFlt
    else match outDesc of_ d.n with
      | none => .bad s (flt .instruction 19)
      | some (st, c, n) =>
        if accTyOf s r.w.pos r.w.asid acc.toNat != outTy of_ then .bad s (flt .instruction 18)
        else if spadTop < o.n + (n - 1) * st + c * outSize of_ then .bad s (spadFlt o.n)
        else match optGauge r.w gauge (r.val 1 0) with
          | .error f => .bad s f
          | .ok ga => (gaugeCheck s r.w.who ga).bind fun s _ =>
            if !tokenHome s r.w.pos r.w.asid acc.toNat then .bad s ownerFlt
            else
              let m : BitVec 3 := if rm == 7#3 then r.w.rm else rm
              (acceptWork s r.w.accept (.accout of_ m acc.toNat o.n ga st c n r.w.s43 r.w.s52)).map
                fun _ => []

/-! ### Tokens (R424) -/

/-- The accumulators that accepted work names. -/
def MOp.accs : MOp → List Nat
  | .mma _ _ acc _ _ => [acc]
  | .sacc _ ad ap _ _ => [ad, ap]
  | .accout _ _ acc _ _ _ _ _ _ _ => [acc]
  | .accz _ acc => [acc]

/-- The unit has no accepted work of the context on an accumulator. -/
def accIdle (s : State) (p : Pos) (asid acc : Nat) : Bool :=
  !((getCore s p).mq.any fun m => m.asid == asid && m.op.accs.contains acc)

def setToken (s : State) (p : Pos) (asid acc : Nat) (t : Option Nat) : State :=
  updCoreCtx s p asid fun c => { c with token := setAt c.token acc t }

/-- ACQ (R424). -/
def execAcq (g : Guard) (acc : BitVec 3) (s : State) : Host.Outcome State Fault Refusal :=
  onceIns s (mxIns g []) fun s r =>
    match (coreCtx s r.w.pos r.w.asid).token.getD acc.toNat none with
    | some u => if u == r.w.uid then .ok s [] else .bad s ownerFlt
    | none =>
      if accIdle s r.w.pos r.w.asid acc.toNat then
        .ok (setToken s r.w.pos r.w.asid acc.toNat (some r.w.uid)) []
      else .hold .batch 0

/-- REL (R424): a release at core scope. -/
def execRel (g : Guard) (acc : BitVec 3) (s : State) : Host.Outcome State Fault Refusal :=
  onceIns s (mxIns g []) fun s r =>
    if holdsToken s r.w.pos r.w.asid r.w.uid acc.toNat then
      .ok (setToken (noteRelease s r.w.uid 3) r.w.pos r.w.asid acc.toNat none) []
    else .bad s ownerFlt

/-! ### Batches (R426) -/

/-- MFENCE. -/
def execMfence (g : Guard) (d : Dst) (s : State) : Host.Outcome State Fault Refusal :=
  onceIns s { insOf g d [] with shape := some false } fun s r =>
    .ok (closeBatch s r.w.uid) [vNat r.w.opn.toNat]

/-- Batch `n` of a warp is complete: OPEN is fewer than `dist` ahead of DONE. -/
def batchDoneAt (s : State) (u dist : Nat) : Bool :=
  match findWarp s u with
  | some w => decide ((w.opn - w.done).toNat < dist)
  | none => true

/-- MWAIT. A wait for the open batch closes it at once. -/
def execMwait (g : Guard) (n : Src) (s : State) : Host.Outcome State Fault Refusal :=
  issue s (mxIns g [n]) fun t r =>
    let size := srcsSize [n]
    let v := r.val 0 0
    if v.tag != .int || 2 ^ 31 ≤ v.n then faultReady t r (flt .arithmetic 4) size
    else
      let dist := (r.w.opn - BitVec.ofNat 31 v.n).toNat
      if 2 ^ 30 ≤ dist then faultReady t r (flt .arithmetic 4) size
      else
        let t' := if dist == 0 then closeBatch t r.w.uid else t
        if batchDoneAt t' r.w.uid (max dist 1) then updWarp t' r.w.uid fun w => advance w size
        else holdAt (if dist == 0 then closeBatch s r.w.uid else s) r.w.uid .batch 0

/-! ### The magnitude table (R427) -/

/-- An accepted MMA of the context uses the table. -/
def k8Busy (s : State) (p : Pos) (asid : Nat) : Bool :=
  (getCore s p).mq.any fun m => m.asid == asid && match m.op with
    | .mma pr _ _ _ _ => (pairInfo pr).2.1 == 6
    | _ => false

/-- CBLD (R157, R427). All 256 rows change in one step, which every warp of the core sees at once: DESIGN CHOICE (log 55). -/
def execCbld (g : Guard) (off : Src) (s : State) : Host.Outcome State Fault Refusal :=
  onceIns s (mxIns g [off]) fun s r =>
    let v := r.val 0 0
    if !intRaw v then .bad s typeFlt
    else if v.n % 8 != 0 || 0x7F800 < v.n then .bad s (spadFlt v.n)
    else
      let rows := (List.range 256).map fun m => spadGet s r.w.pos r.w.asid (v.n + 8 * m) 8
      if rows.any fun x => decide (2 ^ 33 ≤ x) then .bad s (flt .instruction 20)
      else if k8Busy s r.w.pos r.w.asid then .hold .batch 0
      else .ok (updCoreCtx s r.w.pos r.w.asid fun c => { c with k8 := rows }) []

end Sys2Proof.Machine
end

