-- ==== Sys2Proof/Machine/MatrixUnit.lean ====
section
/-! DEFINITION. The matrix unit at work: MMA, SACC, ACCZ, ACCOUT, halts and the matrix NaN trap (spec/17 R421-R430). -/

namespace Sys2Proof.Machine

/-! ### Elements -/

def accOff (acc i j : Nat) : Nat := acc * 0x4000 + 256 * i + 4 * j

def accGet (c : CoreState) (acc i j : Nat) : Nat := cellsGet c.acc (accOff acc i j) 4

def accSet (c : CoreState) (acc i j x : Nat) : CoreState :=
  { c with acc := cellsSet c.acc (accOff acc i j) 4 x }

/-- Bits of element `(i, k)` of a tile (R408). -/
def tileBits (c : CoreState) (t i k : Nat) : Nat :=
  let sh := shapeOf c t
  let sz := tileSize sh.fmt
  cellsGet c.tiles (t * 0x2000 + (i * sh.cols + k) * sz) sz

/-- The number format of a tile format. -/
def tileFmt (f : Nat) : Fmt :=
  match f with
  | 1 => .bf16 | 2 => .f16 | 3 => .e4m3 | 4 => .e5m2 | _ => .i8

/-- Element `k` of row `i` of an MMA operand in format `f` (R420). -/
def mmaElem (c : CoreState) (f t i k : Nat) : Fp :=
  if f == 6 then
    let code := tileBits c t i (k / 8)
    k8Fp (c.k8.getD (bitsAt code 8 8) 0) code (k % 8)
  else elemDecode (tileFmt f) (tileBits c t i k)

/-- The exact product and sum of R421, with its NaN cases. -/
def fpDot (c : CoreState) (fa fb ta tb i j : Nat) (ks : List Nat) (base : Fp) : Fp :=
  ks.foldl (fun z k => (Fp.add .rne z (Fp.mul (mmaElem c fa ta i k) (mmaElem c fb tb j k)).1).1) base

/-- The exact integer sum. -/
def intDot (c : CoreState) (ta tb i j : Nat) (ks : List Nat) : Int :=
  ks.foldl (fun z k => z + sxInt 8 (tileBits c ta i k) * sxInt 8 (tileBits c tb j k)) 0

/-- One element of one k-group: its new bits, AW, and whether it is a NaN. -/
def mmaCell (c : CoreState) (pair : Pair) (zero : Bool) (acc ta tb i j : Nat) (ks : List Nat) :
    Nat × Bool × Bool :=
  let old := if zero then 0 else accGet c acc i j
  let (fa, fb, _, int) := pairInfo pair
  if int then
    let e := sxInt 32 old + intDot c ta tb i j ks
    (wrapNat 32 e, decide (e < -(2 ^ 31) ∨ 2 ^ 31 ≤ e), false)
  else
    let b := (FpFmt.f32.round noSat .rne (fpDot c fa fb ta tb i j ks (FpFmt.f32.decode old))).1
    (b, false, FpFmt.f32.isNan b)

/-- Rows and columns in row-major order. -/
def cellsOf (m n : Nat) : List (Nat × Nat) :=
  (List.range m).flatMap fun i => (List.range n).map fun j => (i, j)

/-- What a stretch of work leaves: the core state, AW, and the first NaN element. -/
structure MRes where
  c : CoreState
  aw : Bool
  nan : Option (Nat × Nat)

/-- One element's outcome added to a result. -/
def MRes.put (r : MRes) (acc i j : Nat) (x : Nat × Bool × Bool) : MRes :=
  ⟨accSet r.c acc i j x.1, r.aw || x.2.1, if r.nan.isSome then r.nan else if x.2.2 then some (i, j) else none⟩

/-- The `k`s of group `g` (R421). -/
def groupKs (G K g : Nat) : List Nat := (List.range G).filterMap fun q =>
  if g * G + q < K then some (g * G + q) else none

def mmaGroup (c : CoreState) (pair : Pair) (set : Bool) (acc ta tb g : Nat) : MRes :=
  let a := shapeOf c ta
  let b := shapeOf c tb
  let ks := groupKs (pairInfo pair).2.2.1 a.cols g
  (cellsOf a.rows b.rows).foldl
    (fun r p => r.put acc p.1 p.2 (mmaCell r.c pair (set && g == 0) acc ta tb p.1 p.2 ks)) ⟨c, false, none⟩

def mmaGroups (c : CoreState) (pair : Pair) (ta : Nat) : Nat :=
  let G := (pairInfo pair).2.2.1
  ((shapeOf c ta).cols + G - 1) / G

/-- The scale of an entry (R422). -/
def scaleAt (s : State) (p : Pos) (asid : Nat) (f32 : Bool) (off i : Nat) : Fp :=
  if f32 then FpFmt.f32.decode (spadGet s p asid (off + 4 * i) 4)
  else e8m0Decode (spadGet s p asid (off + i) 1)

/-- SACC on every element (R422). -/
def saccAll (c : CoreState) (sa sb : Nat → Fp) (ad ap : Nat) : MRes :=
  (cellsOf 64 64).foldl (fun r p =>
    let prod := Fp.mul (Fp.mul (sa p.1) (FpFmt.f32.decode (accGet r.c ap p.1 p.2))).1 (sb p.2)
    let b := (FpFmt.f32.round noSat .rne
      (Fp.add .rne (FpFmt.f32.decode (accGet r.c ad p.1 p.2)) prod.1).1).1
    r.put ad p.1 p.2 (b, false, FpFmt.f32.isNan b)) ⟨c, false, none⟩

/-- The output format as a conversion (R425). -/
def outFmt : OutFmt → Fmt
  | .f32 => .f32 | .bf16 => .bf16 | .f16 => .f16 | .e4m3 => .e4m3 | .e5m2 => .e5m2
  | .i32 => .i32 | .i8 => .i8

/-- The patterns of one output row (R53, R425). -/
def outRow (c : CoreState) (of_ : OutFmt) (rm : BitVec 3) (s43 s52 : Bool) (acc r cols : Nat) : List Nat :=
  let bits := (List.range cols).map fun j => accGet c acc r j
  match of_ with
  | .f32 | .i32 => bits
  | .i8 => bits.map fun b => (convElem .i8 ⟨s43, s52⟩ .rne (.int (sxInt 32 b))).1
  | _ =>
    let arg := fun b => Num.fp (FpFmt.f32.decode b)
    let ds := (List.range 64).map fun j => match bits[j]? with
      | some b => srDiscard (outFmt of_) (arg b)
      | none => (0, 0)
    (bits.zipIdx).map fun p =>
      (convElem (outFmt of_) ⟨s43, s52⟩
        (if rm == 5#3 then .sr (srDecide ds p.2) else Rnd.ofCode rm.toNat) (arg p.1)).1

/-- The first NaN pattern of a row. -/
def rowNan (of_ : OutFmt) (l : List Nat) : Option Nat :=
  (l.zipIdx).findSome? fun p => if elemIsNan (outFmt of_) p.1 then some p.2 else none

/-! ### The unit's steps -/

/-- NREC (R429). -/
def nrecOf (m : MWork) (eng acc kgrp : Nat) (at_ : Nat × Nat) : Word :=
  wordN (2 ^ 63 + eng * 2 ^ 52 + acc * 2 ^ 49 + kgrp * 2 ^ 45 + at_.1 * 2 ^ 39 + at_.2 * 2 ^ 33
    + m.batch.toNat)

/-- Replace the instruction at the head of a core's queue. -/
def putHead (s : State) (p : Pos) (m : MWork) : State :=
  updCore s p fun c => { c with mq := m :: c.mq.drop 1 }

/-- A NaN halts the instruction at the head (R428): it is left as `m`. -/
def haltHead (s : State) (p : Pos) (m : MWork) (nrec : Word) : State :=
  let s := putHead s p { m with halted := true, nt := false }
  let s := setFpWord s m.warp fun w => { w with nt := false }
  syncBatch (updWarp s m.warp fun w =>
    { w with nrec := nrec, mtraps := w.mtraps ++ [⟨flt .arithmetic 1, p⟩] }) m.warp

/-- The instruction at the head has ended: it leaves the queue. -/
def endHead (s : State) (p : Pos) (m : MWork) : State :=
  let s := updCore s p fun c => { c with mq := c.mq.drop 1 }
  let s := if m.aw then updWarp s m.warp fun w => { w with awDue := m.batch :: w.awDue } else s
  syncBatch s m.warp

/-- k-groups from `m.pos` on, up to a halt (R421, R428). -/
def mmaRun (p : Pos) (pair : Pair) (set : Bool) (acc ta tb n : Nat) : Nat → State → MWork → State
  | 0, s, m =>
    let s := if set then updCoreCtx s p m.asid fun c => { c with accTy := setAt c.accTy acc (pairTy pair) }
      else s
    endHead s p m
  | k + 1, s, m =>
    let g := m.pos
    let r := mmaGroup (coreCtx s p m.asid) pair set acc ta tb g
    let s := updCoreCtx s p m.asid fun _ => r.c
    let m := { m with pos := g + 1, aw := m.aw || r.aw }
    match r.nan with
    | some e => if m.nt then haltHead s p m (nrecOf m (if m.follow then 3 else 0) acc g e)
      else mmaRun p pair set acc ta tb n k s m
    | none => mmaRun p pair set acc ta tb n k s m

/-- The state of the context that the work belongs to has streamed out of the core. -/
def workAway (c : Core) (m : MWork) : Bool := c.sts.any fun x => x.asid == m.asid && x.place == .memory

/-- The unit's head, when it may run: it is not halted, and its context's state is on the core, live or as the shadow
copy (R430). -/
def unitHead (s : State) (p : Pos) : Option MWork :=
  match (getCore s p).mq with
  | m :: _ => if m.halted || workAway (getCore s p) m then none else some m
  | [] => none

/-- The unit has nothing to run: work that an SRET resumed after its context streamed out asks for that context
(log 44). -/
def unitIdle (s : State) (p : Pos) : State :=
  match (getCore s p).mq with
  | m :: _ => if m.halted then s else wantCtx s p m.asid
  | [] => s

/-- MMA (R421). -/
def execMmaExecution (p : Pos) (s : State) : Host.Outcome State Fault Refusal :=
  .next (match unitHead s p with
    | some m => (match m.op with
      | .mma pair set acc ta tb =>
        let n := mmaGroups (coreCtx s p m.asid) pair ta
        mmaRun p pair set acc ta tb n (n - m.pos) s m
      | _ => s)
    | none => unitIdle s p)

/-- SACC (R422): a resumed one has nothing left to do. -/
def execSaccExecution (p : Pos) (s : State) : Host.Outcome State Fault Refusal :=
  .next (match unitHead s p with
    | some m => (match m.op with
      | .sacc f32 ad ap sa sb =>
        if m.pos != 0 then endHead s p m
        else
          let r := saccAll (coreCtx s p m.asid) (scaleAt s p m.asid f32 sa) (scaleAt s p m.asid f32 sb) ad ap
          let s := updCoreCtx s p m.asid fun _ => r.c
          let m := { m with pos := 1 }
          (match r.nan with
          | some e => if m.nt then haltHead s p m (nrecOf m (if m.follow then 3 else 1) ad 0 e)
            else endHead s p m
          | none => endHead s p m)
      | _ => s)
    | none => unitIdle s p)

/-- ACCZ (R423). -/
def execAcczExecution (p : Pos) (s : State) : Host.Outcome State Fault Refusal :=
  .next (match unitHead s p with
    | some m => (match m.op with
      | .accz i32 acc =>
        endHead (updCoreCtx s p m.asid fun c => { c with
          acc := c.acc.filter fun x => !(decide (acc * 0x4000 ≤ x.1) && decide (x.1 < (acc + 1) * 0x4000))
          accTy := setAt c.accTy acc (if i32 then .i32 else .f32) }) p m
      | _ => s)
    | none => unitIdle s p)

/-- The unit's access for the warp whose instruction gave it the work (R300, R384). -/
def unitWho (p : Pos) (m : MWork) : Who :=
  { asid := m.asid, pos := p, sup := true, warp := m.warp, eng := true }

/-- The gauge addition that ends an ACCOUT (R425): a refused one halts it. -/
def accoutEnd (s : State) (p : Pos) (m : MWork) (g : Gauge) (n : Nat) : State :=
  match gaugeAdd s (unitWho p m) g n with
  | .ok s _ => endHead s p m
  | .hold h l => engineHold (putHead s p m) m.asid h l
  | .bad s f =>
    let s := putHead s p { m with halted := true }
    syncBatch (updWarp s m.warp fun w => { w with mtraps := w.mtraps ++ [⟨f, p⟩] }) m.warp

/-- Rows from `m.pos` on, up to a halt (R425, R428). -/
def accoutRun (p : Pos) (of_ : OutFmt) (rm : BitVec 3) (acc off stride cols : Nat) (s43 s52 : Bool)
    (g : Gauge) (rows : Nat) : Nat → State → MWork → State
  | 0, s, m => accoutEnd s p m g (rows * cols * outSize of_)
  | k + 1, s, m =>
    let r := m.pos
    let sz := outSize of_
    let l := outRow (coreCtx s p m.asid) of_ rm s43 s52 acc r cols
    let base := off + r * stride
    let s := (l.zipIdx).foldl (fun s e => spadSet s p m.asid (base + e.2 * sz) sz e.1) s
    let s := bankGroup s p ((List.range cols).map fun c => base + c * sz)
    let m := { m with pos := r + 1 }
    match rowNan of_ l with
    | some j => if m.nt then haltHead s p m (nrecOf m 2 acc 0 (r, j))
      else accoutRun p of_ rm acc off stride cols s43 s52 g rows k s m
    | none => accoutRun p of_ rm acc off stride cols s43 s52 g rows k s m

/-- ACCOUT (R425). -/
def execAccoutExecution (p : Pos) (s : State) : Host.Outcome State Fault Refusal :=
  .next (match unitHead s p with
    | some m => (match m.op with
      | .accout of_ rm acc off g st cols rows s43 s52 =>
        accoutRun p of_ rm acc off st cols s43 s52 g rows (rows - m.pos) s m
      | _ => s)
    | none => unitIdle s p)

/-! ### The trap (R428) -/

/-- The report of a matrix trap or refused addition at a boundary of warp `w` (R425, R428, R449). -/
def matrixReport (w : Warp) (t : MTrap) : Report :=
  { wholeReport w t.flt w.em 0 with async := 2, kind := .matrix }

/-- SRET from a matrix trap resumes the halted work whose trap has been delivered (R428). -/
def resumeMatrix (s : State) (u : Nat) : State :=
  match findWarp s u with
  | none => s
  | some w =>
    syncBatch { s with cores := s.cores.map fun c =>
      if (w.mtraps.any fun t => t.pos == c.pos) then c
      else { c with mq := c.mq.map fun m => if m.warp == u then { m with halted := false } else m } } u

end Sys2Proof.Machine
end

