-- ==== Sys2Proof/Machine/Tree.lean ====
section
/-! DEFINITION. Sparse regions: descriptors, elements and the index trees that an engine keeps in memory
(spec/15 R352-R360, R372, R373). -/

namespace Sys2Proof.Machine

/-! ### Words of an engine (R365) -/

/-- The engine's access to a word of a sparse page: any failure is a machine check, detail index node. -/
def spTr (s : State) (who : Who) (va : Nat) (store : Bool) : Res Tr :=
  match translate s who va store with
  | .hold h l => .hold h l
  | .bad s _ => .bad s (fltAt .machineCheck 4 va)
  | .ok s t =>
    if pteCls t.pte == 2 && (!store || pteW t.pte) then .ok s t else .bad s (fltAt .machineCheck 4 va)

/-- Every failure of an access inside an engine is that machine check. -/
def spFail {α : Type} (va : Nat) : Res α → Res α
  | .bad s _ => .bad s (fltAt .machineCheck 4 va)
  | r => r

/-- `n` tagged words of one page. -/
def spWords (s : State) (who : Who) (va n : Nat) : Res (List Val) :=
  (spTr s who va false).bind fun s t =>
    spFail va ((physRead s who 4 t.da n).bind fun s l =>
      match l.mapM fun p => valOfCode p.1 p.2 with
      | some vs => .ok s vs
      | none => .bad s (flt .machineCheck 4))

/-- Write tagged words of one page: on an RD page their shadow is cleared (R327). -/
def spPut (s : State) (who : Who) (va : Nat) (vs : List Val) : Res Unit :=
  (spTr s who va true).bind fun s t => spFail va ((physWrite s who t.da vs).bind fun s _ =>
    .ok (clearShadow s who t.pte va (8 * vs.length)) ())

/-- The engine's accesses: those of the device, at the engine's die. -/
def engWho (asid eng u : Nat) : Who :=
  { asid := asid, pos := ⟨eng % 32 / 4, 0, 0⟩, sup := true, warp := u, eng := true }

/-! ### The region record (R353-R355) -/

/-- A region record. -/
structure Region where
  v : Bool
  etag : Nat
  nstr : Nat
  rank : Nat
  ws : List Nat
  ks : List Nat
  deriving DecidableEq, Repr

def regionOf (w : List Nat) : Region :=
  let x := w.getD 0 0
  { v := bitAt x 63, etag := bitsAt x 37 4, nstr := bitsAt x 34 3, rank := bitsAt x 32 2
    ws := (List.range 4).map fun k => bitsAt x (8 * k) 8, ks := 0 :: (w.drop 1).take 7 }

/-- The total width W. -/
def Region.width (r : Region) : Nat := r.ws.foldl (· + ·) 0

/-- The stripe of a key (R361). -/
def Region.stripe (r : Region) (k : Nat) : Nat :=
  (((List.range (r.nstr + 1)).filter fun s => decide (r.ks.getD s 0 ≤ k)).getLast?).getD 0

/-! ### Elements (R356) -/

/-- ETAG codes that SDECL accepts. -/
def etagOk (e : Nat) : Bool := [0, 1, 2, 3, 4, 8, 9].contains e

def zeroOf (e : Nat) : Val :=
  match Tag.ofNat? e with
  | some .ref | none => vNil
  | some t => ⟨t, 0#64⟩

/-- The value as the region stores it; none where its tag is not accepted. -/
def acceptVal (e : Nat) (v : Val) : Option Val :=
  match Tag.ofNat? e with
  | some .f64 =>
    if v.tag == .f64 then some v
    else if v.tag == .f32 then some (vF64 (atomF64 v)) else none
  | some .ref => if v.tag == .ref || v.tag == .nil then some v else none
  | some t => if v.tag == t then some v else none
  | none => none

/-- A deleting value. -/
def deletes (v : Val) : Bool :=
  match v.tag with
  | .f64 => v.n % 2 ^ 63 == 0
  | .f32 => v.n % 2 ^ 31 == 0
  | .ref => false
  | _ => v.pl == 0#64

/-- A floating result of SADD. -/
def spFp (dbl : Bool) (op : SOp) (a b : Nat) : Val :=
  let f : FpFmt := if dbl then .f64 else .f32
  let x := f.decode a
  let y := f.decode b
  let t : Tag := if dbl then .f64 else .f32
  match op with
  | .add => ⟨t, wordN (atomSum f a b)⟩
  | .min =>
    if x == .nan || y == .nan then canonNan t
    else ⟨t, wordN (if Fp.below y x || (x.isZero && y.isZero && y.isNeg) then b else a)⟩
  | .max =>
    if x == .nan || y == .nan then canonNan t
    else ⟨t, wordN (if Fp.below x y || (x.isZero && y.isZero && x.isNeg) then b else a)⟩

/-- Operand tags of SADD (R367). -/
def saddOk (e : Nat) (op : SOp) (v : Val) : Bool :=
  match Tag.ofNat? e with
  | some .int => v.tag == .int
  | some .ts => if op == .add then v.tag == .int else v.tag == .ts
  | some .raw => v.tag == .raw || v.tag == .int
  | some .f64 => v.tag == .f64 || v.tag == .f32
  | some .f32 => v.tag == .f32
  | some .bool => v.tag == .bool
  | _ => false

/-- combine(old, v) of R367. -/
def saddVal (e : Nat) (op : SOp) (old v : Val) : Val :=
  match Tag.ofNat? e with
  | some .f64 => spFp true op old.n (atomF64 v)
  | some .f32 => spFp false op old.n v.n
  | some .bool => match op with
    | .min => ⟨.bool, old.pl &&& v.pl⟩
    | .add | .max => ⟨.bool, old.pl ||| v.pl⟩
  | some .raw => match op with
    | .add => ⟨.raw, old.pl + v.pl⟩
    | .min => ⟨.raw, if v.pl.ult old.pl then v.pl else old.pl⟩
    | .max => ⟨.raw, if old.pl.ult v.pl then v.pl else old.pl⟩
  | some t => match op with
    | .add => ⟨t, old.pl + v.pl⟩
    | .min => ⟨t, if v.pl.slt old.pl then v.pl else old.pl⟩
    | .max => ⟨t, if old.pl.slt v.pl then v.pl else old.pl⟩
  | none => old

/-! ### Stripe records (R354) -/

/-- A stripe record. -/
structure Stripe where
  eng : Nat
  hgt : Nat
  root : Nat
  pool : Nat
  pcap : Nat
  pmax : Nat
  nfree : Nat
  free : Nat
  ent : Nat
  ret : Nat
  nuse : Nat
  deriving DecidableEq, Repr

def stripeOf (w : List Nat) : Stripe :=
  let x := fun k => w.getD k 0
  { eng := bitsAt (x 0) 0 5, hgt := bitsAt (x 1) 32 4, root := bitsAt (x 1) 0 32
    pool := bitsAt (x 2) 16 40 * 65536, pcap := bitsAt (x 3) 32 24, pmax := bitsAt (x 3) 0 25
    nfree := bitsAt (x 4) 32 24, free := bitsAt (x 4) 0 32, ent := x 5
    ret := bitsAt (x 6) 24 24, nuse := bitsAt (x 6) 0 24 }

def stripeWords (t : Stripe) : List Val :=
  [vRaw t.eng, vRaw (t.hgt * 2 ^ 32 + t.root), vRaw t.pool, vRaw (t.pcap * 2 ^ 32 + t.pmax),
   vRaw (t.nfree * 2 ^ 32 + t.free), vRaw t.ent, vRaw (t.ret * 2 ^ 24 + t.nuse), vRaw 0]

def stripeVa (desc k : Nat) : Nat := desc + 256 + 64 * k

def stripeRead (s : State) (who : Who) (desc k : Nat) : Res Stripe :=
  (spWords s who (stripeVa desc k) 8).map fun l => stripeOf (l.map fun v => v.n)

def stripePut (s : State) (who : Who) (desc k : Nat) (t : Stripe) : Res Unit :=
  spPut s who (stripeVa desc k) (stripeWords t)

/-! ### Nodes (R357, R358) -/

/-- A node in the tree: a leaf's keys and values, or an interior node's separators and child links. -/
structure Node where
  level : Nat
  next : Nat
  keys : List Nat
  vals : List Val
  kids : List Nat
  deriving DecidableEq, Repr

def Node.size (n : Node) : Nat := if n.level == 0 then n.keys.length else n.kids.length

def nodeVa (t : Stripe) (i : Nat) : Nat := t.pool + 256 * i

def nodeOf (w : List Val) : Node :=
  let h := (w.getD 0 vZero).n
  let c := bitsAt h 0 4
  let x := fun k => (w.getD k vZero).n
  if bitsAt h 60 4 == 0 then
    { level := 0, next := bitsAt (x 1) 0 32, keys := (List.range c).map fun j => x (2 + 2 * j)
      vals := (List.range c).map fun j => w.getD (3 + 2 * j) vNil, kids := [] }
  else
    { level := bitsAt h 60 4, next := 0, keys := (List.range (c - 1)).map fun j => x (2 + j)
      vals := [], kids := (List.range c).map fun j => x (16 + j) }

/-- A list of words completed with ⟨NIL, 0⟩. -/
def nilTo (n : Nat) (l : List Val) : List Val := l ++ List.replicate (n - l.length) vNil

def nodeWords (str : Nat) (n : Node) : List Val :=
  vRaw (n.level * 2 ^ 60 + str * 256 + n.size) :: vRaw n.next ::
  (if n.level == 0 then nilTo 30 ((n.keys.zip n.vals).flatMap fun p => [vRaw p.1, p.2])
   else nilTo 14 (n.keys.map vRaw) ++ nilTo 15 (n.kids.map vRaw) ++ [vRaw 0])

/-- What an operation on a stripe carries: the engine's accesses, the stripe's number and record. -/
structure Tx where
  who : Who
  desc : Nat
  str : Nat
  st : Stripe
  gone : List Nat          -- nodes retired by the operation
  far : Bool               -- the region lies on another device, whose engine it is (R361)

def nodeRead (s : State) (x : Tx) (link : Nat) : Res Node :=
  (spWords s x.who (nodeVa x.st (link - 1)) 32).map nodeOf

def nodePut (s : State) (x : Tx) (link : Nat) (n : Node) : Res Unit :=
  spPut s x.who (nodeVa x.st (link - 1)) (nodeWords x.str n)

/-- Take the head of the free list (R359). -/
def takeNode (s : State) (x : Tx) : Res (Tx × Nat) :=
  (spWords s x.who (nodeVa x.st (x.st.free - 1)) 2).map fun w =>
    ({ x with st := { x.st with
        free := bitsAt (w.getD 1 vZero).n 0 32, nfree := x.st.nfree - 1, nuse := x.st.nuse + 1 } }, x.st.free)

/-- Retire a node: RET is set and counted (R359). -/
def retireNode (s : State) (x : Tx) (link : Nat) : Res Tx :=
  let va := nodeVa x.st (link - 1)
  (spWords s x.who va 1).bind fun s w =>
    (spPut s x.who va [vRaw ((w.getD 0 vZero).n ||| 2 ^ 58), vRaw 0]).map fun _ =>
      { x with st := { x.st with ret := x.st.ret + 1, nuse := x.st.nuse - 1 }, gone := (link - 1) :: x.gone }

/-! ### Reclamation (R372, R373) -/

/-- Retired nodes of the engine's die: those of another device are that device's (R361). -/
def retiredOf (s : State) (x : Tx) : List (Nat × Nat × Nat × Nat) :=
  if x.far then s.hub.farRet else (getDie s x.who.pos.die).retired

def setRetired (s : State) (x : Tx) (l : List (Nat × Nat × Nat × Nat)) : State :=
  if x.far then updHub s fun h => { h with farRet := l } else updDie s x.who.pos.die fun d => { d with retired := l }

/-- The oldest retired node of a stripe. -/
def oldestRetired (s : State) (x : Tx) : Option Nat :=
  ((retiredOf s x).find? fun r => r.1 == x.who.asid && r.2.1 == x.desc && r.2.2.1 == x.str).map fun r => r.2.2.2

def dropRetired (s : State) (x : Tx) (i : Nat) : State :=
  setRetired s x (eraseFirst (fun r => r == (x.who.asid, x.desc, x.str, i)) (retiredOf s x))

/-- Reclaim one node onto the head of the free list. -/
def reclaimNode (s : State) (x : Tx) (i : Nat) : Res Tx :=
  let va := nodeVa x.st i
  (spWords s x.who va 1).bind fun s w =>
    let h := (w.getD 0 vZero).n
    let h := if bitAt h 58 then h - 2 ^ 58 else h
    (spPut s x.who va (vRaw (h ||| 2 ^ 59) :: vRaw x.st.free :: List.replicate 30 vNil)).bind fun s _ =>
      .ok (dropRetired s x i)
        { x with st := { x.st with free := i + 1, nfree := x.st.nfree + 1, ret := x.st.ret - 1 } }

/-- Reclaim until `need` nodes are free or none is left (R372); `n` bounds the retired nodes. -/
def reclaimFor (need : Nat) : Nat → State → Tx → Res Tx
  | 0, s, x => .ok s x
  | n + 1, s, x =>
    if need ≤ x.st.nfree then .ok s x
    else match oldestRetired s x with
      | none => .ok s x
      | some i => (reclaimNode s x i).bind fun s x => reclaimFor need n s x

/-! ### Searching (R358) -/

/-- Child of an interior node for a key. -/
def childIx (n : Node) (k : Nat) : Nat := (n.keys.filter fun q => decide (q ≤ k)).length

/-- The nodes from the leaf of a key up to the root; `fuel` is the height and one. -/
def pathTo (x : Tx) (k : Nat) : Nat → Nat → List (Nat × Node) → State → Res (List (Nat × Node))
  | 0, _, acc, s => .ok s acc
  | f + 1, link, acc, s =>
    (nodeRead s x link).bind fun s n =>
      if n.level == 0 then .ok s ((link, n) :: acc)
      else pathTo x k f (n.kids.getD (childIx n k) 0) ((link, n) :: acc) s

def treePath (s : State) (x : Tx) (k : Nat) : Res (List (Nat × Node)) :=
  if x.st.root == 0 then .ok s [] else pathTo x k (x.st.hgt + 1) x.st.root [] s

/-- The entry of a key in a leaf. -/
def leafFind (n : Node) (k : Nat) : Option Val :=
  ((n.keys.zip n.vals).find? fun p => p.1 == k).map fun p => p.2

/-- Entries of a leaf chain from `lo`, below `lim`, at most `n`; `f` bounds the leaves. -/
def chainScan (x : Tx) (lo : Nat) (lim : Option Nat) : Nat → Nat → Nat → State → Res (List (Nat × Val))
  | 0, _, _, s => .ok s []
  | f + 1, n, link, s =>
    if link == 0 || n == 0 then .ok s []
    else (nodeRead s x link).bind fun s d =>
      let es := (d.keys.zip d.vals).filter fun p => decide (lo ≤ p.1)
      let ok := es.filter fun p => match lim with
        | some b => decide (p.1 < b)
        | none => true
      let got := ok.take n
      if ok.length < es.length || n ≤ got.length then .ok s got
      else (chainScan x lo lim f (n - got.length) d.next s).map fun l => got ++ l

/-- The entries of a stripe from `lo` in ascending order. -/
def stripeScan (s : State) (x : Tx) (lo : Nat) (lim : Option Nat) (n : Nat) : Res (List (Nat × Val)) :=
  (treePath s x lo).bind fun s p => match p with
    | (link, _) :: _ => chainScan x lo lim (n + 2) n link s
    | [] => .ok s []

/-! ### Changing entries (R359, R360) -/

/-- Insert an element before the first that `p` rejects. -/
def insertAt {α : Type} (l : List α) (i : Nat) (a : α) : List α := l.take i ++ a :: l.drop i

def removeAt {α : Type} (l : List α) (i : Nat) : List α := l.take i ++ l.drop (i + 1)

/-- Position of a key among ascending keys. -/
def keyPos (l : List Nat) (k : Nat) : Nat := (l.filter fun q => decide (q < k)).length

def fullNode (n : Node) : Bool := n.size == 15

/-- Nodes an insertion needs, from the path with the leaf first (R360). -/
def nodesNeeded : List (Nat × Node) → Nat
  | [] => 1
  | (_, n) :: l => if fullNode n then 1 + nodesNeeded l else 0

/-- Put a new separator and link into the parents (R359). -/
def addUp (s : State) (x : Tx) : List (Nat × Node) → Nat → Nat → Res Tx
  | [], sep, link =>
    (takeNode s x).bind fun s (x, r) =>
      (nodePut s x r ⟨x.st.hgt + 1, 0, [sep], [], [x.st.root, link]⟩).map fun _ =>
        { x with st := { x.st with hgt := x.st.hgt + 1, root := r } }
  | (l, n) :: up, sep, link =>
    let j := keyPos n.keys sep
    let n := { n with keys := insertAt n.keys j sep, kids := insertAt n.kids (j + 1) link }
    if n.kids.length ≤ 15 then (nodePut s x l n).map fun _ => x
    else (takeNode s x).bind fun s (x, r) =>
      (nodePut s x l { n with keys := n.keys.take 7, kids := n.kids.take 8 }).bind fun s _ =>
        (nodePut s x r { n with keys := n.keys.drop 8, kids := n.kids.drop 8 }).bind fun s _ =>
          addUp s x up (n.keys.getD 7 0) r

/-- Insert a key that is absent. The root link of a root split is the old root. -/
def treeInsert (s : State) (x : Tx) (k : Nat) (v : Val) : List (Nat × Node) → Res Tx
  | [] =>
    (takeNode s x).bind fun s (x, r) =>
      (nodePut s x r ⟨0, 0, [k], [v], []⟩).map fun _ =>
        { x with st := { x.st with root := r, hgt := 0, ent := x.st.ent + 1 } }
  | (l, n) :: up =>
    let j := keyPos n.keys k
    let n := { n with keys := insertAt n.keys j k, vals := insertAt n.vals j v }
    let x := { x with st := { x.st with ent := x.st.ent + 1 } }
    if n.keys.length ≤ 15 then (nodePut s x l n).map fun _ => x
    else (takeNode s x).bind fun s (x, r) =>
      (nodePut s x l { n with keys := n.keys.take 8, vals := n.vals.take 8, next := r }).bind fun s _ =>
        (nodePut s x r { n with keys := n.keys.drop 8, vals := n.vals.drop 8 }).bind fun s _ =>
          addUp s x up (n.keys.getD 8 0) r

/-- Two siblings as one node, `sep` the parent's separator between them. -/
def joinNodes (a b : Node) (sep : Nat) : Node :=
  if a.level == 0 then { a with next := b.next, keys := a.keys ++ b.keys, vals := a.vals ++ b.vals }
  else { a with keys := a.keys ++ sep :: b.keys, kids := a.kids ++ b.kids }

/-- Split a joined pair again: left, right and the separator. -/
def shareNodes (m b : Node) (rl : Nat) : Node × Node × Nat :=
  let h := (m.size + 1) / 2
  if m.level == 0 then
    ({ m with keys := m.keys.take h, vals := m.vals.take h, next := rl },
     { b with keys := m.keys.drop h, vals := m.vals.drop h }, m.keys.getD h 0)
  else
    ({ m with keys := m.keys.take (h - 1), kids := m.kids.take h },
     { b with keys := m.keys.drop h, kids := m.kids.drop h }, m.keys.getD (h - 1) 0)

/-- Restore the minimum sizes from a changed node upward (R359). -/
def shrinkUp (s : State) (x : Tx) (l : Nat) (n : Node) : List (Nat × Node) → Res Tx
  | [] =>
    if n.level == 0 && n.keys.isEmpty then
      (retireNode s x l).map fun x => { x with st := { x.st with root := 0, hgt := 0 } }
    else if n.level != 0 && n.kids.length == 1 then
      (retireNode s x l).map fun x =>
        { x with st := { x.st with root := n.kids.getD 0 0, hgt := x.st.hgt - 1 } }
    else (nodePut s x l n).map fun _ => x
  | (pl, p) :: up =>
    if 4 ≤ n.size then (nodePut s x l n).map fun _ => x
    else
      let j := (p.kids.findIdx? fun c => c == l).getD 0
      let i := if j + 1 < p.kids.length then j else j - 1
      let ll := p.kids.getD i 0
      let rl := p.kids.getD (i + 1) 0
      (nodeRead s x (if i == j then rl else ll)).bind fun s q =>
        let a := if i == j then n else q
        let b := if i == j then q else n
        let m := joinNodes a b (p.keys.getD i 0)
        if a.size + b.size ≤ 15 then
          (nodePut s x ll m).bind fun s _ => (retireNode s x rl).bind fun s x =>
            shrinkUp s x pl { p with keys := removeAt p.keys i, kids := removeAt p.kids (i + 1) } up
        else
          let (a, b, sep) := shareNodes m b rl
          (nodePut s x ll a).bind fun s _ => (nodePut s x rl b).bind fun s _ =>
            (nodePut s x pl { p with keys := setAt p.keys i sep }).map fun _ => x

/-- Delete a key that is present in the leaf at the head of the path. -/
def treeDelete (s : State) (x : Tx) (k : Nat) : List (Nat × Node) → Res Tx
  | [] => .ok s x
  | (l, n) :: up =>
    let j := keyPos n.keys k
    shrinkUp s { x with st := { x.st with ent := x.st.ent - 1 } } l
      { n with keys := removeAt n.keys j, vals := removeAt n.vals j } up

/-- Insertion sort of node numbers. -/
def insertNat (a : Nat) : List Nat → List Nat
  | [] => [a]
  | b :: l => if a ≤ b then a :: b :: l else b :: insertNat a l

def sortNat : List Nat → List Nat
  | [] => []
  | a :: l => insertNat a (sortNat l)

/-- Close an operation: the stripe record is written and the retired nodes are queued (R359, R373). -/
def closeTx (s : State) (x : Tx) : Res Unit :=
  (stripePut s x.who x.desc x.str x.st).bind fun s _ =>
    .ok (if x.gone.isEmpty then s
      else setRetired s x (retiredOf s x ++ (sortNat x.gone).map fun i => (x.who.asid, x.desc, x.str, i))) ()

def exhausted (x : Tx) : LFault := ⟨.indexExhaustion, 0, x.str, x.desc⟩

/-- An operation on a stripe: read its record first. -/
def openTx (s : State) (who : Who) (desc str : Nat) : Res Tx :=
  (spTr s who (stripeVa desc str) false).bind fun s p =>
    (stripeRead s who desc str).map fun t => ⟨who, desc, str, t, [], domDev p.da != s.dev⟩

/-- Write `new old` at a key as one step (R366): the answer is the old value. A failure changes nothing. -/
def entryStep (s0 : State) (who : Who) (desc str etag k : Nat) (new : Val → Option Val) : Res Val :=
  let r := (openTx s0 who desc str).bind fun s x =>
    (treePath s x k).bind fun s p =>
      let leaf := p.head?
      let cur := leaf.bind fun q => leafFind q.2 k
      let old := cur.getD (zeroOf etag)
      match new old with
      | none => .ok s old
      | some v =>
        if deletes v then
          (if cur.isSome then (treeDelete s x k p).bind fun s x => (closeTx s x).map fun _ => old
           else .ok s old)
        else match leaf, cur with
          | some (l, n), some _ =>
            (nodePut s x l { n with vals := setAt n.vals (keyPos n.keys k) v }).map fun _ => old
          | _, _ =>
            (reclaimFor (nodesNeeded p) x.st.ret s x).bind fun s x =>
              if x.st.nfree < nodesNeeded p then
                -- what was reclaimed stays reclaimed; the operation itself changes nothing (R372)
                (closeTx s x).bind fun s _ => .bad s (exhausted x)
              else (treeInsert s x k v p).bind fun s x => (closeTx s x).map fun _ => old
  match r with
  | .bad s f => if f.cls == .indexExhaustion then .bad s f else .bad s0 f
  | r => r

end Sys2Proof.Machine
end

