-- ==== Sys2Proof/Machine/Sparse.lean ====
section
/-! DEFINITION. The sparse instructions and the index engines (spec/15 R361-R374). -/

namespace Sys2Proof.Machine

/-! ### The checks of R365 -/

/-- Detail of a machine check on a descriptor: 4 when its device cannot be reached or the request is given up (R508). -/
def spDet (s : State) (w : Warp) (a : Nat) : Nat :=
  if domDev a != s.dev && (!(reachable s (domDev a)) || s.hub.lapsed.contains w.uid) then 4 else 0

/-- Checks 1 to 4: the region behind a handle. -/
def spRegion (s : State) (w : Warp) (h : Val) : Res Region :=
  if h.tag != .ref then .bad s typeFlt
  else Res.at (
    if h.n % 1024 != 0 then .bad s (xlatFlt 1 0)
    else (translate s w.who h.n false).bind fun s t =>
      if pteCls t.pte != 2 then .bad s (flt .classFault 0)
      else (physRead s w.who (spDet s w t.da) t.da 8).bind fun s l =>
        let r := regionOf (l.map fun p => p.2)
        if r.v then .ok s r else .bad s (flt .instruction 21)) h.n

/-- Checks 5 and 6 of a key. -/
def spKey (r : Region) (k : Val) : Except LFault Nat :=
  if !intRaw k then .error typeFlt
  else if 2 ^ r.width ≤ k.n then .error (flt .arithmetic 6)
  else .ok k.n

/-- A link between a warp's die and the engine's retrains: what goes between them waits (R497). -/
def engWaits (s : State) (die e : Nat) : Bool :=
  waysWait s (if e < 32 then hopLinks die (e / 4) else portLinks die (devHub (e / 32 - 1)))

/-- The engine of a stripe, on the device of the descriptor (R354, R361). A stripe record that cannot be read is a
machine check, detail index node (R365). -/
def spEng (s : State) (w : Warp) (h str : Nat) : Res Nat :=
  (translate s w.who h false).bind fun s t =>
    (Res.at ((physLoad s w.who 4 (t.da + (stripeVa 0 str)) 8).map fun x =>
      x % 32 + (if domDev t.da == s.dev then 0 else 32 * (domDev t.da + 1))) h).bind fun s e =>
        if engWaits s w.pos.die e then .hold .link 0 else .ok s e

/-- A lane's operation on the stripe of its key; `kind` does check 7. -/
def spOpOf (s : State) (w : Warp) (lane : Nat) (h k : Val) (kind : Region → Except LFault SpKind) : Res SpOp :=
  (spRegion s w h).bind fun s r => match spKey r k with
    | .error f => .bad s f
    | .ok key => match kind r with
      | .error f => .bad s f
      | .ok sk => (spEng s w h.n (r.stripe key)).map fun e =>
        ⟨e, w.uid, lane, h.n, w.asid, key, r.stripe key, sk, 0⟩

/-- A value of an accepted tag, or a type fault (R356). -/
def spVal (r : Region) (v : Val) : Except LFault Val :=
  match acceptVal r.etag v with
  | some x => .ok x
  | none => .error typeFlt

/-! ### Sending (R362, R363) -/

/-- Queue of an engine, of this device or of another. -/
def engQueue (s : State) (e : Nat) : List SpOp :=
  if e < 32 then (getDie s (e / 4)).engines.getD (e % 4) [] else spGet [] s.hub.farEng e

def setEngQueue (s : State) (e : Nat) (l : List SpOp) : State :=
  if e < 32 then updDie s (e / 4) fun d => { d with engines := setAt d.engines (e % 4) l }
  else { s with hub := { s.hub with farEng := spSet [] s.hub.farEng e l } }

/-- Build the lanes' operations in ascending lane order. -/
def spBuild (mk : State → Nat → Res SpOp) : List Nat → State → Res (List SpOp × List (Nat × LFault))
  | [], s => .ok s ([], [])
  | k :: l, s =>
    match mk s k with
    | .ok s o => (spBuild mk l s).map fun r => (o :: r.1, r.2)
    | .bad s f => (spBuild mk l s).map fun r => (r.1, (k, f) :: r.2)
    | .hold h n => .hold h n

/-- Every engine named has room for its operations (R374). -/
def spRoom (s : State) (ops : List SpOp) : Bool :=
  ops.all fun o => decide ((engQueue s o.eng).length + (ops.filter fun q => q.eng == o.eng).length ≤ 64)

/-- Put operations into their engines' queues. -/
def spQueue (s : State) (ops : List SpOp) : State :=
  ops.foldl (fun s o => setEngQueue s o.eng (engQueue s o.eng ++ [o])) s

/-- The results that are there, of lanes whose operation is not to be sent again. -/
def SpPend.results (p : SpPend) : List (Nat × LaneRes) :=
  if p.rows then match p.res with
    | (_, vs) :: _ => Machine.lanes.map fun k => (k, .ok [vs.getD (2 * k) vNil, vs.getD (2 * k + 1) vNil] 0#7 false)
    | [] => []
  else (p.res.filter fun r => !(p.back.any fun o => o.lane == r.1)).map fun r => (r.1, .ok r.2 0#7 false)

/-- Its destinations take a row, or a value per lane. -/
def SpPend.wide (p : SpPend) : Bool := p.vec || p.rows

/-- Results go into the destination registers and the latch entry that the instruction pushed (R72, R169). -/
def spFill (w : Warp) (p : SpPend) : Warp :=
  let l := p.results
  if okLanes l == 0#32 then w
  else
    let w := writeRes w p.dsts l p.wide
    match p.wait.latch with
    | none => w
    | some k =>
      let new := resOpd l p.wide 0
      { w with latches := modifyAt w.latches k fun o =>
          if p.wide then .vec (rowMerge (okLanes l) (rowWith new.lane) (rowWith o.lane))
          else latchOf w (p.dsts.headD .nowb) false 0#32 new }

/-- An engine's fault in lanes of an instruction behind which the warp has gone on: SRET has those lanes' operations sent
again and goes on where the warp stands (R365, R372; log 56). -/
def spLate (s : State) (w : Warp) (p : SpPend) (rest : List SpPend) (f : LFault) : State :=
  let at_ := { w with pc := p.pc }
  let r := if p.rows then wholeReport at_ f p.lanes p.size
    else lanesReport ⟨at_, p.lanes, p.vec, [], p.popped, false⟩ p.size {} p.faults 0#32 f
  let w' := { spFill w p with sparse := if w.sup then [] else { p with res := [] } :: rest }
  takeFault (putWarp s w') w.uid { r with kind := .sparse, resPc := w.pc, popped := [] }

/-- An instruction behind which the warp has not gone on: it faults, or it completes (R363, R365). -/
def spHere (s : State) (w : Warp) (p : SpPend) : State :=
  let i : Ins := { size := p.size, g := Guard.always, dsts := p.dsts, pushes := p.pushes }
  let w := { w with sparse := [] }
  let s := putWarp s w
  let s := match p.dsts with
    | .chan n :: _ => chanGiveBack s w.uid n
    | _ => s
  match p.rows, p.faults with
  | true, (_, f) :: _ => takeFault s w.uid { wholeReport w f p.lanes p.size with popped := p.popped }
  | true, [] => finish s s i ⟨w, allLanes, true, [], p.popped, false⟩ {} p.results
  | false, fs =>
    finish s s i ⟨w, p.lanes, p.vec, [], p.popped, false⟩ {}
      ((if p.vec then maskLanes p.lanes else [lowLane p.lanes]).filterMap fun k =>
        match fs.find? fun f => f.1 == k with
        | some f => some (k, .bad f.2)
        | none => p.results.find? fun r => r.1 == k)

/-- What a warp's sparse instructions do once operations have been carried out (R363, R365): the results of those that are
complete are written; when none is left at an engine, the first that has faults, or for which the warp waits, ends. -/
def spDone (s : State) (u : Nat) : State :=
  match findWarp s u with
  | none => s
  | some w =>
    let complete := fun (p : SpPend) => p.left == 0 && p.back.isEmpty && p.faults.isEmpty && !p.block
    let w := { (w.sparse.filter complete).foldl spFill w with sparse := w.sparse.filter fun p => !(complete p) }
    let s := putWarp s w
    match w.sparse with
    | [] => s
    | p :: rest =>
      if w.sparse.any fun q => q.left != 0 then s
      else if p.block then (if p.back.isEmpty then spHere s w p else s)
      else match worstFault p.faults with
        | some f => spLate s w p rest f
        | none => s

/-- The instruction goes on, its results outstanding as a load's are; or the warp stays at it until they are there: when
lanes have failed a check already, a channel takes the result, or it is a replay (log 56). -/
def spSend (s : State) (i : Ins) (r : Ready) (rows : Bool) (ops : List SpOp) (fs : List (Nat × LFault)) : State :=
  let n := s.nextRec
  let ops := ops.map fun o => { o with ins := n }
  let toChan := match i.dsts with
    | .chan c :: _ => some c
    | _ => none
  let block := !fs.isEmpty || r.w.replay.isSome || toChan.isSome
  let regs := i.dsts.filterMap fun d => match d with
    | .reg x => some x
    | _ => none
  let p : SpPend :=
    { id := n, pc := r.w.pc, lanes := r.eff, dsts := i.dsts, pushes := i.pushes, size := i.size, vec := r.vec, rows := rows
      left := ops.length, res := [], faults := fs, popped := r.popped
      wait := ⟨regs, if i.pushes && !block then some 0 else none⟩, block := block, ops := ops, back := [] }
  let s := spQueue { s with nextRec := n + 1 } ops
  let s := match toChan with
    | some c => chanReserve s r.w.uid c
    | none => s
  spDone (updWarp s r.w.uid fun w =>
    let w := if block then { w with held := none }
      else advance (if i.pushes then pushLatch w (oldOf w (i.dsts.headD .nowb) r.vec) else w) i.size
    { w with sparse := w.sparse ++ [p] }) r.w.uid

/-- A sparse instruction: the checks, then the lanes' operations go to their engines. -/
def spIns (s : State) (i : Ins) (rows : Bool) (mk : Ready → State → Nat → Res SpOp) :
    Host.Outcome State Fault Refusal :=
  issue s i fun s' r =>
    match spBuild (mk r) (execLanes r) s' with
    | .hold h n => holdAt s r.w.uid h n
    | .bad t f => faultReady t r f i.size
    | .ok t (ops, fs) =>
      if spRoom t ops then spSend t i r rows ops fs else holdAt s r.w.uid .engineQueue 0

/-- SRET has the refused operations of the lanes it keeps sent again, in lane order with those called back (R372, R450). -/
def spAgain (f : SFrame) (keep : Mask) (p : SpPend) : SpPend :=
  let m := replayLanes f keep
  let again := fun (o : SpOp) =>
    p.faults.any (fun q => q.1 == o.lane) && (if p.rows then m != 0#32 else m.getLsbD o.lane)
  { p with
    faults := []
    back := p.ops.filterMap fun o => (p.back.find? fun q => q.lane == o.lane).or (if again o then some o else none) }

/-- The first instruction of a warp with operations to be sent again: those behind another's refused operations wait for
these. -/
def spBack (w : Warp) : Option SpPend :=
  match w.sparse.find? fun p => !p.back.isEmpty || (!p.faults.isEmpty && !p.block) with
  | some p => if p.faults.isEmpty || p.block then some p else none
  | none => none

/-- Send them when their engines have room (R374). -/
def spResend (s : State) (u : Nat) (p : SpPend) : State :=
  if spRoom s p.back && !p.back.isEmpty then
    updWarp (spQueue s p.back) u fun w => { w with sparse := modifyFirst (fun q => q.id == p.id) (fun q =>
      { q with left := q.left + q.back.length, back := [] }) w.sparse }
  else holdAt s u .engineQueue 0

/-! ### The instructions -/

/-- SLD (R366). -/
def execSld (g : Guard) (d : Dst) (h k : Src) (s : State) : Host.Outcome State Fault Refusal :=
  spIns s (insOf g d [h, k]) false fun r s l =>
    spOpOf s r.w l (r.val 0 l) (r.val 1 l) fun _ => .ok .sld

/-- SST (R366). -/
def execSst (g : Guard) (h k v : Src) (s : State) : Host.Outcome State Fault Refusal :=
  spIns s (insNo g [h, k, v]) false fun r s l =>
    spOpOf s r.w l (r.val 0 l) (r.val 1 l) fun q => (spVal q (r.val 2 l)).map .sst

/-- SXCH (R366). -/
def execSxch (g : Guard) (d : Dst) (h k v : Src) (s : State) : Host.Outcome State Fault Refusal :=
  spIns s (insOf g d [h, k, v]) false fun r s l =>
    spOpOf s r.w l (r.val 0 l) (r.val 1 l) fun q => (spVal q (r.val 2 l)).map .sxch

/-- SADD (R366, R367). -/
def execSadd (g : Guard) (op : SOp) (d : Dst) (h k v : Src) (s : State) : Host.Outcome State Fault Refusal :=
  spIns s (insOf g d [h, k, v]) false fun r s l =>
    spOpOf s r.w l (r.val 0 l) (r.val 1 l) fun q =>
      if saddOk q.etag op (r.val 2 l) then .ok (.sadd op (r.val 2 l)) else .error typeFlt

/-- SCAS (R366): the runs are the destinations and the expected and new values. -/
def execScas (g : Guard) (d : Run) (h k : Src) (c : Run) (s : State) : Host.Outcome State Fault Refusal :=
  spIns s { insOf g .nowb [h, k, runSrc c] with
      dsts := runDsts d 2, reads := runRegs c 2, chk := fun w => runOk w d 2 && runOk w c 2 } false fun r s l =>
    spOpOf s r.w l (r.val 0 l) (r.val 1 l) fun q => do
      let e ← spVal q (runLane r.w c 0 l)
      let n ← spVal q (runLane r.w c 1 l)
      return .scas e n

/-- SNEXT (R368). -/
def execSnext (g : Guard) (ge : Bool) (d : Run) (h k : Src) (s : State) : Host.Outcome State Fault Refusal :=
  spIns s { insOf g .nowb [h, k] with dsts := runDsts d 2, chk := fun w => runOk w d 2 } false fun r s l =>
    spOpOf s r.w l (r.val 0 l) (r.val 1 l) fun _ => .ok (.snext ge)

/-- SSCAN (R369). -/
def execSscan (g : Guard) (n : BitVec 5) (ge : Bool) (lim : Option Src) (d : BitVec 8) (h k : Src)
    (s : State) : Host.Outcome State Fault Refusal :=
  spIns s { insOf g .nowb (h :: k :: lim.toList) with
      dsts := runDsts (.v d) 2, shape := some false, chk := fun w => runOk w (.v d) 2 } true fun r s l =>
    spOpOf s r.w l (r.val 0 l) (r.val 1 l) fun _ =>
      match lim with
      | none => .ok (.sscan (n.toNat + 1) ge none)
      | some _ =>
        if intRaw (r.val 2 l) then .ok (.sscan (n.toNat + 1) ge (some (r.val 2 l).n)) else .error typeFlt

/-- SSTAT (R370). -/
def execSstat (g : Guard) (what : StatWhat) (all : Bool) (d : Dst) (h x : Src) (s : State) :
    Host.Outcome State Fault Refusal :=
  spIns s (insOf g d (if all then [h] else [h, x])) false fun r s l =>
    (spRegion s r.w (r.val 0 l)).bind fun s q =>
      let v := if all then vNat 0 else r.val 1 l
      if v.tag != .int then .bad s typeFlt
      else if q.nstr < v.n then .bad s (flt .arithmetic 4)
      else (spEng s r.w (r.val 0 l).n v.n).map fun e =>
        ⟨e, r.w.uid, l, (r.val 0 l).n, r.w.asid, 0, v.n, .sstat what all, 0⟩

/-! ### The engines (R362, R366-R370, R372) -/

/-- What one step of an engine gives: values, and the operation that goes on in the next stripe. -/
structure SpOut where
  vs : List Val
  more : Option SpOp

/-- The region record as the engine reads it. -/
def engRegion (s : State) (who : Who) (desc : Nat) : Res Region :=
  (spWords s who desc 8).map fun l => regionOf (l.map fun v => v.n)

/-- The same operation on the next stripe, from its first key. -/
def nextStripe (s : State) (who : Who) (q : Region) (o : SpOp) (k : SpKind) : Res SpOp :=
  (stripeRead s who o.desc (o.stripe + 1)).map fun t =>
    { o with stripe := o.stripe + 1, key := q.ks.getD (o.stripe + 1) 0, eng := o.eng / 32 * 32 + t.eng, kind := k }

def statOf (t : Stripe) : StatWhat → Nat
  | .ent => t.ent | .nodes => t.nuse | .free => t.nfree | .ret => t.ret
  | .cap => t.pcap | .hgt => t.hgt | .eng => t.eng

/-- Carry out one operation as one step on its stripe. -/
def spStep (s : State) (o : SpOp) : Res SpOut :=
  let who := engWho o.asid o.eng o.warp
  (engRegion s who o.desc).bind fun s q =>
    let entry := fun (new : Val → Option Val) => entryStep s who o.desc o.stripe q.etag o.key new
    match o.kind with
    | .sld => (entry fun _ => none).map fun v => ⟨[v], none⟩
    | .sst v => (entry fun _ => some v).map fun _ => ⟨[], none⟩
    | .sxch v => (entry fun _ => some v).map fun x => ⟨[x], none⟩
    | .sadd op v => (entry fun x => some (saddVal q.etag op x v)).map fun x => ⟨[x], none⟩
    | .scas e n => (entry fun x => if x == e then some n else none).map fun x => ⟨[x, vBool (x == e)], none⟩
    | .snext ge => (openTx s who o.desc o.stripe).bind fun s x =>
      (stripeScan s x (if ge then o.key else o.key + 1) none 1).bind fun s l => match l with
        | (k, v) :: _ => .ok s ⟨[vNat k, v], none⟩
        | [] =>
          if o.stripe < q.nstr then
            (nextStripe s who q o (.snext true)).map fun m => ⟨[], some m⟩
          else .ok s ⟨[vNil, vNil], none⟩
    | .sscan n ge lim => (openTx s who o.desc o.stripe).bind fun s x =>
      (stripeScan s x (if ge then o.key else o.key + 1) lim n).bind fun s l =>
        let vs := l.flatMap fun p => [vNat p.1, p.2]
        let past := match lim with
          | some b => decide (b ≤ q.ks.getD (o.stripe + 1) 0)
          | none => false
        if l.length < n && o.stripe < q.nstr && !past then
          (nextStripe s who q o (.sscan (n - l.length) true lim)).map fun m => ⟨vs, some m⟩
        else .ok s ⟨vs, none⟩
    | .sstat what all => (stripeRead s who o.desc o.stripe).bind fun s t =>
      let v := [vNat (statOf t what)]
      if all && decide (o.stripe < q.nstr) then
        (nextStripe s who q o (.sstat what true)).map fun m => ⟨v, some m⟩
      else .ok s ⟨v, none⟩

/-- Add a step's values to those of earlier stripes. -/
def spMerge (k : SpKind) (old new : List Val) : List Val :=
  match k, old, new with
  | .sstat what _, a :: _, b :: _ => [if what == .hgt then vNat (max a.n b.n) else vNat (a.n + b.n)]
  | .sstat _ _, [], l => l
  | .sstat _ _, l, [] => l
  | _, a, b => a ++ b

/-- Change what is recorded of the instruction that sent an operation. -/
def updPend (s : State) (o : SpOp) (f : SpPend → SpPend) : State :=
  updWarp s o.warp fun w => { w with sparse := modifyFirst (fun p => p.id == o.ins) f w.sparse }

/-- Record an answer for a lane. -/
def spAnswer (s : State) (o : SpOp) (out : SpOut) : State :=
  updPend s o fun p =>
    let old := ((p.res.find? fun r => r.1 == o.lane).map fun r => r.2).getD []
    { p with
      res := (o.lane, spMerge o.kind old out.vs) :: p.res.filter fun r => r.1 != o.lane
      left := if out.more.isSome then p.left else p.left - 1 }

/-- Record the refusal of operations of one instruction. -/
def spFaults (s : State) (l : List SpOp) (f : LFault) : State :=
  l.foldl (fun s o => updPend s o fun p =>
    { p with faults := p.faults ++ [(o.lane, f)], left := p.left - 1, res := p.res.filter fun r => r.1 != o.lane }) s

/-- Operations of later instructions on the stripe are called back behind a refused one (R363). -/
def spCallBack (s : State) (l : List SpOp) : State :=
  l.foldl (fun s o => updPend s o fun p => { p with back := p.back ++ [o], left := p.left - 1 }) s

/-- The later lanes of the same instruction on the same coordinate (R372). -/
def spSame (o q : SpOp) : Bool :=
  q.warp == o.warp && q.ins == o.ins && q.desc == o.desc && q.key == o.key && q.asid == o.asid

/-- The warp's later instructions on the same stripe. -/
def spAfter (o q : SpOp) : Bool :=
  q.warp == o.warp && decide (o.ins < q.ins) && q.desc == o.desc && q.stripe == o.stripe && q.asid == o.asid

/-- The operations an engine may take next: those of a warp on a stripe in their order; between warps and between
stripes no order is given (R362, R363). -/
def engHeads : List SpOp → List SpOp → List SpOp
  | _, [] => []
  | seen, o :: l =>
    let same := seen.any fun q => q.warp == o.warp && q.asid == o.asid && q.desc == o.desc && q.stripe == o.stripe
    if same then engHeads seen l else o :: engHeads (o :: seen) l

/-- The operation an engine takes, where several may be next a free choice (log 6). -/
def engPick (s : State) (e : Nat) : State × Option SpOp :=
  match engHeads [] (engQueue s e) with
  | [] => (s, none)
  | [o] => (s, some o)
  | o :: l => ({ s with freeCtr := s.freeCtr + 1 },
      some ((o :: l).getD (Config.choice s.freeCtr (l.length + 1) % (l.length + 1)) o))

/-- Its engine refuses an operation (R365, R372): the later lanes on the coordinate take an index-exhaustion fault too, and
what the warp has sent behind it on the stripe waits for it. `l` is what else the engine's queue holds. -/
def spRefuse (s : State) (e : Nat) (l : List SpOp) (o : SpOp) (f : LFault) : State :=
  let same := if f.cls == .indexExhaustion then l.filter (spSame o) else []
  let l := l.filter fun q => !(same.contains q)
  let s := setEngQueue s e (l.filter fun q => !(spAfter o q))
  spDone (spCallBack (spFaults s (o :: same) f) (l.filter (spAfter o))) o.warp

/-- An engine carries out one operation; the answer needs the links to the warp's die (R497). -/
def engStep (s0 : State) (e : Nat) : State :=
  match engPick s0 e with
  | (s, none) => s
  | (s, some o) =>
    let l := eraseFirst (fun q => q == o) (engQueue s e)
    if (findWarp s o.warp).any fun w => engWaits s w.pos.die e then s
    else match spStep s o with
    | .hold h n => engineHold s o.asid h n
    | .ok s out =>
      let s := setEngQueue s e l
      let s := match out.more with
        | some m => setEngQueue s m.eng (engQueue s m.eng ++ [m])
        | none => s
      spDone (spAnswer s o out) o.warp
    | .bad s f => spRefuse s e l o f

/-- SPARSE_ENGINE_OPERATION: an engine of this device, or of another that carries out what was sent to it. -/
def execSparseEngineOperation (eng : Nat) (s : State) : Host.Outcome State Fault Refusal := .next (engStep s eng)

/-- The oldest retired node that an engine may reclaim: of a stripe of its own, in a live region. -/
def reclaimable (s : State) (eng : Nat) : Option (Nat × Nat × Nat × Nat) :=
  (getDie s (eng / 4)).retired.find? fun r =>
    match stripeRead s (engWho r.1 eng 0) r.2.1 r.2.2.1, engRegion s (engWho r.1 eng 0) r.2.1 with
    | .ok _ t, .ok _ q => t.eng == eng && q.v
    | _, _ => false

/-- Reclaim that node as one step (R373). -/
def reclaimIdle (s : State) (eng : Nat) : State :=
  match reclaimable s eng with
  | none => s
  | some r =>
    match (openTx s (engWho r.1 eng 0) r.2.1 r.2.2.1).bind fun s x =>
        (reclaimNode s x r.2.2.2).bind fun s x => closeTx s x with
    | .ok s _ => s
    | _ => s

def execNodeReclamation (eng : Nat) (s : State) : Host.Outcome State Fault Refusal :=
  .next (if eng < 32 && (engQueue s eng).isEmpty then reclaimIdle s eng else s)

end Sys2Proof.Machine
end

