-- ==== Sys2Proof/Machine/Group.lean ====
section
/-! DEFINITION. Groups of a launch: members, GSEL, barrier rounds and GBAR (spec/08 R222, R223, spec/09 R239-R241). -/

namespace Sys2Proof.Machine

/-! ### Members (R239) -/

/-- The rank of a warp number in a group; none for a warp outside it. -/
def GEntry.rank (g : GEntry) (n : Nat) : Option Nat :=
  if g.count == 0 || n < g.first then none
  else
    let d := n - g.first
    if g.stride == 0 then (if d == 0 then some 0 else none)
    else if d % g.stride == 0 && decide (d / g.stride < g.count) then some (d / g.stride) else none

/-- The warp numbers of a group in ascending rank. -/
def GEntry.members (g : GEntry) : List Nat := (List.range g.count).map fun k => g.first + k * g.stride

/-- Entry `k` of a launch's group table. -/
def Launch.group (l : Launch) (k : Nat) : GEntry := ((l.groups.getD [])[k]?).getD ⟨0, 0, 1⟩

/-- GSEL of a warp number (R240): the groups that hold it in ascending index, at most four. -/
def Launch.gselOf (l : Launch) (n : Nat) : List (Option Nat) :=
  let gs := (List.range (l.groups.getD []).length).filter fun k => ((l.group k).rank n).isSome
  ((gs.take 4).map some) ++ List.replicate (4 - min 4 gs.length) none

/-- The group in a GSEL slot (R28). -/
def gselAt (w : Warp) (slot : BitVec 2) : Option Nat := w.gsel.getD slot.toNat none

/-- A round is complete: every member that has not retired has arrived (R222). -/
def allArrived (l : Launch) (g : Nat) (arr : List Nat) : Bool :=
  (l.group g).members.all fun n => l.retired.contains n || arr.contains n

/-! ### GBAR -/

/-- The fold of a round in ascending rank (R222): .add rounds with RNE. -/
def roundFold (r : Round) : Option RedVal :=
  let as := (List.range (r.arr.foldl (fun m a => max m (a.rank + 1)) 0)).filterMap fun k =>
    r.arr.find? fun a => a.rank == k
  match as with
  | [] => none
  | a :: l => some (l.foldl
      (fun z b => redCombine r.op r.ty .rne z (redStart r.op r.ty b.val b.idx.i))
      (redStart r.op r.ty a.val a.idx.i))

/-- The barrier's result for every member that still waits (R222); an evicted member is queued again
(R241). -/
def releaseRound (s : State) (r : Round) : State :=
  match roundFold r with
  | none => s
  | some z => r.arr.foldl (fun s a =>
      let s := updWarp s a.warp fun w =>
        if w.barWait.any fun b => b.group == r.group then { w with
          barWait := none, barRes := some ⟨z.v, vInt z.idx, z.fl, z.v.isNan⟩, held := none }
        else w
      match findWarp s a.warp with
      | some w => if w.status == .parked then
          queueRec (updWarp s a.warp fun w => { w with status := .queued }) w.die (.evicted w.uid) w.asid
            w.lvl w.ceil
        else s
      | none => s) s

/-- End the rounds of a launch that are complete. -/
def endRounds (s : State) (asid n : Nat) : State :=
  match findLaunch s asid n with
  | none => s
  | some l =>
    let num := fun (u : Nat) => ((findWarp s u).map fun w => w.wnum)
    let full := l.rounds.filter fun r => allArrived l r.group (r.arr.filterMap fun a => num a.warp)
    let s := updLaunch s asid n fun l => { l with
      rounds := (l.rounds.filter fun r => !(full.any fun q => q.group == r.group)) }
    full.foldl releaseRound s

/-- The arrival of a member (R222): none where OP, TY or the arg form differ from the round's. -/
def arriveRound (l : Launch) (g : Nat) (op : ROp) (ty : Ty) (a : Arrival) : Option Launch :=
  match l.rounds.find? fun r => r.group == g with
  | none => some { l with rounds := l.rounds ++ [⟨g, op, ty, [a]⟩] }
  | some r =>
    if r.op == op && r.ty == ty then
      let add := fun (r : Round) => { r with arr := r.arr ++ [a] }
      some { l with rounds := modifyFirst (fun r => r.group == g) add l.rounds }
    else none

/-- GBAR (R222, R223). The arrival is a release; the warp then waits, and takes its result when it is issued
again after the round. -/
def execGbar (g : Guard) (op : ROp) (ty : Ty) (slot : BitVec 2) (d : Dst) (a b : Src) (s : State) :
    Host.Outcome State Fault Refusal :=
  let arg := op.isArg
  let i : Ins := { insOf g d (if arg then [a, b] else [a]) with
    dsts := if arg then argDsts d else [d], shape := some false, chk := fun w => (gselAt w slot).isSome }
  let result := fun (s : State) (w : Warp) (z : BarRes) =>
    let r : Ready := ⟨w, effLanes w g, false, [], w.kept.1, false⟩
    finish s (updWarp s w.uid fun w => { w with barRes := none }) i r { traps := true }
      [(lowLane r.eff, .ok (if arg then [z.acc, z.idx] else [z.acc]) z.fl z.nan)]
  match s.issuer with
  | none => .fault .noWarp
  | some w =>
    if skipped w then
      issue (updWarp s w.uid fun w => { w with barWait := none, barRes := none }) i fun t _ => t
    else match w.barRes with
    | some z => .next (result s w z)
    | none => if w.barWait.isSome then .next (holdAt s w.uid .barrier 0) else issue s i fun t r =>
      let v := r.val 0 0
      let x := if arg then (if b == .reg .zr then none else some (r.val 1 0)) else some vZero
      if !tyOk ty v.tag || (x.any fun x => x.tag != .int) then faultReady t r typeFlt i.size
      else match findLaunch t r.w.asid r.w.launch, gselAt r.w slot with
        | some l, some k =>
          let rank := ((l.group k).rank r.w.wnum).getD 0
          (match arriveRound l k op ty ⟨rank, r.w.uid, v, x.getD (vNat rank)⟩ with
          | none => faultReady t r (flt .instruction 6) i.size
          | some _ =>
            let t := noteRelease t r.w.uid 2
            let t := updLaunch t r.w.asid r.w.launch fun l =>
              (arriveRound l k op ty ⟨rank, r.w.uid, v, x.getD (vNat rank)⟩).getD l
            let t := updWarp t r.w.uid fun w => { w with
              barWait := some ⟨r.w.launch, k⟩, held := some .barrier }
            endRounds t r.w.asid r.w.launch)
        | _, _ => faultReady t r operandFlt i.size

end Sys2Proof.Machine
end

