-- ==== Sys2Proof/Machine/Copy.lean ====
section
/-! DEFINITION. Copies: CPY, CPYG, CPYM, CPYD, CPYS, the copy unit, suspension and its delivery
(spec/16 R380-R393, R399, R405). -/

namespace Sys2Proof.Machine

/-! ### Slots and tickets (R380, R381) -/

def findCopy (s : State) (p : Pos) (slot : Nat) : Option CopyJob :=
  (getCore s p).copies.find? fun j => j.slot == slot

def putCopy (s : State) (p : Pos) (j : CopyJob) : State :=
  updCore s p fun c => { c with copies := modifyFirst (fun x => x.slot == j.slot) (fun _ => j) c.copies }

/-- Free a slot; a follow-on that can no longer come leaves its batch (R389). -/
def dropCopy (s : State) (p : Pos) (j : CopyJob) : State :=
  syncBatch (updCore s p fun c => { c with copies := c.copies.filter fun x => x.slot != j.slot }) j.warp

/-- The ticket of an accepted copy or decoder job (R380). -/
def ticketOf (p : Pos) (seq slot : Nat) : Nat := posBits p + seq % 2 ^ 26 * 64 + slot

/-- The lowest free slot of a copy unit. -/
def freeSlot (c : Core) : Option Nat :=
  (List.range 64).find? fun k => !(c.copies.any fun j => j.slot == k)

/-- Accept a copy of warp `w` in slot `k` (R381, R383): the answer is its ticket. -/
def takeCopy (s : State) (w : Warp) (k : Nat) (kind : CopyKind) (st : CopySt) (n esz : Nat) (g : Gauge) :
    State × Nat :=
  let c := getCore s w.pos
  let scan := match kind with
    | .cpyd _ _ _ _ => some (0, 0)
    | _ => none
  let j : CopyJob :=
    { slot := k, seq := c.seq, asid := w.asid, warp := w.uid, wnum := w.wnum, st := st, kind := kind, n := n
      esz := esz, done := 0, scan := scan, found := [], gauge := g, sup := w.sup, flt := none, orphan := 0 }
  (putCore s { c with seq := c.seq + 1, copies := c.copies ++ [j] }, ticketOf w.pos c.seq k)

/-- Issue of a copy: a release to the engine, then the ticket; a full unit holds the warp (R310, R381). -/
def acceptCopy (s : State) (w : Warp) (kind : CopyKind) (n esz : Nat) (g : Gauge) : Res (List Val) :=
  match freeSlot (getCore s w.pos) with
  | none => .hold .copySlots 0
  | some k =>
    let (s, t) := takeCopy (noteRelease s w.uid 5) w k kind .queued n esz g
    .ok s [vNat t]

/-! ### The checks at issue (R383) -/

/-- A scalar address operand, a multiple of 64. -/
def recAddr (v : Val) : Except LFault Nat :=
  if !(v.tag == .int || v.tag == .raw || v.tag == .ref) then .error typeFlt
  else if v.n < 2 ^ 56 && v.n % 64 != 0 then .error (fltAt .protection 1 v.n)
  else .ok v.n

/-- The layout of a register-window destination moves whole words (R383 check 3). -/
def regWinOk (l : Layout) : Bool := !(l.space == 2 && l.wsp == 1) || l.esz == 3

/-- Checks 1 to 3 of R383: the destination's and the source's layout. -/
def copyLayouts (s : State) (w : Warp) (dst src : Val) (tg : Bool) : Res (Layout × Layout) :=
  match recAddr dst, recAddr src with
  | .error f, _ => .bad s f
  | _, .error f => .bad s f
  | .ok a, .ok b =>
    (recordWords s w.who a 8).bind fun s x => (recordWords s w.who b 8).bind fun s y =>
      match layoutOf x, layoutOf y with
      | some d, some l =>
        if d.esz == l.esz && d.count == l.count && decide (d.count * 2 ^ d.esz < 2 ^ 40)
            && (!tg || d.esz == 3) && regWinOk d then .ok s (d, l)
        else .bad s layoutFlt
      | _, _ => .bad s layoutFlt

/-- The gauge operand and its check at issue (R377). -/
def copyGauge (s : State) (w : Warp) (g : Except LFault Gauge) : Res Gauge :=
  match g with
  | .error f => .bad s f
  | .ok g => (gaugeCheck s w.who g).map fun _ => g

/-- CPY (R383). -/
def execCpy (g : Guard) (tg : Bool) (d : Dst) (dst src gauge : Src) (s : State) :
    Host.Outcome State Fault Refusal :=
  onceIns s (onceOf g d [dst, src, gauge]) fun s r =>
    (copyLayouts s r.w (r.val 0 0) (r.val 1 0) tg).bind fun s l =>
      (copyGauge s r.w (gaugeOf r.w (r.val 2 0))).bind fun s ga =>
        acceptCopy s r.w (.cpy l.1 l.2 tg) l.1.count l.1.esz ga

/-! ### CPYG (R388) -/

/-- The gauge of a collective names memory. -/
def collGauge (w : Warp) (v : Val) : Except LFault Gauge :=
  match gaugeOf w v with
  | .ok (.spad _ _ off) => .error (gaugeFlt off)
  | r => r

/-- The slice's layouts, or none for a member that gives no slice. -/
def sliceLayouts (s : State) (w : Warp) (dst src : Src) (a b : Val) (tg : Bool) :
    Res (Option (Layout × Layout)) :=
  if dst == .reg .zr && src == .reg .zr then .ok s none
  else if dst == .reg .zr || src == .reg .zr then .bad s layoutFlt
  else (copyLayouts s w a b tg).map some

/-- The first round of a group that has not started and at which member `wnum` has not arrived: a member arrives
once a round, so that its next CPYG is its arrival at the round after (R222; log 59). -/
def openRound (s : State) (asid n k wnum : Nat) : Option CRound :=
  s.crounds.find? fun r =>
    r.asid == asid && r.launch == n && r.group == k && !r.started && !r.arr.contains wnum

def updRound (s : State) (id : Nat) (f : CRound → CRound) : State :=
  { s with crounds := modifyFirst (fun r => r.id == id) f s.crounds }

/-- The job is a slice of the round. -/
def inRound (id : Nat) (j : CopyJob) : Bool :=
  match j.kind with
  | .slice _ _ r => r == id
  | _ => false

/-- The job is the ticket of a member that gave no slice. -/
def noSlice (j : CopyJob) : Bool :=
  match j.kind with
  | .slice none _ _ => true
  | _ => false

/-- The last slice of a round has completed. -/
def endRound (s : State) (id : Nat) : State :=
  { s with
    crounds := s.crounds.filter fun r => r.id != id
    cores := s.cores.map fun c => { c with copies := c.copies.filter fun j => !(inRound id j) } }

/-- The members of a round have all arrived, and it ends (R222): its slices may begin, and the tickets of the
members without a slice move to state 0. -/
def startRound (s : State) (r : CRound) : State :=
  let s := updRound s r.id fun r => { r with started := true }
  let go := fun (j : CopyJob) => if inRound r.id j then { j with st := CopySt.queued } else j
  let s := { s with cores := s.cores.map fun c => { c with
    copies := (c.copies.filter fun j => !(inRound r.id j && noSlice j)).map go } }
  if r.left == 0 then endRound s r.id else s

/-- Start every round of a launch that is complete; retired members do not count (R222, R388). -/
def startRounds (s : State) (asid n : Nat) : State :=
  match findLaunch s asid n with
  | none => s
  | some l =>
    (s.crounds.filter fun r => r.asid == asid && r.launch == n && !r.started && allArrived l r.group r.arr).foldl
      startRound s

/-- CPYG. -/
def execCpyg (g : Guard) (slot : BitVec 2) (tg : Bool) (d : Dst) (dst src gauge : Src) (s : State) :
    Host.Outcome State Fault Refusal :=
  onceIns s { onceOf g d [dst, src, gauge] with chk := fun w => (gselAt w slot).isSome } fun s r =>
    let w := r.w
    (sliceLayouts s w dst src (r.val 0 0) (r.val 1 0) tg).bind fun s l =>
      (copyGauge s w (collGauge w (r.val 2 0))).bind fun s ga =>
        let k := (gselAt w slot).getD 0
        let n := match l with
          | some (x, _) => x.count
          | none => 0
        let esz := match l with
          | some (x, _) => x.esz
          | none => 0
        let join := fun (s : State) (id : Nat) => match freeSlot (getCore s w.pos) with
          | none => Res.hold .copySlots 0
          | some c =>
            let (s, t) := takeCopy (noteRelease s w.uid 5) w c (.slice l tg id) .waiting n esz .none
            let s := updRound s id fun q => { q with
              arr := q.arr ++ [w.wnum], bytes := q.bytes + n * 2 ^ esz
              left := if l.isSome then q.left + 1 else q.left }
            .ok (startRounds s w.asid w.launch) [vNat t]
        match openRound s w.asid w.launch k w.wnum with
        | some q => if q.gauge == ga && q.tg == tg then join s q.id else .bad s (flt .instruction 11)
        | none =>
          let q : CRound := ⟨s.nextRec, w.asid, w.launch, k, ga, tg, [], 0, false, 0⟩
          join { s with crounds := s.crounds ++ [q], nextRec := s.nextRec + 1 } q.id

/-! ### CPYM (R389) -/

/-- Where a follow-on's operands may be written. -/
def followDst (l : Layout) : Bool :=
  l.space == 1 || (l.space == 2 && l.place == 0 && (l.wsp == 0 || l.wsp == 2))

/-- CPYM. -/
def execCpym (g : Guard) (tg : Bool) (d : Dst) (dst src gauge : Src) (follow : Word) (s : State) :
    Host.Outcome State Fault Refusal :=
  onceIns s { onceOf g d [dst, src, gauge] with size := 16 } fun s r =>
    (copyLayouts s r.w (r.val 0 0) (r.val 1 0) tg).bind fun s l =>
      if !followDst l.1 then .bad s (flt .instruction 12)
      else (copyGauge s r.w (optGauge r.w gauge (r.val 2 0))).bind fun s ga =>
        acceptCopy s r.w (.cpym l.1 l.2 tg follow r.w.nt r.w.opn) l.1.count l.1.esz ga

/-! ### CPYD and CPYS (R390-R393) -/

def convFlt : LFault := flt .instruction 13

/-- Reserved fields of a conversion descriptor (R390). -/
def convOk (w : List Nat) (sparsify : Bool) : Bool :=
  let x := fun k => w.getD k 0
  bitsAt (x 0) 56 8 == 0 && bitsAt (x 0) 0 10 == 0 && bitsAt (x 2) 2 62 == 0
    && !(bitAt (x 2) (if sparsify then 1 else 0))
    && [3, 4, 5, 6, 7].all fun k => x k == 0

/-- Element sizes that an ETAG allows (R391). -/
def convEsz (etag esz : Nat) : Bool :=
  match Tag.ofNat? etag with
  | some .f32 => esz == 2 || esz == 3
  | some .bool => esz == 0 || esz == 3
  | _ => esz == 3

/-- Dimension `d` of a key (R355). -/
def keyDim (ws : List Nat) (d key : Nat) : Nat :=
  bitsAt key ((ws.drop (d + 1)).foldl (· + ·) 0) (ws.getD d 0)

/-- Extents beyond the region's rank are 1, and every coordinate of the box fits (R391). -/
def boxRankOk (q : Region) (l : Layout) : Bool := (l.ext.drop (q.rank + 1)).all fun e => e == 1

def boxFits (q : Region) (l : Layout) (origin : Nat) : Bool :=
  decide (origin < 2 ^ q.width) && (List.range (q.rank + 1)).all fun j =>
    let d := q.rank - j
    decide (keyDim q.ws d origin + l.ext.getD j 1 ≤ 2 ^ q.ws.getD d 0)

/-- The key of element `n` of the box: a coordinate never carries into the next, since it fits. -/
def boxKey (q : Region) (l : Layout) (origin n : Nat) : Nat :=
  ((idxOf l.ext n).zipIdx).foldl (fun k p =>
    if p.2 ≤ q.rank then k + p.1 * 2 ^ ((q.ws.drop (q.rank - p.2 + 1)).foldl (· + ·) 0) else k) origin

/-- The checks of R391 but for the gauge: the descriptor's words and the layout. A dense side in a register window
moves whole words here too, as CPY's destination does (R383); R391 does not list that check (log 38). -/
def convCheck (s : State) (w : Warp) (cd : Val) (sparsify : Bool) : Res (List Nat × Layout) :=
  match recAddr cd with
  | .error f => .bad s f
  | .ok a => (recordWords s w.who a 16).bind fun s x =>
    if !convOk x sparsify then .bad s convFlt
    else (spRegion s w (vRef (x.getD 0 0))).bind fun s q =>
      match layoutOf (x.drop 8) with
      | none => .bad s layoutFlt
      | some l =>
        if !convEsz q.etag l.esz || !boxRankOk q l || (bitAt (x.getD 2 0) 1 && l.esz != 3)
            || !(sparsify || regWinOk l) then .bad s layoutFlt
        else if !boxFits q l (x.getD 1 0) then .bad s (flt .arithmetic 6)
        else .ok s (x, l)

/-- CPYD (R391, R392). -/
def execCpyd (g : Guard) (d : Dst) (cd gauge : Src) (s : State) : Host.Outcome State Fault Refusal :=
  onceIns s (onceOf g d [cd, gauge]) fun s r =>
    (convCheck s r.w (r.val 0 0) false).bind fun s x =>
      (copyGauge s r.w (gaugeOf r.w (r.val 1 0))).bind fun s ga =>
        acceptCopy s r.w (.cpyd (x.1.getD 0 0) (x.1.getD 1 0) (bitAt (x.1.getD 2 0) 1) x.2) x.2.count x.2.esz ga

/-- CPYS (R391, R393). -/
def execCpys (g : Guard) (d : Dst) (cd gauge : Src) (s : State) : Host.Outcome State Fault Refusal :=
  onceIns s (onceOf g d [cd, gauge]) fun s r =>
    (convCheck s r.w (r.val 0 0) true).bind fun s x =>
      (copyGauge s r.w (gaugeOf r.w (r.val 1 0))).bind fun s ga =>
        acceptCopy s r.w (.cpys (x.1.getD 0 0) (x.1.getD 1 0) (bitAt (x.1.getD 2 0) 0) x.2) x.2.count x.2.esz ga

/-! ### The engine (R382, R384, R385) -/

/-- Engine accesses of a copy: the warp's ASID, its CPL.SUP at issue, the accepting core (R384). -/
def copyWho (p : Pos) (j : CopyJob) : Who :=
  { asid := j.asid, pos := p, sup := j.sup, warp := j.warp, eng := true }

/-- The region, the stripe's engine and the key of an element of a box. -/
def boxElem (s : State) (p : Pos) (j : CopyJob) (desc origin : Nat) (l : Layout) (n : Nat) :
    Res (Region × Who × Nat × Nat) :=
  let who := { copyWho p j with sup := true }
  (engRegion s who desc).bind fun s q =>
    let key := boxKey q l origin n
    (stripeRead s who desc (q.stripe key)).map fun t => (q, engWho j.asid t.eng j.warp, q.stripe key, key)

/-- The value a dense element gives (R393). -/
def denseVal (etag : Nat) (x : Nat) : Val :=
  match Tag.ofNat? etag with
  | some .f32 => vF32 (x % 2 ^ 32)
  | some .bool => vBool (x != 0)
  | some .ref => if x == 0 then vNil else canonLit .ref (wordN x)
  | some t => ⟨t, wordN x⟩
  | none => vRaw x

/-- Move element `n` of a copy. -/
def copyElem (s : State) (p : Pos) (j : CopyJob) (n : Nat) : Res Unit :=
  let who := copyWho p j
  let move := fun (d l : Layout) (tg : Bool) =>
    (layRead s who l n tg).bind fun s v => layWrite s who d n tg v
  match j.kind with
  | .cpy d l tg => move d l tg
  | .slice (some (d, l)) tg _ => move d l tg
  | .slice none _ _ => .ok s ()
  | .cpym d l tg _ _ _ => move d l tg
  | .cpyd desc o tg l => (engRegion s { who with sup := true } desc).bind fun s q =>
    let key := boxKey q l o n
    layWrite s who l n tg (((j.found.find? fun e => e.1 == key).map fun e => e.2).getD (zeroOf q.etag))
  | .cpys desc o mrg l => (layRead s who l n false).bind fun s x =>
    (boxElem s p j desc o l n).bind fun s (q, e, str, key) =>
      let v := denseVal q.etag x.n
      if mrg && deletes v then .ok s ()
      else (entryStep s e desc str q.etag key fun _ => some v).map fun _ => ()

/-- One step of the traversal of a box: the least key from the last one on, or on to the next stripe (R371,
R392). It begins at the box's origin, which a key below it stands for. -/
def boxStep (s : State) (p : Pos) (j : CopyJob) (desc o : Nat) (l : Layout) (str k : Nat) : Res CopyJob :=
  let who := { copyWho p j with sup := true }
  (engRegion s who desc).bind fun s q =>
    let str := if k < o then q.stripe o else str
    let k := max k o
    (stripeRead s who desc str).bind fun s t =>
    let top := boxKey q l o (l.count - 1)
    (openTx s (engWho j.asid t.eng j.warp) desc str).bind fun s x =>
      (stripeScan s x k (some (top + 1)) 1).bind fun s e => match e with
        | (k, v) :: _ => .ok s { j with found := (k, v) :: j.found, scan := some (str, k + 1) }
        | [] =>
          let next := q.ks.getD (str + 1) 0
          .ok s { j with scan := if str < q.nstr && next ≤ top then some (str + 1, next) else none }

/-- Where a destination element is, by aligned 8-byte words; none for entries of a region. -/
def dstWord (s : State) (p : Pos) (j : CopyJob) (n : Nat) : Option Place :=
  let at_ := fun (d : Layout) => match elemPlace s (copyWho p j) d n with
    | .ok (.mem va) => some (Place.mem (va / 8))
    | .ok (.win q sp off) => some (.win q sp (off / 8))
    | .error _ => none
  match j.kind with
  | .cpy d _ _ => at_ d
  | .slice (some (d, _)) _ _ => at_ d
  | .slice none _ _ => none
  | .cpym d _ _ _ _ _ => at_ d
  | .cpyd _ _ _ l => at_ l
  | .cpys _ _ _ _ => none

/-- The next element goes into the word of the element before: the engine writes an aligned word at once (R306, R315). -/
def sameWord (s : State) (p : Pos) (j : CopyJob) : Bool :=
  j.done != 0 && decide (j.done < j.n) && (dstWord s p j j.done).isSome && dstWord s p j j.done == dstWord s p j (j.done - 1)

/-- The layouts whose scratchpad groups a copy uses (R292). -/
def copyLays (j : CopyJob) : List Layout :=
  match j.kind with
  | .cpy d l _ => [d, l]
  | .slice (some (d, l)) _ _ => [d, l]
  | .slice none _ _ => []
  | .cpym d l _ _ _ _ => [d, l]
  | .cpyd _ _ _ l => [l]
  | .cpys _ _ _ l => [l]

/-! ### Suspension and its delivery (R381, R399) -/

/-- What a copy fault reports (R399, R443, R447): the faulting address in every lane of FLM, and in all of them in
the record of a fault that no warp takes. -/
def copyReport (f : LFault) (m : Mask) (pc : Addr) (ticket : Nat) : Report :=
  { cls := f.cls, det := f.det, info := f.info, flm := m, rlm := 0#32, fva := if m == 0#32 then List.replicate 32 (wordN f.fva) else fvaAll m f.fva
    async := 1, kind := .copy, repPc := pc, resPc := pc, ticket := ticket, lanes := m, whole := false
    popped := [] }

/-- A suspended copy's fault is due to its warp, or goes to the host when that warp has retired: the answer
is the orphan's id, or 0 (R399, R451). -/
def copyDue (s : State) (asid wnum warp : Nat) (p : Pos) (seq slot : Nat) (dec : Bool) (f : LFault) :
    State × Nat :=
  match findWarp s warp with
  | some _ => (updWarp s warp fun w => { w with copyDue := w.copyDue ++ [(p, slot, dec)] }, 0)
  | none => escalateGone s ⟨asid, wnum, p.die⟩ (copyReport f 0#32 0#56 (ticketOf p seq slot))

/-- Suspend a copy at its prefix. -/
def copySuspend (s : State) (p : Pos) (j : CopyJob) (f : LFault) : State :=
  let j := { j with st := .suspended, flt := some f }
  let (s, id) := copyDue (putCopy s p j) j.asid j.wnum j.warp p j.seq j.slot false f
  putCopy s p { j with orphan := id }

/-- One element from the prefix on, or one step of the traversal before it. -/
def copyOne (s : State) (p : Pos) (j : CopyJob) : Res CopyJob :=
  match j.kind, j.scan with
  | .cpyd desc o _ l, some (str, k) => boxStep s p j desc o l str k
  | _, _ => (copyElem s p j j.done).map fun _ => { j with done := j.done + 1 }

/-- The rest of the word that has been begun, `f` elements at most. -/
def copyRest (p : Pos) : Nat → State → CopyJob → Res CopyJob
  | 0, s, j => .ok s j
  | f + 1, s, j => if sameWord s p j then (copyOne s p j).bind fun s j => copyRest p f s j else .ok s j

/-- One aligned word of the destination, which the engine writes at once: a fault or a wait inside it leaves all of
it unwritten (R306, R315). Or one entry of a region, or one step of a traversal. -/
def copyWord (s : State) (p : Pos) (j : CopyJob) : Res CopyJob :=
  ((copyOne s p j).bind fun s j => copyRest p 8 s j).undo s

/-- Up to `k` of them. -/
def copyRun (p : Pos) : Nat → State → CopyJob → State
  | 0, s, j => putCopy s p j
  | k + 1, s, j =>
    if j.n ≤ j.done then putCopy s p j
    else match copyWord s p j with
      | .ok s j => copyRun p k s j
      | .bad s f => copySuspend s p j f
      | .hold h l => engineHold (putCopy s p j) j.asid h l

/-- COPY_BEGIN: copies of one core begin in acceptance order (R381). -/
def execCopyBegin (p : Pos) (slot : Nat) (s : State) : Host.Outcome State Fault Refusal :=
  .next (match findCopy s p slot with
    | some j =>
      let first := (getCore s p).copies.all fun x => x.st != .queued || decide (j.seq ≤ x.seq)
      if j.st == .queued && first then putCopy s p { j with st := .running } else s
    | none => s)

/-- COPY_TRANSFER: `n` more words, or as many as are left, or steps of a traversal (R382, R384, R392). -/
def execCopyTransfer (p : Pos) (slot n : Nat) (s : State) : Host.Outcome State Fault Refusal :=
  .next (match findCopy s p slot with
    | some j =>
      if j.st != .running then s
      else
        let s := copyRun p n s j
        let b := ((findCopy s p slot).map fun x => x.done).getD j.done
        (copyLays j).foldl (fun s l => layGroups s (copyWho p j) l j.done b) s
    | none => s)

/-! ### Completion (R384, R388, R389) -/

/-- The follow-on of a CPYM, checked and accepted as the warp's own (R389, R420, R422, R430): its operands
are the warp's, a tile register naming a tile of the accepting core. -/
def followOn (s : State) (p : Pos) (j : CopyJob) (word : Word) (nt : Bool) (batch : BitVec 31) : Res Unit :=
  match findWarp s j.warp with
  | none => .ok s ()
  | some w =>
    let a : Accept := ⟨p, j.asid, j.warp, batch, nt, true⟩
    let at_ := { w with pos := p }
    let ops := fun (l : List Src) (k : List Val → State → Res Unit) =>
      if l.any (fun x => srcVec w x || !srcOk w x) then Res.bad s operandFlt
      else if !(l.all (srcChanOk w)) then .bad s chanFlt
      else (readSrcs s at_ l []).bind fun s o => k (o.1.map fun x => x.lane 0) s
    match decodeWord word 0#64 with
    | .ok (.mma _ pair set blk acc ta tb) => ops [ta, tb] fun v s =>
      withTile s at_ (v.getD 0 vNil) fun x => withTile s at_ (v.getD 1 vNil) fun y =>
        acceptMma s a pair set blk acc.toNat x y
    | .ok (.sacc _ f32 ad ap sa sb) => ops [sa, sb] fun v s =>
      acceptSacc s a f32 ad.toNat ap.toNat (v.getD 0 vNil) (v.getD 1 vNil)
    | _ => .bad s (flt .undefinedInstr 0)

/-- The addition that ends a copy (R384): its gauge is then done with. -/
def copyAdd (s : State) (p : Pos) (j : CopyJob) : Res Unit :=
  gaugeAdd s { copyWho p j with sup := true } j.gauge (j.n * 2 ^ j.esz)

/-- A slice ends: the last one of its round adds the sum (R388). -/
def sliceEnd (s : State) (p : Pos) (j : CopyJob) (id : Nat) : State :=
  match s.crounds.find? fun r => r.id == id with
  | none => dropCopy s p j
  | some r =>
    if 1 < r.left then dropCopy (updRound s id fun r => { r with left := r.left - 1 }) p j
    else match gaugeAdd s { copyWho p j with sup := true } r.gauge r.bytes with
      | .ok s _ => endRound s id
      | .bad s f => copySuspend s p j f
      | .hold h l => engineHold s j.asid h l

/-- The addition, and the end of a copy. -/
def copyEnd (s : State) (p : Pos) (j : CopyJob) : State :=
  match copyAdd s p j with
  | .ok s _ => dropCopy s p j
  | .bad s f => copySuspend (putCopy s p j) p j f
  | .hold h l => engineHold (putCopy s p j) j.asid h l

/-- COPY_COMPLETION. -/
def execCopyCompletion (p : Pos) (slot : Nat) (s : State) : Host.Outcome State Fault Refusal :=
  .next (match findCopy s p slot with
    | some j =>
      if j.st != .running || j.done < j.n then s
      else match j.kind with
        | .slice _ _ id => sliceEnd s p j id
        | .cpym d l tg word nt batch =>
          -- the follow-on issues when the last element is written, and the addition does not wait for it (R389)
          let plain := { j with kind := .cpy d l tg }
          (match followOn s p j word nt batch with
          | .ok s _ => copyEnd s p plain
          | .hold h l =>
            (match copyAdd s p j with
            | .ok s _ => engineHold (putCopy s p { j with gauge := .none }) j.asid h l
            | _ => engineHold s j.asid h l)
          | .bad s f =>
            let (s, plain) := match copyAdd s p j with
              | .ok s _ => (s, { plain with gauge := Gauge.none })
              | _ => (s, plain)
            syncBatch (copySuspend s p plain f) j.warp)
        | _ => copyEnd s p j
    | none => s)

/-- A suspended copy goes on from its prefix (R381, R450). -/
def copyRestart (s : State) (p : Pos) (slot : Nat) : State :=
  match findCopy s p slot with
  | some j =>
    if j.st != .suspended then s
    else putCopy s p { j with st := .running, flt := none, orphan := 0 }
  | none => s

/-- No due fault of a copy that is cancelled is delivered (R400). -/
def copyForget (s : State) (u : Nat) (p : Pos) (slot : Nat) (dec : Bool) : State :=
  updWarp s u fun w => { w with copyDue := w.copyDue.filter fun x => x != (p, slot, dec) }

/-- Cancel a copy (R400): its gauge receives nothing. A waiting slice is not cancelled. -/
def copyCancel (s : State) (p : Pos) (j : CopyJob) : State :=
  match j.kind with
  | .slice _ _ _ => s
  | _ => copyForget (dropCopy s p j) j.warp p j.slot false

end Sys2Proof.Machine
end

