-- ==== Sys2Proof/Machine/Decoder.lean ====
section
/-! DEFINITION. The stream decoder, CPYX, CPYQ and the delivery of copy faults (spec/16 R394-R400). -/

namespace Sys2Proof.Machine

/-! ### CPYX (R395, R397) -/

/-- A job offset, or the fault of R397. -/
def jobOff (v : Val) : Except LFault Nat :=
  if !intRaw v then .error (jobFlt 0)
  else if v.n % 64 == 0 && v.n < spadTop then .ok v.n
  else .error (jobFlt v.n)

/-- CPYX. -/
def execCpyx (g : Guard) (d : Dst) (job gauge : Src) (s : State) : Host.Outcome State Fault Refusal :=
  onceIns s (onceOf g d [job, gauge]) fun s r =>
    match jobOff (r.val 0 0) with
    | .error f => .bad s f
    | .ok off =>
      let ws := spadWords s r.w.pos r.w.asid off
      if !jobOk ws false then .bad s (jobFlt off)
      else (copyGauge s r.w (gaugeOf r.w (r.val 1 0))).bind fun s ga =>
        let c := getCore s r.w.pos
        match freeDec c with
        | none => .hold .copySlots 0
        | some k =>
          let s := noteRelease s r.w.uid 5
          let c := getCore s r.w.pos
          .ok (putCore s { c with seq := c.seq + 1, decs := c.decs ++ [newDec c r.w k off ws false ga] })
            [vNat (ticketOf r.w.pos c.seq k)]

/-! ### Code tables (R394) -/

/-- Number of symbols with a length. -/
def lenCount (tab : List Nat) (l : Nat) : Nat := (tab.filter fun x => x == l).length

/-- Reserved bits are zero and the lengths make a prefix code. -/
def tableOk (tab : List Nat) : Bool :=
  (tab.all fun x => x < 16)
    && decide (((List.range 15).map fun i => lenCount tab (i + 1) * 2 ^ (14 - i)).sum ≤ 2 ^ 15)

/-- The `n`-th symbol of length `l`, ascending. -/
def symbolAt (tab : List Nat) (l n : Nat) : Nat :=
  (((List.range 256).filter fun k => tab.getD k 0 == l).drop n).headD 0

/-- What the stream gives. -/
inductive Sym where
  | sym (v : Nat)
  | err

/-- One bit of the stream (R394): none past SLEN. -/
def streamBit (s : State) (who : Who) (j : DecJob) (pos : Nat) : Res (Option Nat) :=
  if jobSlen j.words ≤ pos / 8 then .ok s none
  else
    let va := jobSrc j.words + pos / 8
    (checkVa s who .load va 1).bind fun s t =>
      Res.at ((physLoad s who who.det t.da 1).map fun b => some (b / 2 ^ (7 - pos % 8) % 2)) va

/-- One symbol: `code` is the bits read, `first` the first code of the next length; the answer carries the
next bit's place. -/
def readSym (who : Who) (j : DecJob) : List Nat → State → Nat → Nat → Nat → Res (Sym × Nat)
  | [], s, pos, _, _ => .ok s (.err, pos)
  | l :: ls, s, pos, code, first =>
    (streamBit s who j pos).bind fun s b => match b with
      | none => .ok s (.err, pos)
      | some b =>
        let code := code * 2 + b
        let n := lenCount j.tab l
        if first ≤ code && code < first + n then .ok s (.sym (symbolAt j.tab l (code - first)), pos + 1)
        else readSym who j ls s (pos + 1) code ((first + n) * 2)

def nextSym (s : State) (who : Who) (j : DecJob) (pos : Nat) : Res (Sym × Nat) :=
  readSym who j ((List.range 15).map (· + 1)) s pos 0 0

/-- A varint of at most ten symbols (R396): `k` is the number of the next one. -/
def readVarint (who : Who) (j : DecJob) : Nat → State → Nat → Nat → Nat → Res (Sym × Nat)
  | 0, s, pos, _, _ => .ok s (.err, pos)
  | f + 1, s, pos, k, u =>
    (nextSym s who j pos).bind fun s r => match r.1 with
      | .err => .ok s (.err, r.2)
      | .sym v =>
        if k == 9 && 1 < v then .ok s (.err, r.2)
        else
          let u := u + v % 128 * 2 ^ (7 * k)
          if 128 ≤ v then readVarint who j f s r.2 (k + 1) u else .ok s (.sym u, r.2)

/-- The signed number of a zigzag varint as a word (R396). -/
def zigzag (u : Nat) : Word := (wordN u >>> 1) ^^^ (0#64 - (wordN u &&& 1#64))

/-- The next element: its value and the job after it, or a decode error. -/
def nextElem (s : State) (who : Who) (j : DecJob) : Res (Option (Val × DecJob)) :=
  let mode := jobMode j.words
  if mode == 0 then
    (nextSym s who j j.bitPos).map fun r => match r.1 with
      | .sym v => some (vNat v, { j with bitPos := r.2 })
      | .err => none
  else
    (readVarint who j 10 s j.bitPos 0 0).map fun r => match r.1 with
      | .err => none
      | .sym u =>
        if mode == 1 then some (⟨.int, zigzag u⟩, { j with bitPos := r.2 })
        else
          let dl := j.delta + zigzag u
          some (⟨.ts, j.tm + dl⟩, { j with bitPos := r.2, delta := dl, tm := j.tm + dl })

/-! ### The decoder at work (R396, R398) -/

def decAt (s : State) (p : Pos) (slot : Nat) : Option DecJob :=
  (getCore s p).decs.find? fun j => j.slot == slot

def decWho (p : Pos) (j : DecJob) : Who :=
  { asid := j.asid, pos := p, sup := j.sup, warp := j.warp, eng := true }

/-- PROD and CONS in the record (R395). -/
def putCounts (s : State) (p : Pos) (j : DecJob) : State :=
  spadSet s p j.asid (j.off + 40) 8 (j.prod * 2 ^ 32 + (j.bitPos + 7) / 8)

/-- Suspend a CPYX job; a channel job keeps its error for the warp that pops (R398). -/
def decStop (s : State) (p : Pos) (j : DecJob) (f : LFault) : State :=
  let s := putCounts s p j
  if j.chan then putDec s p { j with err := true, ended := true, flt := some f }
  else
    let j := { j with st := .suspended, flt := some f }
    let (s, id) := copyDue (putDec s p j) j.asid j.wnum j.warp p j.seq j.slot true f
    putDec s p { j with orphan := id }

/-- Output one element: into the scratchpad, or towards the channel. -/
def decPut (s : State) (p : Pos) (old j : DecJob) (v : Val) : State × DecJob :=
  if j.chan then (s, { j with prod := j.prod + 1, buf := j.buf ++ [v] })
  else
    let sz := jobElem j.words
    (spadSet s p j.asid (jobDst j.words + old.prod * sz) sz v.n, { j with prod := j.prod + 1 })

/-- The next element begins an aligned word of the output, or the output is no byte string. -/
def decWordStart (j : DecJob) : Bool :=
  j.chan || jobMode j.words != 0 || (jobDst j.words + j.prod) % 8 == 0

/-- Up to `k` elements: one that must wait leaves the word it belongs to as it was, in state `s0` with job `j0`, since
the engine writes an aligned word at once (R306). -/
def decRun (p : Pos) : Nat → State → DecJob → State → DecJob → State
  | 0, _, _, s, j => putDec s p j
  | k + 1, s0, j0, s, j =>
    if jobNel j.words ≤ j.prod || (j.chan && 128 ≤ j.buf.length) then putDec s p j
    else
      let (s0, j0) := if decWordStart j then (s, j) else (s0, j0)
      match nextElem s (decWho p j) j with
      | .bad s f => decStop s p j f
      | .hold h l => engineHold (putDec s0 p j0) j.asid h l
      | .ok s none => decStop s p j (flt .arithmetic 8)
      | .ok s (some (v, j')) =>
        let (s, j') := decPut s p j j' v
        decRun p k s0 j0 s j'

/-- The job that the decoder may work on (R398): the oldest copy job that is not suspended, or any channel
job. -/
def decTurn (c : Core) (j : DecJob) : Bool :=
  (j.st == .queued || j.st == .running) && !j.ended &&
    (j.chan || c.decs.all fun x => x.chan || x.st == .suspended || decide (j.seq ≤ x.seq))

/-- Elements of the next beat of 32 words: bytes end with an aligned word, which the engine writes at once (R306). -/
def beatLen (j : DecJob) : Nat :=
  if j.chan || jobMode j.words != 0 then 32 else 32 - (jobDst j.words + j.prod) % 8

/-- A beat, with its access group (R292). -/
def decBeat (s : State) (p : Pos) (slot : Nat) (j : DecJob) : State :=
  let s := decRun p (beatLen j) s j s j
  if j.chan then s
  else
    let n := ((decAt s p slot).map fun x => x.prod).getD j.prod
    bankGroup s p ((List.range (n - j.prod)).map fun k => jobDst j.words + (j.prod + k) * jobElem j.words)

/-- DECODER_OUTPUT: the table is read when the job begins, or begins again after it was refused; then up to 32
elements. -/
def execDecoderOutput (p : Pos) (job : Nat) (s : State) : Host.Outcome State Fault Refusal :=
  .next (match decAt s p job with
    | some j =>
      if !decTurn (getCore s p) j || !ctxHere s p j.asid then s
      else if j.st == .queued || j.tab.isEmpty then
        let tab := (List.range 256).map fun k => spadGet s p j.asid (jobTbl j.words + k) 1
        let j := { j with st := .running }
        if tableOk tab then decBeat s p job { j with tab := tab } else decStop s p j (flt .arithmetic 8)
      else decBeat s p job j
    | none => s)

/-- DECODER_JOB_END (R395-R397): the counts, then the addition that ends a copy job; a channel job stays
until its binding goes. -/
def execDecoderJobEnd (p : Pos) (job : Nat) (s : State) : Host.Outcome State Fault Refusal :=
  .next (match decAt s p job with
    | some j =>
      if j.st != .running || j.ended || j.prod < jobNel j.words || !ctxHere s p j.asid then s
      else
        let s := putCounts s p j
        if j.chan then putDec s p { j with ended := true }
        else match gaugeAdd s { decWho p j with sup := true } j.gauge (j.prod * jobElem j.words) with
          | .ok s _ => updCore s p fun c => { c with decs := c.decs.filter fun x => x.seq != j.seq }
          | .bad s f => decStop s p j f
          | .hold h l => engineHold s j.asid h l
    | none => s)

/-- A suspended job goes on; one whose table was refused reads it again. -/
def decRestart (s : State) (p : Pos) (slot : Nat) : State :=
  match decAt s p slot with
  | some j =>
    if j.st == .suspended && !j.chan then
      putDec s p { j with st := .running, flt := none, orphan := 0 }
    else s
  | none => s

/-- Cancel a copy job of the decoder. -/
def decCancel (s : State) (p : Pos) (j : DecJob) : State :=
  let s := putCounts s p j
  copyForget (updCore s p fun c => { c with decs := c.decs.filter fun x => x.seq != j.seq }) j.warp p j.slot true

/-! ### CPYQ (R400) -/

def CopySt.code : CopySt → Nat
  | .queued => 1 | .running => 2 | .suspended => 3 | .waiting => 4

/-- A ticket's core, or the fault of its value. -/
def ticketPos (v : Val) : Except LFault Pos :=
  if v.tag != .int then .error typeFlt
  else
    let p : Pos := ⟨bitsAt v.n 32 4, bitsAt v.n 36 5, bitsAt v.n 41 4⟩
    if v.n < 2 ^ 45 && tilePosOk v.pl then .ok p else .error (flt .arithmetic 4)

/-- What a ticket names: a copy or a copy job of the decoder of this context. -/
def ticketCopy (s : State) (asid : Nat) (p : Pos) (t : Nat) : Option CopyJob :=
  (getCore s p).copies.find? fun j =>
    j.slot == t % 64 && j.seq % 2 ^ 26 == bitsAt t 6 26 && j.asid == asid

def ticketDec (s : State) (asid : Nat) (p : Pos) (t : Nat) : Option DecJob :=
  (getCore s p).decs.find? fun j =>
    j.slot == t % 64 && j.seq % 2 ^ 26 == bitsAt t 6 26 && j.asid == asid && !j.chan

/-- Bytes completed and state: ⟨NIL, 0⟩ and 0 for a ticket that names nothing. -/
def copyStatus (s : State) (asid : Nat) (p : Pos) (t : Nat) : List Val :=
  match ticketCopy s asid p t with
  | some j => [vNat (j.done * 2 ^ j.esz), vNat j.st.code]
  | none => match ticketDec s asid p t with
    | some j => [vNat (j.prod * jobElem j.words), vNat j.st.code]
    | none => [vNil, vNat 0]

def onTicket (s : State) (asid : Nat) (p : Pos) (t : Nat) (f : State → Pos → CopyJob → State)
    (g : State → Pos → DecJob → State) : State :=
  match ticketCopy s asid p t with
  | some j => f s p j
  | none => match ticketDec s asid p t with
    | some j => g s p j
    | none => s

/-- CPYQ. -/
def execCpyq (g : Guard) (d : Dst) (k : Src) (s : State) : Host.Outcome State Fault Refusal :=
  onceIns s { onceOf g d [k] with dsts := argDsts d } fun s r =>
    match ticketPos (r.val 0 0) with
    | .error f => .bad s f
    | .ok p => .ok s (copyStatus s r.w.asid p (r.val 0 0).n)

/-- CPYQ.cancel: the prefix and the state before the cancellation. -/
def execCpyqCancel (g : Guard) (d : Dst) (k : Src) (s : State) : Host.Outcome State Fault Refusal :=
  onceIns s { onceOf g d [k] with dsts := argDsts d } fun s r =>
    match ticketPos (r.val 0 0) with
    | .error f => .bad s f
    | .ok p =>
      let t := (r.val 0 0).n
      .ok (onTicket s r.w.asid p t copyCancel decCancel) (copyStatus s r.w.asid p t)

/-! ### Delivery (R399, R449, R450) -/

/-- The ticket and fault of the first copy fault due to a warp. -/
def copyDueHead (s : State) (w : Warp) : Option (Nat × LFault) :=
  match w.copyDue with
  | [] => none
  | (p, slot, dec) :: _ =>
    if dec then (decAt s p slot).bind fun j => j.flt.map fun f => (ticketOf p j.seq slot, f)
    else (findCopy s p slot).bind fun j => j.flt.map fun f => (ticketOf p j.seq slot, f)

/-- Deliver it at a boundary of the warp. -/
def deliverCopy (s : State) (u : Nat) : State :=
  match findWarp s u with
  | none => s
  | some w =>
    let s' := updWarp s u fun w => { w with copyDue := w.copyDue.drop 1 }
    match copyDueHead s w with
    | some (t, f) => takeFault s' u (copyReport f w.em w.pc t)
    | none => s'

/-- SRET from a copy fault restarts what the ticket names (R450). -/
def ticketRestart (s : State) (asid t : Nat) : State :=
  match ticketPos (vNat t) with
  | .error _ => s
  | .ok p => onTicket s asid p t (fun s p j => copyRestart s p j.slot) (fun s p j => decRestart s p j.slot)

end Sys2Proof.Machine
end

