-- ==== Sys2Proof/Machine/Bolter.lean ====
section
/-! DEFINITION. New warps, the Bolter's bins and spill rings, the end of a launch (spec/01 R32,
spec/09 R237, R244-R248). -/

namespace Sys2Proof.Machine

/-! ### A warp at its first instruction (R32) -/

/-- A warp that holds nothing but what its record gives it. -/
def newWarp (u asid wnum launch die : Nat) (pc : Addr) (em : Mask) (rows : Nat) : Warp where
  uid := u
  asid := asid
  wnum := wnum
  launch := launch
  packed := false
  jca := 0
  die := die
  pos := ⟨die, 0, 0⟩
  slot := 0
  status := .queued
  since := 0
  allot := rows
  v := List.replicate rows nilRow
  sreg := List.replicate 64 vNil
  m := List.replicate 8 0#32
  latches := []
  em := em
  exited := 0#32
  pc := pc
  hnd := false
  sup := false
  gsel := List.replicate 4 none
  ceil := 0
  lvl := 0
  ncur := 0
  nlim := 0
  nt := false
  s52 := false
  s43 := true
  rm := 0#3
  fpst := 0#7
  ha := nilRow
  hb := nilRow
  hopRsn := false
  hopCls := 0
  hpc := 0#56
  flm := 0#32
  fva := noFva
  fcause := 0#64
  repc := 0
  hlt := false
  done := 0#31
  opn := 0#31
  awDue := []
  rwEn := false
  rwCnt := 0
  rwFst := 0
  nrec := 0#64
  stack := []
  spill := []
  hframes := []
  sframe := none
  replay := none
  nanDue := none
  mtraps := []
  copyDue := []
  mcDue := []
  wdDue := false
  chans := List.replicate 16 Chan.freed
  outstanding := []
  sparse := []
  refillErr := false
  regsReq := none
  barWait := none
  barRes := none
  intv := 0#28
  lscp := 15
  supp := false
  save := none
  saved := false
  hwId := 0
  hwKind := .fault
  event := none
  hwAct := 0
  joining := false
  contAt := 0
  contCtr := 0
  held := none

/-! ### Bins (R244-R246) -/

/-- The class of a launch. -/
def Launch.cls (l : Launch) (k : Nat) : SClass := l.classes.getD k ⟨0, 0, 0, 0, false, false, vNil⟩

/-- The packed warp of a bin's records (R246): lane j takes record j. -/
def packedWarp (u n die : Nat) (l : Launch) (b : Bin) : Warp :=
  let c := l.cls b.cls
  let em := maskWhere fun k => decide (k < b.recs.length)
  let row := fun (k : Nat) => rowWith fun j => if j < b.recs.length then ((b.recs.getD j []).getD k vNil) else vNil
  let w := newWarp u b.asid n b.launch die (BitVec.ofNat 56 c.entry) em c.rows
  { w with
    packed := true, jca := c.jca, lvl := c.lvl, ceil := l.ceil
    v := (List.range 4).map row ++ w.v.drop 4
    sreg := setAt w.sreg 0 c.arg }

/-- WNUMs of packed warps run from 2^31 and wrap to it (R26). -/
def nextPack (n : Nat) : Nat := if n == 2 ^ 32 - 1 then 2 ^ 31 else n + 1

/-- Close a bin: its packed warp is queued at the class's level (R245). -/
def closeBin (s : State) (die : Nat) (b : Bin) : State :=
  let s := updDie s die fun d => { d with bins := d.bins.filter fun x => x.id != b.id }
  match findLaunch s b.asid b.launch with
  | none => s
  | some l =>
    let n := (getCtx s b.asid).packNo
    let u := s.nextUid
    let w := packedWarp u n die l b
    let s := updCtx s b.asid fun c => { c with packNo := nextPack n }
    let s := updLaunch s b.asid b.launch fun l => { l with alive := l.alive + 1 }
    let s := { s with nextUid := u + 1, warps := s.warps ++ [w] }
    queueRec s die (.packed u) b.asid w.lvl l.ceil

/-- Append a record to its bin, or open one (R225): none where no bin can take it. The 32nd record closes the
bin at once. -/
def placeRec (s : State) (die asid launch cls key : Nat) (ws : List Val) (mayOpen : Bool) : Option State :=
  let d := getDie s die
  match d.bins.find? fun b => b.asid == asid && b.launch == launch && b.cls == cls && b.key == key with
  | some b =>
    let b := { b with recs := b.recs ++ [ws] }
    let s := updDie s die fun d => { d with bins := modifyFirst (fun x => x.id == b.id) (fun _ => b) d.bins }
    some (if b.recs.length < 32 then s else closeBin s die b)
  | none =>
    if mayOpen && d.bins.length < 128 then
      let s := updDie s die fun d => { d with bins := d.bins ++ [⟨s.nextRec, asid, launch, cls, key, [ws]⟩] }
      some { s with nextRec := s.nextRec + 1 }
    else none

/-! ### The spawn spill ring (R248) -/

def SpillRing.cap (r : SpillRing) : Nat := r.size / 64

/-- Domain address of record `k` of a ring. -/
def SpillRing.at (r : SpillRing) (k : Nat) : Nat :=
  let off := r.base % 65536 + 64 * (k % r.cap)
  r.frames.getD (off / 65536) 0 + off % 65536

def ringOf (s : State) (die asid : Nat) : Option SpillRing :=
  (getDie s die).rings.find? fun r => r.asid == asid

def updRing (s : State) (die asid : Nat) (f : SpillRing → SpillRing) : State :=
  updDie s die fun d => { d with rings := modifyFirst (fun r => r.asid == asid) f d.rings }

/-- The eight words of a spilled record (R248). -/
def spillWords (r : SpillRec) : List Val :=
  r.words ++ [vRaw (r.launch * 2 ^ 32 + r.cls * 256 + r.key), vZero, vZero, vZero]

/-- Spill a record; none where the ring has no room. -/
def spillRec (s : State) (u die asid : Nat) (r : SpillRec) : Option State :=
  match ringOf s die asid with
  | none => none
  | some g =>
    if g.cap ≤ g.recs.length then none
    else
      let s := sysPuts s u (g.at (g.head + g.recs.length)) (spillWords r)
      let s := updRing s die asid fun g => { g with recs := g.recs ++ [r] }
      some (updDie s die fun d => { d with spillOrd := d.spillOrd ++ [asid] })

/-- The report of a machine check, detail 3, that no warp can take (R451, R461). -/
def refillReport (a : Nat) : Report :=
  { cls := .machineCheck, det := 3, info := 0, flm := 0#32, rlm := 0#32
    fva := List.replicate 32 (wordN a), async := 0, kind := .after, repPc := 0#56, resPc := 0#56, ticket := 0
    lanes := 0#32, whole := false, popped := [] }

/-- Return spilled records to free bins, oldest first (R248); one that cannot be read stays and is reported
to the host. -/
def drainSpill (die : Nat) : Nat → State → State
  | 0, s => s
  | n + 1, s =>
    let d := getDie s die
    if 128 ≤ d.bins.length then s
    else match d.spillOrd with
      | [] => s
      | asid :: rest => match ringOf s die asid with
        | none => s
        | some g => match g.recs with
          | [] => s
          | r :: rs =>
            let a := g.at g.head
            let s := sysReady s a 64
            if (List.range 8).all fun k => (sysGet s (a + 8 * k)).isSome then
              let s := updRing s die asid fun g => { g with head := (g.head + 1) % g.cap, recs := rs }
              let s := updDie s die fun d => { d with spillOrd := rest }
              match placeRec s die asid r.launch r.cls r.key r.words true with
              | some s => drainSpill die n s
              | none => s
            else (escalateGone s ⟨asid, 0, die⟩ (refillReport (domPa a))).1

/-- Drain as far as free bins go. -/
def drainBins (s : State) (die : Nat) : State := drainSpill die (getDie s die).spillOrd.length s

/-- Close every open bin that satisfies `p`, in the order in which they opened (R245). -/
def closeBins (s : State) (die : Nat) (p : Bin → Bool) : State :=
  let l := (getDie s die).bins.filter p
  if l.isEmpty then s else drainBins (l.foldl (fun s b => closeBin s die b) s) die

/-- Bins whose class counter is at an address (R228, R245). -/
def binOnCounter (s : State) (asid a : Nat) (b : Bin) : Bool :=
  b.asid == asid && match findLaunch s b.asid b.launch with
    | some l => (l.cls b.cls).jca == a
    | none => false

/-! ### The end of a launch (R237) -/

/-- Spilled records of a launch remain. -/
def launchSpilled (s : State) (asid n : Nat) : Bool :=
  s.dies.any fun d => d.rings.any fun r => r.asid == asid && r.recs.any fun x => x.launch == n

/-- After a retirement: the last unretired warp closes the launch's bins; with nothing left the launch ends,
and its rectangle and group entries go with it. -/
def launchEnd (s : State) (asid n : Nat) : State :=
  match findLaunch s asid n with
  | none => s
  | some l =>
    if l.retired.length < l.wcnt || l.alive != 0 then s
    else
      let mine := fun (b : Bin) => b.asid == asid && b.launch == n
      if s.dies.any fun d => d.bins.any mine then
        (List.range 8).foldl (fun s k => closeBins s k mine) s
      else if launchSpilled s asid n then s
      else { s with launches := s.launches.filter fun l => !(l.asid == asid && l.num == n) }

end Sys2Proof.Machine
end

