-- ==== Sys2Proof/Machine/Fetch.lean ====
section
/-! DEFINITION. Fetching an instruction: the L1 instruction cache (spec/23 R489, R490), the literal word,
the repeat prefix (spec/03 R77-R82), the arrival rule (spec/07 R194) and the comparators (spec/21 R474). -/

namespace Sys2Proof.Machine

/-- A line of the core's instruction cache that serves a fetch. A line filled through a leaf without U
does not serve a warp at CPL 0 (log 23). -/
def icacheFind (s : State) (w : Warp) (va : Nat) : Option ILine :=
  (getCore s w.pos).icache.find? fun l =>
    l.asid == w.asid && l.vline == va / 64 && (l.user || w.sup)

/-- The eight words of a line. -/
def lineWords (s : State) (who : Who) (a : Nat) : Nat → Res (List Word)
  | 0 => .ok s []
  | k + 1 => (physLoad s who 1 a 8).bind fun s x => (lineWords s who (a + 8) k).map fun l => wordN x :: l

/-- A core's presence bit in its cluster (R489, log 58). -/
def coreBit (p : Pos) : Nat := p.row % 2 * 2 + p.col % 2

/-- Bring the presence bits of every cluster up to date with the cores' caches (R489). -/
def syncPresent (s : State) : State :=
  { s with clusters := s.clusters.map fun c => { c with icache := c.icache.map fun l => { l with
      present := s.cores.foldl (fun b k =>
        if clusterOf k.pos == c.key && k.icache.any fun x => x.dom == l.dom then b ||| BitVec.ofNat 4 (2 ^ coreBit k.pos)
        else b) 0#4 } } }

/-- Drop lines of the cores' instruction caches. -/
def dropL1 (s : State) (p : ILine → Bool) : State :=
  syncPresent { s with cores := s.cores.map fun c => { c with icache := c.icache.filter fun l => !(p l) } }

/-- Drop lines of the clusters' instruction caches. -/
def dropCl (s : State) (p : Nat → Bool) : State :=
  { s with clusters := s.clusters.map fun c => { c with icache := c.icache.filter fun l => !(p l.dom) } }

/-- Lines that leave a cluster's cache leave its cores' caches (log 58). -/
def dropOut (s : State) (k : Nat × Nat × Nat) (gone : List CLine) : State :=
  { s with cores := s.cores.map fun c =>
      { c with icache := c.icache.filter fun x => !(clusterOf c.pos == k && gone.any fun o => o.dom == x.dom) } }

/-- A line's words from the cluster's cache, or from its home, which fills it (R489). -/
def clusterLine (s : State) (w : Warp) (da : Nat) : Res (List Word) :=
  match (getCluster s (clusterOf w.pos)).icache.find? fun l => l.dom == lineOf da with
  | some l => .ok s l.words
  | none => (lineWords s w.who (da / 64 * 64) 8).bind fun s ws =>
    let old := (getCluster s (clusterOf w.pos)).icache
    let (s, l) := makeRoom s 16384 old
    let s := updCluster s w.pos fun c => { c with icache := ⟨lineOf da, ws, 0#4⟩ :: l }
    .ok (dropOut s (clusterOf w.pos) (old.filter fun o => !(l.any fun n => n.dom == o.dom))) ws

/-- The line enters the core's cache of 64 KiB. -/
def fillL1 (s : State) (w : Warp) (va : Nat) (t : Tr) (ws : List Word) : State :=
  let (s, l) := makeRoom s 1024 ((getCore s w.pos).icache.filter fun l => !(l.asid == w.asid && l.vline == va / 64))
  syncPresent (updCore s w.pos fun c => { c with icache := ⟨w.asid, va / 64, lineOf t.da, pteU t.pte, ws⟩ :: l })

/-- A payload in DRAM as a walk reads it; 0, no valid entry, where it cannot be read. -/
def peekWord (s : State) (who : Who) (a : Nat) : Nat :=
  match atHand s fun s => physLoad s who 2 a 8 with
  | .ok _ x => x
  | _ => 0

/-- The entries of the table at `t` that may be valid: those whose low byte is listed; of a frame that moves, all. -/
def tableKeys (s : State) (t : Nat) : List Nat :=
  if (migOf s t).isSome then List.range 1024
  else (s.mem.bytes.filter fun c => decide (t ≤ c.1) && decide (c.1 < t + 8192) && c.1 % 8 == 0).map fun c => (c.1 - t) / 8

/-- Where in `[lo, lo + n)` the table `t`, which covers the addresses from `base` on, maps the domain address `x`, and the
leaves (R275). Pages that fail are skipped. -/
def tableLeaves (s : State) (who : Who) (lo n x : Nat) : List Nat → Nat → Nat → List (Nat × Nat)
  | [], _, _ => []
  | lvl :: rest, t, base =>
    if !(dramOk t) then []
    else (tableKeys s (s.dev * 2 ^ 52 + t)).flatMap fun k =>
      let va := base + k * pageSize lvl
      if lo + n ≤ va || va + pageSize lvl ≤ lo then []
      else
        let p := peekWord s who (s.dev * 2 ^ 52 + t + 8 * k)
        if !(pteV p) then []
        else if pteLeaf p then
          let y := va + (x - pteFrame p)
          if !(leafBad p lvl) && pteFrame p ≤ x && x < pteFrame p + pageSize lvl && y < lo + n && lo < y + 64 then [(y, p)]
          else []
        else if bitsAt p 52 12 == 0 && bitsAt p 2 11 == 0 then
          tableLeaves s who lo n x rest (bitsAt p 13 39 * 2 ^ 13) va
        else []

/-- Where an ASID maps a domain address, within a line of a range. -/
def asidLeaves (s : State) (asid lo n x : Nat) : List (Nat × Nat) :=
  let e := (asidEntry s asid).toNat
  if bitAt e 0 then tableLeaves s (sysWho asid ⟨0, 0, 0⟩ 0) lo n x [3, 2, 1, 0] (bitsAt e 13 39 * 2 ^ 13) 0 else []

/-- An ASID maps a physical line at some address of a range. -/
def mapsLine (s : State) (asid lo n line : Nat) : Bool := !((asidLeaves s asid lo n (line * 64)).isEmpty)

/-- Remove an ASID's instruction lines of a range: its lines of every core, and the physical lines from every cluster
(R490, R491). -/
def dropCode (s : State) (asid lo n : Nat) : State :=
  dropCl (dropL1 s fun l => l.asid == asid && decide (lo / 64 ≤ l.vline) && decide (l.vline * 64 < lo + n))
    (mapsLine s asid lo n)

/-- Remove every instruction line filled from a frame (R487 step 7, R502). -/
def dropFrameLines (s : State) (da : Nat) : State :=
  dropCl (dropL1 s fun l => l.dom / 1024 == da / 65536) fun line => line / 1024 == da / 65536

/-- Fetch one instruction word (R85 check 1, R489): payload only. -/
def fetchWord (s : State) (w : Warp) (va : Nat) : Res Word :=
  match icacheFind s w va with
  | some l => .ok s (l.words.getD (va / 8 % 8) 0#64)
  | none =>
    (checkVa s w.who .fetch va 8).bind fun s t =>
      Res.at ((clusterLine s w t.da).bind fun s ws =>
        .ok (fillL1 s w va t ws) (ws.getD (va / 8 % 8) 0#64)) va

/-- Fetch a word and, when its LX bit is set, its literal word (R61). -/
def fetchPair (s : State) (w : Warp) (va : Nat) : Res (Word × Word) :=
  (fetchWord s w va).bind fun s x =>
    if x.getLsbD 0 then (fetchWord s w ((va + 8) % 2 ^ 56)).map fun l => (x, l) else .ok s (x, 0#64)

/-- Bytes of an instruction by its LX bit (R61). -/
def wordSize (x : Word) : Nat := if x.getLsbD 0 then 16 else 8

/-! ### The repeat prefix -/

/-- A register field: its space (0 v, 1 s, 2 m, 3 t) and number. -/
def regField (f : BitVec 11) : Option (Nat × Nat) :=
  match Reg.dec f with
  | some (.v n) => some (0, n.toNat)
  | some (.s n) => some (1, n.toNat)
  | some (.m n) => some (2, n.toNat)
  | some (.t n) => some (3, n.toNat)
  | _ => none

/-- The field that names register `n` of a space. -/
def fieldOf (sp n : Nat) : BitVec 11 :=
  match sp with
  | 0 => (Reg.v (BitVec.ofNat 8 n)).enc
  | 1 => (Reg.s (BitVec.ofNat 6 n)).enc
  | 2 => (Reg.m (BitVec.ofNat 3 n)).enc
  | _ => (Reg.t (BitVec.ofNat 5 n)).enc

/-- Registers of a space for a warp (R79). -/
def spaceSize (w : Warp) : Nat → Nat
  | 0 => w.allot
  | 1 => 64
  | 2 => 8
  | _ => 32

/-- Field `k` of a word: D, A, B, C. -/
def rawField (r : Raw) : Nat → BitVec 11
  | 0 => r.d
  | 1 => r.a
  | 2 => r.b
  | _ => r.c

def rawSetField (r : Raw) (k : Nat) (f : BitVec 11) : Raw :=
  match k with
  | 0 => { r with d := f }
  | 1 => { r with a := f }
  | 2 => { r with b := f }
  | _ => { r with c := f }

/-- The accumulator and scope fields, which are no register operands (R331, R416). -/
def notRegField (op k : Nat) : Bool :=
  (0xD3 ≤ op && op ≤ 0xD8 && k == 0) || (op == 0xD4 && k == 1) || (0xA0 ≤ op && op ≤ 0xA4 && k == 2)

/-- Format M (R63, R86). -/
def isFmtM (op : Nat) : Bool :=
  (0x68 ≤ op && op ≤ 0x6D) || op == 0x6F || (0xA0 ≤ op && op ≤ 0xA4) || (0xA6 ≤ op && op ≤ 0xAC)
    || op == 0xAE || op == 0xAF

/-- The decoder reads the word. -/
def decodes (r : Raw) : Bool :=
  match decodeRaw r with
  | .ok _ => true
  | .error _ => false

/-- A tile operand: field D of TSHAPE, TLD and TST, A and B of MMA (R416). -/
def tileField (op k : Nat) : Bool :=
  (0xD0 ≤ op && op ≤ 0xD2 && k == 0) || (op == 0xD3 && (k == 1 || k == 2))

/-- The instruction uses the field as a register operand (R77): it names a register, and the same word
with another register of that space there decodes too. A tile operand steps only as a tile register (R416). -/
def fieldSteps (r : Raw) (k : Nat) : Bool :=
  match regField (rawField r k) with
  | some (sp, n) =>
    !(notRegField r.op.toNat k) && (!(tileField r.op.toNat k) || sp == 3) && !(isFmtM r.op.toNat && k == 3)
      && decodes (rawSetField r k (fieldOf sp (if n == 1 then 2 else 1)))
  | none => false

/-- Opcodes that a REP must not precede (R78). -/
def noRep (op : Nat) : Bool :=
  op == 0xFC || op == 0x88 || (0x60 ≤ op && op ≤ 0x67) || (0x70 ≤ op && op ≤ 0x76)
    || (0x92 ≤ op && op ≤ 0x97) || (0xE0 ≤ op && op ≤ 0xE7)

/-- The four steps of a prefix as integers, D first. -/
def repSteps (ds as bs cs : BitVec 4) : List Int := [ds.toInt, as.toInt, bs.toInt, cs.toInt]

/-- R77 and R78: the repeated word decodes, may be repeated, and every nonzero step falls on a register
operand. -/
def repOk (r : Raw) (steps : List Int) : Bool :=
  decodes r && !noRep r.op.toNat && (match decodeRaw r with
    | .ok (.unassignedOpcode _) => false
    | _ => true)
  && (steps.zipIdx).all fun p => p.1 == 0 || fieldSteps r p.2

/-- One field of repetition `k` stepped; none where the register number leaves its space (R79). -/
def stepField (w : Warp) (r : Raw) (k : Nat) (acc : Option Raw) (step : Int) (f : Nat) : Option Raw :=
  acc.bind fun r' =>
    if step == 0 then some r'
    else match regField (rawField r f) with
      | some (sp, n) =>
        let m : Int := (n : Int) + (k : Int) * step
        if 0 ≤ m ∧ m < (spaceSize w sp : Int) then some (rawSetField r' f (fieldOf sp m.toNat)) else none
      | none => some r'

/-- The word of repetition `k` (R77, R79). -/
def stepRaw (w : Warp) (r : Raw) (steps : List Int) (k : Nat) : Option Raw :=
  (steps.zipIdx).foldl (fun acc p => stepField w r k acc p.1 p.2) (some r)

/-- Check 4 of the runs an instruction names. -/
def runsOk (w : Warp) : Instr → Bool
  | .pack _ f _ _ a => runOk w a (fmtCount f)
  | .unpk _ f _ d _ => runOk w d (fmtCount f)
  | .k8dec _ _ _ d _ => runOk w d 2
  | .ldl _ n _ d _ => runOk w (.v d) (n.toNat + 1)
  | .lgather _ n _ a _ => runOk w (.v a) (n.toNat + 1)
  | .topk _ n _ _ _ d a _ => runOk w (.v d) 2 && runOk w (.v a) (n.toNat + 1)
  | .merge _ _ d a b => runOk w (.v d) 4 && runOk w (.v a) 2 && runOk w (.v b) 2
  | .sortw _ _ _ d a => runOk w (.v d) 2 && runOk w (.v a) 2
  | .cas _ _ d _ => runOk w d 2
  | .cas2 _ _ d _ => runOk w d 4
  | .scas _ d _ _ c => runOk w d 2 && runOk w c 2
  | .snext _ _ d _ _ => runOk w d 2
  | .sscan _ _ _ _ d _ _ => runOk w (.v d) 2
  | .spawn _ _ k _ a => runOk w (.v a) (k.toNat + 1)
  | _ => true

/-- R79, R130: every register of every repetition exists. -/
def repRangeOk (w : Warp) (r : Raw) (steps : List Int) (count : Nat) : Bool :=
  (List.range count).all fun k => match stepRaw w r steps k with
    | some r' => match decodeRaw r' with
      | .ok i => runsOk w i
      | .error _ => false
    | none => false

/-! ### The arrival rule (R194) -/

/-- The PC at which a path entry is due: that of the join entry directly beneath it (R192). -/
def arrivalPc : List Rejoin → Option Addr
  | _ :: e :: _ => if e.kind == .join then some e.pc else none
  | _ => none

/-- The join entry beneath a lone on-chip path entry may be the top of the last spilled block. -/
def stackView (w : Warp) : List Rejoin :=
  w.stack ++ (match w.spill with
    | b :: _ => b.take 1
    | [] => [])

/-- Apply the arrival rule to the end (R194). `n` bounds the pops by the depth. -/
def arriveGo (s : State) : Nat → Warp → Warp
  | 0, w => w
  | n + 1, w =>
    match w.stack with
    | [] => w
    | e :: _ =>
      if e.kind == .join && e.pc == w.pc then
        arriveGo s n { popEntry s w with em := e.mask &&& ~~~w.exited }
      else if e.kind == .path && arrivalPc (stackView w) == some w.pc then
        arriveGo s n { popEntry s w with em := e.mask &&& ~~~w.exited, pc := e.pc }
      else w

def arrive (s : State) (w : Warp) : Warp := arriveGo s (w.depth + 1) w

/-! ### Comparators (R474) -/

/-- The comparator that fires before the word at the warp's PC: the lowest number. `first` tells that the
word is no repetition after the first. -/
def comparator (s : State) (w : Warp) (first : Bool) : Option Nat :=
  if w.sup || w.supp then none
  else
    let c := getCtx s w.asid
    (List.range 8).find? fun k =>
      let b := c.bpa.getD k 0#64
      b != 0#64 && b == w.pc.setWidth 64 && (first || c.bpev.getLsbD k)

/-! ### The next instruction of a warp -/

/-- What the fetch stage finds. -/
inductive Fetched where
  | run (i : Instr)
  | fault (f : LFault) (m : Mask) (size : Nat)
  | hold (h : Held) (line : Nat)

/-- Bytes of the instruction at an address whose fetch faults; 8 where its word cannot be read (log 32). -/
def fetchSize (s : State) (w : Warp) (va : Nat) : Nat :=
  match fetchWord s w va with
  | .ok _ x => wordSize x
  | _ => 8

/-- Register numbers that a field can name, by space. -/
def spaceCodes : Nat → Nat
  | 0 => 256
  | 1 => 64
  | 2 => 8
  | _ => 32

/-- A destination that no register of the warp answers to: a vector register outside the allotment, or none at all. -/
def noReg (w : Warp) (sp : Nat) : BitVec 11 := if sp == 0 && w.allot < 256 then fieldOf 0 255 else Reg.zr.enc

/-- One field of a guarded-off repetition, of which only the destination's old value counts (R76). -/
def offField (w : Warp) (r : Raw) (k : Nat) (acc : Raw) (step : Int) (f : Nat) : Raw :=
  match regField (rawField r f) with
  | some (sp, n) =>
    let m : Int := (n : Int) + (k : Int) * step
    if 0 ≤ m ∧ m < (spaceCodes sp : Int) then rawSetField acc f (fieldOf sp m.toNat)
    else if f == 0 then rawSetField acc f (noReg w sp)
    else acc
  | none => acc

/-- The word of a guarded-off repetition: every field that its steps leave within its space is stepped, and a destination
that they take out of it names no register of the warp (R76, R77). -/
def offRaw (w : Warp) (r : Raw) (steps : List Int) (k : Nat) : Raw :=
  (steps.zipIdx).foldl (fun acc p => if p.1 == 0 then acc else offField w r k acc p.1 p.2) r

/-- The instruction of repetition `k`; a guarded-off one makes no check 4. -/
def runStepped (s : State) (w : Warp) (r : Raw) (steps : List Int) (k size : Nat) : State × Fetched :=
  let eff := effLanes w ⟨r.grd, r.gng == 1#1⟩
  if eff == 0#32 then match decodeRaw (offRaw w r steps k), decodeRaw r with
    | .ok i, _ => (s, .run i)
    | .error _, .ok i => (s, .run i)
    | .error _, .error _ => (s, .fault (flt .undefinedInstr 0) w.em size)
  else match (stepRaw w r steps k).map decodeRaw, decodeRaw r with
    | some (.ok i), _ => (s, .run i)
    | none, .ok _ => (s, .fault operandFlt eff size)
    | _, _ => (s, .fault (flt .undefinedInstr 0) w.em size)

/-- The instruction a warp issues next, with the fetch checks and the REP stepping (R81, R85). A word
that does not decode is the undefined-instruction fault of check 2. Where the word at PC - 8 is no REP any more, the
repetition runs unstepped and the count goes on: DESIGN CHOICE (log 55). -/
def fetchNext (s : State) (w : Warp) : State × Fetched :=
  match fetchPair s w w.pc.toNat with
  | .hold h l => (s, .hold h l)
  | .bad t f => (t, .fault f w.em (fetchSize s w w.pc.toNat))
  | .ok s (x, lit) =>
    if w.repc == 0 then
      match decodeWord x lit with
      | .ok i => (s, .run i)
      | .error _ => (s, .fault (flt .undefinedInstr 0) w.em (wordSize x))
    else match fetchWord s w ((w.pc.toNat + 2 ^ 56 - 8) % 2 ^ 56) with
      | .hold h l => (s, .hold h l)
      | .bad s f => (s, .fault f w.em (wordSize x))
      | .ok s p =>
        match decodeWord p 0#64 with
        | .ok (.rep n ds as bs cs) =>
          let r := Raw.ofWord x lit
          runStepped s w r (repSteps ds as bs cs) (n.toNat + 1 - w.repc) (wordSize x)
        | _ => (match decodeWord x lit with
          | .ok i => (s, .run i)
          | .error _ => (s, .fault (flt .undefinedInstr 0) w.em (wordSize x)))

/-- The prefix of the running sequence, for the comparators: the word is repetition 0 or stands alone. -/
def isFirstRep (s : State) (w : Warp) : Bool :=
  if w.repc == 0 then true
  else match fetchWord s w ((w.pc.toNat + 2 ^ 56 - 8) % 2 ^ 56) with
    | .ok _ p => match decodeWord p 0#64 with
      | .ok (.rep n _ _ _ _) => n.toNat + 1 == w.repc
      | _ => true
    | _ => true

end Sys2Proof.Machine
end

