-- ==== Sys2Proof/Machine/Place.lean ====
section
/-! DEFINITION. The scaffolding of an instruction that a step is to fetch: address space 1 with one code page, live on
core (0, 0, 0), and a warp in slot 0 of that core (log 1). -/

namespace Sys2Proof.Machine

def placePos : Pos := ⟨0, 0, 0⟩

/-- Physical addresses of the four page tables, from level 3 down, and of the code frame; virtual address of the code. -/
def placeTables : List Nat := [0x10000, 0x12000, 0x14000, 0x16000]
def placeFrame : Nat := 0x20000
def placeVa : Nat := 0x10000

/-- Memory with the tables and 32 bytes of code. -/
def placeMem (s : State) (x : Nat) : Memory :=
  let at_ := fun (pa : Nat) => s.dev * 2 ^ 52 + pa
  let leaf := at_ placeFrame + 0x4000 + 0x1C0 + 3
  let m := memStore s.mem (at_ 0x10000) 8 (0x12000 + 1)
  let m := memStore m (at_ 0x12000) 8 (0x14000 + 1)
  let m := memStore m (at_ 0x14000) 8 (0x16000 + 1)
  let m := memStore m (at_ 0x16008) 8 leaf
  (List.range 4).foldl (fun m k => memStore m (at_ (placeFrame + 8 * k)) 8 (x / 2 ^ (64 * k) % 2 ^ 64)) m

/-- The warp: as at its first instruction (R32), of 256 rows. -/
def placeWarp (u : Nat) : Warp :=
  { newWarp u 1 0 0 0 (BitVec.ofNat 56 placeVa) allLanes 256 with status := .resident, save := some 0, lvl := 47, ceil := 47 }

/-- The state with the code placed. -/
def placeCode (s : State) (x : Nat) : State :=
  let u := s.nextUid
  let away := s.warps.filter fun w => !(w.isResident && w.pos == placePos && w.slot / 16 == 0)
  let s1 := { s with
    mem := placeMem s x
    bad := [], migs := [], cycle := s.cycle
    warps := placeWarp u :: away
    nextUid := u + 1
    cores := s.cores.map fun c => { c with icache := c.icache.filter fun l => l.asid != 1 }
    clusters := s.clusters.map fun c => { c with tlb := c.tlb.filter fun e => e.asid != 1, icache := [] }
    dies := s.dies.map fun d => { d with walks := d.walks.filter fun e => e.asid != 1 }
    agenda := [.issue placePos 0]
    hub := { s.hub with
      asidTab := spSet 0#64 s.hub.asidTab 1 (wordN 0x10001), linkDown := [], hostLines := [], stopped := false, inReset := false } }
  let s2 := updCtx s1 1 fun c => { c with v := true, sapb := 0x1000000, sacnt := 1, saveUsed := [0] }
  updCore s2 placePos fun c =>
    let sts := (c.sts.filter fun x => x.asid != 1).map fun x => if x.place == .live then { x with place := .memory } else x
    { c with sts := CoreState.fresh 1 :: sts }

end Sys2Proof.Machine
end

