-- ==== Sys2Proof/Machine/Cycles.lean ====
section
/-! DEFINITION. How many cycles of its quadrant an instruction occupies (spec/04 R107, spec/05 R159, spec/06 R188,
spec/08 R232, spec/14 R351, spec/16 R406, spec/17 R431), which R203 counts. -/

namespace Sys2Proof.Machine

/-- The pass classes of R98. -/
inductive PassCls where
  | i | s | d | t | n | q | x | u
  deriving DecidableEq, Repr

/-- The class of a lane that the hardware completes, by op class and tags (R96, R98). -/
def passCls (cls : Nat) (a b : Val) : PassCls :=
  if cls == 0 || 15 ≤ cls then .u
  else if 9 ≤ cls then
    (if bothNum a b then .n
    else if a.tag == .ts && b.tag == .ts then .t
    else if a.tag == b.tag then .q else .x)
  else if cls == 7 || cls == 8 then (if a.tag == .int then .i else if a.tag == .f32 then .s else .d)
  else if cls == 4 then (if a.tag == .f32 && b.tag == .f32 then .s else .d)
  else if cls == 5 || cls == 6 then (if bothInt a b then .i else .d)
  else if bothInt a b then .i
  else if a.tag == .f32 && b.tag == .f32 then .s
  else if bothNum a b then .d else .t

/-- Issue cycles of one pass (R107). -/
def passCycles (cls : Nat) (c : PassCls) : Nat :=
  if cls == 1 || cls == 2 then (if c == .d then 2 else 1)
  else if cls == 3 then (if c == .s then 1 else 2)
  else if cls == 4 || cls == 5 || cls == 6 then 4
  else 1

/-- The values a warp's sources would give. -/
def peekSrcs (s : State) (w : Warp) (l : List Src) : List Opd :=
  match readSrcs s w l w.kept.1 with
  | .ok _ x => x.1
  | _ => []

/-- The distinct classes of a generic instruction's active lanes; a lane that diverts has none (R106). -/
def passes (cls : Nat) (op : Warp → Val → Val → LaneRes) (w : Warp) (ks : List Nat) (x y : Opd) : List PassCls :=
  ks.foldl (fun l k =>
    match op w (x.lane k) (y.lane k) with
    | .ok _ _ _ =>
      let c := passCls cls (x.lane k) (y.lane k)
      if l.contains c then l else c :: l
    | _ => l) []

/-- Issue cycles of a generic instruction: the sum over its classes, at least one (R107). -/
def genCycles (cls : Nat) (op : Warp → Val → Val → LaneRes) (s : State) (w : Warp) (g : Guard) (d : Dst)
    (srcs : List Src) : Nat :=
  let eff := effLanes w g
  let ks := if insVec w (insOf g d srcs) then maskLanes eff else [lowLane eff]
  let os := peekSrcs s w srcs
  max 1 (((passes cls op w ks (os.getD 0 (.sca vNil)) (os.getD 1 (.sca vNil))).map (passCycles cls)).sum)

/-- A typed instruction that R159 gives `n` cycles: a scalar instance of one with two takes one. -/
def typedCycles (w : Warp) (g : Guard) (d : Dst) (srcs : List Src) (n : Nat) : Nat :=
  if n == 2 && !(insVec w (insOf g d srcs)) then 1 else n

/-- The first register of a run, as a destination. -/
def runDst : Run → Dst
  | .v k => .reg (.v k)
  | .s k => .reg (.s k)

/-- PACK and UNPK of `n` elements: n / 2, at least one (R159). -/
def packCycles (n : Nat) : Nat := max 1 (n / 2)

/-- Guard and cycles of an instruction that is not guarded off; none where one cycle is all it takes. -/
def slotCycles (s : State) (w : Warp) : Instr → Option (Guard × Nat)
  | .add g d a b => some (g, genCycles 1 genAdd s w g d [a, b])
  | .sub g d a b => some (g, genCycles 2 genSub s w g d [a, b])
  | .mul g d a b => some (g, genCycles 3 genMul s w g d [a, b])
  | .div g d a b => some (g, genCycles 4 genDivide s w g d [a, b])
  | .idiv g d a b => some (g, genCycles 5 genIdiv s w g d [a, b])
  | .mod g d a b => some (g, genCycles 6 genMod s w g d [a, b])
  | .neg g d a => some (g, genCycles 7 (fun w x _ => genNeg w x) s w g d [a])
  | .abs g d a => some (g, genCycles 8 (fun w x _ => genAbs w x) s w g d [a])
  | .min g d a b => some (g, genCycles 9 (fun _ => genMinMax false) s w g d [a, b])
  | .max g d a b => some (g, genCycles 10 (fun _ => genMinMax true) s w g d [a, b])
  | .ceq g d a b => some (g, genCycles 11 (fun _ => genEq false) s w g d [a, b])
  | .cne g d a b => some (g, genCycles 12 (fun _ => genEq true) s w g d [a, b])
  | .clt g d a b => some (g, genCycles 13 (fun _ => genLess false) s w g d [a, b])
  | .cle g d a b => some (g, genCycles 14 (fun _ => genLess true) s w g d [a, b])
  | .imul g _ d a b => some (g, typedCycles w g d [a, b] 2)
  | .imulh g _ d a b => some (g, typedCycles w g d [a, b] 2)
  | .imad g _ d a b c => some (g, typedCycles w g d [a, b, c] 2)
  | .idivt g _ _ _ _ => some (g, 4)
  | .iremt g _ _ _ _ => some (g, 4)
  | .fadd g dbl _ d a b => some (g, typedCycles w g d [a, b] (if dbl then 2 else 1))
  | .fsub g dbl _ d a b => some (g, typedCycles w g d [a, b] (if dbl then 2 else 1))
  | .fmul g dbl _ d a b => some (g, typedCycles w g d [a, b] (if dbl then 2 else 1))
  | .ffma g dbl _ d a b c => some (g, typedCycles w g d [a, b, c] (if dbl then 2 else 1))
  | .frnd g dbl _ d a => some (g, typedCycles w g d [a] (if dbl then 2 else 1))
  | .fdiv g dbl _ _ _ _ => some (g, if dbl then 8 else 4)
  | .fsqrt g dbl _ _ _ => some (g, if dbl then 8 else 4)
  | .log2 g dbl _ _ => some (g, if dbl then 8 else 4)
  | .exp2 g dbl _ _ => some (g, if dbl then 8 else 4)
  | .rcp g dbl _ _ => some (g, if dbl then 8 else 4)
  | .rsq g dbl _ _ => some (g, if dbl then 8 else 4)
  | .sin g dbl _ _ => some (g, if dbl then 8 else 4)
  | .cos g dbl _ _ => some (g, if dbl then 8 else 4)
  | .pack g f _ d a => some (g, typedCycles w g d [runSrc a] (packCycles (fmtCount f)))
  | .unpk g f _ d a => some (g, typedCycles w g (runDst d) [a] (packCycles (fmtCount f)))
  | .k8dec g _ _ d a => some (g, typedCycles w g (runDst d) [a] 2)
  | .hash g d a b => some (g, typedCycles w g d [a, b] 2)
  | .rndu g d a b => some (g, typedCycles w g d [a, b] 2)
  | .ldl g n _ _ _ => some (g, n.toNat + 1)
  | .alloc g _ _ _ => some (g, 2)
  | .lgather g n _ _ _ => some (g, n.toNat + 1)
  | .redw g _ _ _ _ _ => some (g, 2)
  | .scanw g _ _ _ _ _ => some (g, 2)
  | .topk g n _ _ _ _ _ _ => some (g, 2 * (n.toNat + 1))
  | .merge g _ _ _ _ => some (g, 4)
  | .sortw g _ _ _ _ => some (g, 4)
  | .spawn g _ _ _ _ => some (g, 2)
  | .launch g _ _ => some (g, 2)
  | .enq g _ _ _ => some (g, 2)
  | .deq g _ _ _ => some (g, 2)
  | .cpy g _ _ _ _ _ => some (g, 2)
  | .cpym g _ _ _ _ _ _ => some (g, 2)
  | .cpyd g _ _ _ => some (g, 2)
  | .cpys g _ _ _ => some (g, 2)
  | .cpyx g _ _ _ => some (g, 2)
  | .cpyg g _ _ _ _ _ _ => some (g, 2)
  | .tld g _ _ => some (g, 2)
  | .tst g _ _ => some (g, 2)
  | _ => none

/-- Issue cycles of an instruction for a warp: a guarded-off one takes one (R76), the prefix none (R77), and one for
which no table gives a figure takes one (log 57). -/
def issueCycles (s : State) (w : Warp) (i : Instr) : Nat :=
  match i with
  | .rep .. => 0
  | i => match slotCycles s w i with
    | some (g, n) => if effLanes w g == 0#32 then 1 else n
    | none => 1

end Sys2Proof.Machine
end

