-- ==== Sys2Proof/Machine/Image.lean ====
section
/-! DEFINITION. A context's core image: its layout, writing it and reading it back (spec/21 R471). Its address is left
open (log 44). -/

namespace Sys2Proof.Machine

/-- The domain address of a context's image of a core: aligned to 1 MiB in this device's DRAM, and otherwise open. -/
def coreImageAt (s : State) (asid : Nat) (p : Pos) : Nat :=
  let x := Config.coreImage asid ((p.die * 16 + p.col) * 10 + p.row)
  s.dev * 2 ^ 52 + x / 0xB2D % 8 * 2 ^ 36 + x % 0xB2D * 2 ^ 20

/-- The cells of a space of `n` bytes, written from `a` on; `f` tells where an address lies now (R500). -/
def cellsPut (f : Nat → Nat) (a n : Nat) (l m : List Host.Cell) : List Host.Cell :=
  l.foldl (fun m c => if c.1 < n then spSet 0#8 m (f (a + c.1)) c.2 else m) m

/-- The address of a range that a cell stands for: its own, or that of the old frame once its line has moved (R500). -/
def cellStands (s : State) (x : Nat) : Nat :=
  match s.migs.find? fun m => m.new == frameOf x && m.moved.contains (x % 65536 / 64) with
  | some m => m.old + x % 65536
  | none => x

/-- The cells of a range, moved down to its start. -/
def cellsIn (s : State) (a n : Nat) : List Host.Cell :=
  if rangeMoves s a n then
    s.mem.bytes.foldl (fun l c =>
      let x := cellStands s c.1
      if a ≤ x ∧ x < a + n ∧ sysSrc s x = c.1 then spSet 0#8 l (x - a) c.2 else l) []
  else (s.mem.bytes.filter fun c => decide (a ≤ c.1) && decide (c.1 < a + n)).map fun c => (c.1 - a, c.2)

/-- A shape as the word of TSHAPE (R417). -/
def Shape.word (x : Shape) : Nat := x.fmt * 2 ^ 16 + x.rows * 256 + x.cols

/-- A warp's WNUM; 0 for none. -/
def wnumOf (s : State) (u : Option Nat) : Nat := ((u.bind (findWarp s)).map fun w => w.wnum).getD 0

/-- The words of the image but for its byte spaces: offsets and words. -/
def imageWords (s : State) (p : Pos) (c : CoreState) : List (Nat × List Val) :=
  (c.fifos.zipIdx.flatMap fun f =>
      f.1.rows.zipIdx.map fun r => (0xE0000 + 0x4000 * f.2 + 256 * ((f.1.head + r.2) % 64), r.1))
    ++ [(0xF0000, c.k8.map fun x => vRaw x), (0xF0800, c.shapes.map fun x => vRaw x.word),
        (0xF0900, (c.accTy.zip c.token).map fun t =>
          vRaw (boolNat (t.1 == .i32) + boolNat t.2.isSome * 4 + wnumOf s t.2 * 2 ^ 32)),
        (0xF0940, c.fifos.map fun f =>
          vRaw (f.head + f.rows.length * 64 + boolNat f.reader.isSome * 2 ^ 16 + wnumOf s f.reader * 2 ^ 32)),
        (0xF0A00, (List.range 64).map fun k =>
          match s.warps.find? fun w => w.asid == c.asid && w.pos == p && w.slot == k
              && (w.isResident || w.status == .shadowed) with
          | some w => vRaw (2 ^ 63 + ((saveBase s w).getD 0) % 2 ^ 52)
          | none => vZero)]

/-- Memory with the image at `b` (R471), which holds ⟨INT, 0⟩: the byte spaces as they are, then the words. -/
def imageMem (m : Memory) (f : Nat → Nat) (b : Nat) (c : CoreState) (ws : List (Nat × List Val)) : Memory :=
  let m := { m with
    bytes := cellsPut f (b + 0xC0000) 0x20000 c.acc (cellsPut f (b + 0x80000) 0x40000 c.tiles (cellsPut f b 0x80000 c.spad m.bytes)) }
  ws.foldl (fun m p => (p.2.zipIdx).foldl (fun m e =>
    memPut m (f (b + p.1 + 8 * e.2)) 8 e.1.n (some (BitVec.ofNat 4 e.1.tag.toNat))) m) m

/-- What stays known of a core state whose image lies in memory: the warps that hold its tokens and read its FIFOs, which
the image names by WNUM only (log 44). -/
def CoreState.away (c : CoreState) : CoreState :=
  { CoreState.fresh c.asid with
    place := .memory, token := c.token, fifos := c.fifos.map fun f => { Fifo.empty with reader := f.reader } }

/-- A context's core state streams out into its image (R465). -/
def imagePut (s : State) (p : Pos) (asid : Nat) : State :=
  let b := coreImageAt s asid p
  let c := coreCtx s p asid
  let s := sysZero s 0 b (2 ^ 20)
  let s := { s with mem := imageMem s.mem (sysSrc s) b c (imageWords s p c) }
  updCoreCtx s p asid CoreState.away

/-- The payload of a word of the image. -/
def imageWord (s : State) (b k : Nat) : Nat := memLoad s.mem (sysSrc s (b + k)) 8

/-- The warp of a context that the image names: the one that was known, where its WNUM is the image's. -/
def warpNumbered (s : State) (asid n : Nat) (known : Option Nat) : Option Nat :=
  match known.bind (findWarp s) with
  | some w => if w.asid == asid && w.wnum == n then some w.uid else none
  | none => (s.warps.find? fun w => w.asid == asid && w.wnum == n).map fun w => w.uid

/-- A FIFO read back; no row of it is on its way. -/
def imageFifo (s : State) (c : CoreState) (b k : Nat) : Fifo :=
  let x := imageWord s b (0xF0940 + 8 * k)
  let row := fun (j : Nat) => rowWith fun i =>
    let w := memWord s.mem (sysSrc s (b + 0xE0000 + 0x4000 * k + 256 * j + 8 * i))
    (valOfCode w.1 w.2).getD vNil
  ⟨(List.range (bitsAt x 6 7)).map fun j => row ((bitsAt x 0 6 + j) % 64), 0,
    if bitAt x 16 then warpNumbered s c.asid (bitsAt x 32 32) (c.fifos.getD k Fifo.empty).reader else none, bitsAt x 0 6⟩

/-- The core state in an image that is at hand. -/
def imageGet (s : State) (p : Pos) (asid : Nat) : CoreState :=
  let b := coreImageAt s asid p
  let known := coreCtx s p asid
  { asid := asid
    place := .live
    spad := cellsIn s b 0x80000
    tiles := cellsIn s (b + 0x80000) 0x40000
    shapes := (List.range 32).map fun k =>
      let x := imageWord s b (0xF0800 + 8 * k)
      ⟨bitsAt x 16 4, bitsAt x 8 8, bitsAt x 0 8⟩
    acc := cellsIn s (b + 0xC0000) 0x20000
    accTy := (List.range 8).map fun k => if bitAt (imageWord s b (0xF0900 + 8 * k)) 0 then .i32 else .f32
    token := (List.range 8).map fun k =>
      let x := imageWord s b (0xF0900 + 8 * k)
      if bitAt x 2 then warpNumbered s asid (bitsAt x 32 32) ((known.token.getD k none)) else none
    k8 := (List.range 256).map fun k => imageWord s b (0xF0000 + 8 * k)
    fifos := (List.range 4).map (imageFifo s known b) }

/-- A context's image of a core, at hand to be read (R500, R511). -/
def imageReady (s : State) (p : Pos) (asid : Nat) : State := sysReady s (coreImageAt s asid p) (2 ^ 20)

end Sys2Proof.Machine
end

