-- ==== Sys2Proof/Machine/Submit.lean ====
section
/-! DEFINITION. Launch records: reading, the checks of R235, acceptance (spec/09 R233-R243, R252). -/

namespace Sys2Proof.Machine

/-! ### Groups that overlap (R235 check 7) -/

/-- Warp numbers first, first + stride, ...: `count` of them. -/
structure Prog where
  first : Nat
  stride : Nat
  count : Nat
  deriving DecidableEq, Repr

/-- Coefficients of the greatest common divisor. -/
def egcd : Nat → Int → Int → Int × Int
  | 0, _, _ => (1, 0)
  | n + 1, a, b => if b == 0 then (1, 0) else
    let r := egcd n b (a % b)
    (r.2, r.1 - a / b * r.2)

/-- The numbers that two progressions share. -/
def progMeet (a b : Prog) : Option Prog :=
  let g := Nat.gcd a.stride b.stride
  let d : Int := (b.first : Int) - a.first
  if d % (g : Int) != 0 then none
  else
    let m := b.stride / g
    let inv := (egcd 64 ((a.stride / g : Nat) : Int) (m : Int)).1
    let k := (d / (g : Int) * inv % (m : Int)).toNat
    let lcm := a.stride * m
    let x := a.first + a.stride * k
    let lo := max a.first b.first
    let x := if x < lo then x + (lo - x + lcm - 1) / lcm * lcm else x
    let hi := min (a.first + (a.count - 1) * a.stride) (b.first + (b.count - 1) * b.stride)
    if x ≤ hi then some ⟨x, lcm, (hi - x) / lcm + 1⟩ else none

/-- Some number lies in `p` and in `need` more of the groups. -/
def progOver : List Prog → Prog → Nat → Bool
  | _, _, 0 => true
  | [], _, _ + 1 => false
  | g :: l, p, n + 1 => progOver l p (n + 1) || match progMeet p g with
    | some q => progOver l q n
    | none => false

/-! ### Reading (R234) -/

/-- The fields of a record, with the words that its flags select; others are 0. -/
structure LRec where
  w : List Nat
  args : List Val
  deriving DecidableEq, Repr

/-- Payloads of the words named, in order. -/
def payWords (s : State) (who : Who) (a : Nat) : List Nat → Res (List Nat)
  | [] => .ok s []
  | k :: l => (loadPay s who (a + 8 * k)).bind fun s x => (payWords s who a l).map fun r => x :: r

/-- A word as its flag selects it. -/
def pickWord (ks : List Nat) (xs : List Nat) (k : Nat) : Nat :=
  ((ks.zip xs).find? fun p => p.1 == k).elim 0 fun p => p.2

/-- Words that word 2 selects. -/
def recWords (x : Nat) : List Nat :=
  [0, 1, 2] ++ (if bitAt x 0 then [3] else []) ++ (if bitAt x 1 then [4, 5] else [])
    ++ (if bitAt x 2 then [6] else []) ++ (if bitAt x 3 then [7, 8, 9] else []) ++ [10]

/-- A payload under a tag code, canonical (R13, R234). -/
def tagged (code x : Nat) : Val := canonLit ((Tag.ofNat? code).getD .int) (wordN x)

/-- The launch arguments (R234). -/
def recArgs (s : State) (who : Who) (a : Nat) (tga : Bool) (argt : Nat) : Res (List Val) :=
  if tga then (payWords s who a [11, 12, 13, 14, 15]).map fun l =>
    l.zipIdx.map fun p => tagged (bitsAt argt (4 * p.2) 4) p.1
  else loadVals s who (a + 88) 5

/-- The record at `a`, from its first word on; FLAGS in word 2 says which of the others are read. -/
def readRec (s : State) (who : Who) (a : Nat) : Res LRec :=
  ((loadPay s who a).bind fun s _ => loadPay s who (a + 16)).bind fun s x =>
    let ks := recWords x
    (payWords s who a ks).bind fun s xs =>
      (recArgs s who a (bitAt x 4) (bitsAt (pickWord ks xs 1) 32 20)).map fun args =>
        ⟨(List.range 11).map (pickWord ks xs), args⟩

/-! ### The checks (R235) -/

/-- A tag that a record may give a value: neither FWD, TILE nor reserved. -/
def argTagOk (c : Nat) : Bool := c ≤ 12 && c != 5 && c != 6

/-- Check 1: reserved fields and argument tags. ARGT where TGA is 0 must be zero; no check of R235 names it, and that it is
check 1 is DEDUCED (log 39). -/
def recReserved (w : List Nat) : Bool :=
  let x := fun k => w.getD k 0
  let argt := bitsAt (x 1) 32 20
  zeroOutside (2 ^ 56 - 8) (x 0) && zeroOutside (2 ^ 52 - 1 - 2 ^ 31) (x 1)
    && zeroOutside (2 ^ 48 - 1 - (2 ^ 32 - 2 ^ 30) - (2 ^ 15 - 2 ^ 5)) (x 2)
    && zeroOutside (2 ^ 12 - 1) (x 3) && zeroOutside (2 ^ 56 - 16) (x 4) && zeroOutside (2 ^ 9 - 1) (x 5)
    && zeroOutside (2 ^ 56 - 512) (x 6) && zeroOutside (2 ^ 56 - 8) (x 8)
    && zeroOutside (2 ^ 64 - 1 - (2 ^ 40 - 2 ^ 32)) (x 9) && zeroOutside (2 ^ 56 - 8) (x 10)
    && (if bitAt (x 2) 4 then (List.range 5).all fun k => argTagOk (bitsAt argt (4 * k) 4) else argt == 0)

def recWcnt (w : List Nat) : Nat := bitsAt (w.getD 1 0) 0 31
def recAsid (w : List Nat) : Nat := bitsAt (w.getD 2 0) 38 10

/-- Rows of a launch or a class. -/
def rowsOk (n : Nat) : Bool := n % 8 == 0 && 8 ≤ n && n ≤ 256

/-- The interface of a context admits launches (R522). -/
def vfRuns (s : State) (fn : Nat) : Bool :=
  match s.hub.vfs.find? fun v => v.num == fn with
  | some v => v.st == .unlocked || v.st == .run
  | none => true

/-- The ASID is live for a launch (R235 check 5, R518, R522). -/
def asidLive (s : State) (a : Nat) : Bool :=
  let c := getCtx s a
  c.v && !c.ending && vfRuns s c.fn

/-- Who submits: the issuing warp's ASID at CPL 0, its ceiling, and the right to levels 44 to 47. -/
structure Submitter where
  asid : Option Nat
  ceil : Option Nat
  high : Bool

/-- CEIL and LVL, clamped for device code (R231). -/
def recPrio (b : Submitter) (w : List Nat) : Nat × Nat :=
  let c := bitsAt (w.getD 2 0) 32 6
  let l := bitsAt (w.getD 2 0) 24 6
  match b.ceil with
  | some m => (min c m, min l m)
  | none => (c, l)

/-- Checks 1 to 6: the code of the first that fails. -/
def recCheck (s : State) (b : Submitter) (r : LRec) : Option Nat :=
  let w := r.w
  let x := fun k => w.getD k 0
  let (ceil, lvl) := recPrio b w
  let rct := bitAt (x 2) 0
  let cols := bitsAt (x 3) 4 5
  let rows := bitsAt (x 3) 0 4
  if !recReserved w then some 1
  else if x 0 == 0 || recWcnt w == 0 then some 2
  else if !rowsOk (bitsAt (x 2) 15 9) then some 3
  else if 47 < ceil || ceil < lvl || (43 < ceil && !b.high) then some 4
  else if !asidLive s (recAsid w) || b.asid.any (· != recAsid w) then some 5
  else if rct && (cols == 0 || 16 < cols || rows == 0 || 10 < rows || (bitAt (x 2) 1 && bitsAt (x 3) 9 3 != 0))
  then some 6
  else none

/-- The group table image (R239): none for an entry that fails its checks. -/
def groupOf (wcnt w0 w1 : Nat) : Option GEntry :=
  let n := bitsAt w1 0 32
  let st := bitsAt w1 32 16
  let f := bitsAt w0 0 31
  if n == 0 then some ⟨0, 0, 1⟩
  else if w0 < 2 ^ 31 && w1 < 2 ^ 48 && st != 0 && f + (n - 1) * st < wcnt then some ⟨f, n, st⟩
  else none

def groupsOf (wcnt : Nat) : List Nat → Option (List GEntry)
  | a :: b :: l => (groupOf wcnt a b).bind fun g => (groupsOf wcnt l).map fun r => g :: r
  | _ => some []

/-- No warp falls in more than four groups. -/
def groupsDisjoint (wcnt : Nat) (l : List GEntry) : Bool :=
  !(progOver ((l.filter fun g => g.count != 0).map fun g => ⟨g.first, g.stride, g.count⟩) ⟨0, 1, wcnt⟩ 5)

def readGroups (s : State) (who : Who) (w : List Nat) : Res (Except Nat (Option (List GEntry))) :=
  if !bitAt (w.getD 2 0) 1 then .ok s (.ok none)
  else
    let n := w.getD 5 0
    if n == 0 || 256 < n then .ok s (.error 7)
    else (loadPays s who (w.getD 4 0) (2 * n)).map fun xs =>
      match groupsOf (recWcnt w) xs with
      | some l => if groupsDisjoint (recWcnt w) l then .ok (some l) else .error 7
      | none => .error 7

/-- One class entry (R242): none where a valid entry fails its checks. -/
def classOf (ceil : Nat) (x : List Nat) (arg : Val) : Option SClass :=
  let e := x.getD 0 0
  let j := x.getD 1 0
  let f := x.getD 2 0
  let tga := bitAt f 22
  let tag := bitsAt f 18 4
  if zeroOutside (2 ^ 56 - 8) e && zeroOutside (2 ^ 56 - 8) j && zeroOutside (2 ^ 23 - 1 - 2 ^ 17) f
      && j != 0 && rowsOk (bitsAt f 8 9) && bitsAt f 2 6 ≤ ceil
      && (if tga then argTagOk tag else tag == 0) then
    some ⟨e, j, bitsAt f 8 9, bitsAt f 2 6, bitAt f 1, bitAt f 0, if tga then tagged tag arg.n else arg⟩
  else none

/-- Entries `k` onward of the class table. -/
def readClasses (s : State) (who : Who) (ceil a : Nat) : Nat → Res (Option (List SClass))
  | 0 => .ok s (some [])
  | n + 1 =>
    (loadPay s who a).bind fun s e =>
      if bitsAt e 3 53 == 0 then
        (readClasses s who ceil (a + 32) n).map fun r => r.map fun l => ⟨0, 0, 0, 0, false, false, vNil⟩ :: l
      else (loadPays s who a 3).bind fun s x =>
        (if bitAt (x.getD 2 0) 22 then (loadPay s who (a + 24)).map fun v => vRaw v
         else loadVal s who (a + 24)).bind fun s v =>
          (readClasses s who ceil (a + 32) n).map fun r =>
            (classOf ceil x v).bind fun c => r.map fun l => c :: l

/-- The dependence of words 7 to 9. -/
def depOf (w : List Nat) : Dep :=
  let x := fun k => w.getD k 0
  ⟨bitsAt (x 7) 0 32, bitsAt (x 7) 32 32, x 8, bitsAt (x 9) 48 16, bitsAt (x 9) 0 32, bitsAt (x 9) 40 8⟩

/-- Check 9 (R252). -/
def depOk (s : State) (w : List Nat) : Bool :=
  let d := depOf w
  let live := match findLaunch s (recAsid w) d.prod with
    | some l => d.cnt == l.wcnt && d.map == l.cmap
    | none => true
  !bitAt (w.getD 9 0) 31 && d.c != 0 && decide (d.a * (recWcnt w - 1) + d.b + d.c - 1 < d.cnt) && live

/-- The next launch number of a context (R237). -/
def nextLaunch (s : State) (asid : Nat) : Nat :=
  let live := s.launches.filter fun l => l.asid == asid
  let step := fun n => if n == 2 ^ 32 - 1 then 1 else n + 1
  (List.range (live.length + 1)).foldl
    (fun n _ => if live.any fun l => l.num == n then step n else n) (getCtx s asid).launchNo

/-- Accept a launch on a die (R237): its number. -/
def acceptLaunch (s : State) (die : Nat) (b : Submitter) (r : LRec) (gs : Option (List GEntry))
    (cs : List SClass) : State × Nat :=
  let w := r.w
  let x := fun k => w.getD k 0
  let (ceil, lvl) := recPrio b w
  let asid := recAsid w
  let n := nextLaunch s asid
  let l : Launch :=
    { asid := asid, num := n, die := die, entry := x 0, wcnt := recWcnt w, rows := bitsAt (x 2) 15 9
      ceil := ceil, lvl := lvl, args := r.args
      rect := if bitAt (x 2) 0 then some ⟨bitsAt (x 3) 4 5, bitsAt (x 3) 0 4, bitsAt (x 3) 9 3 + 1, none⟩ else none
      groups := gs, classes := cs, dep := if bitAt (x 2) 3 then some (depOf w) else none, cmap := x 10
      granted := false, sent := 0, ahead := [], retired := [], alive := 0, rounds := [] }
  let s := updCtx s asid fun c => { c with launchNo := if n == 2 ^ 32 - 1 then 1 else n + 1 }
  (queueRec { s with launches := s.launches ++ [l] } die (.launch asid n) asid lvl ceil, n)

/-- A fault inside a group image or a class table is check 10. -/
def asCode10 {α : Type} (s : State) (r : Res (Except Nat α)) : Res (Except Nat α) :=
  match r with
  | .bad _ _ => .ok s (.error 10)
  | r => r

/-- Submit the record at `a` (R231, R233, R235): the launch number, or the code of the check that fails. A
fault is one of reading the record itself. -/
def submit (s : State) (who : Who) (die : Nat) (b : Submitter) (a : Nat) : Res (Except Nat Nat) :=
  (readRec s who a).bind fun s r =>
    match recCheck s b r with
    | some k => .ok s (.error k)
    | none => (asCode10 s (readGroups s who r.w)).bind fun s g => match g with
      | .error k => .ok s (.error k)
      | .ok gs =>
        let cs := if bitAt (r.w.getD 2 0) 2 then
            (readClasses s who (recPrio b r.w).1 (r.w.getD 6 0) 16).map fun c => match c with
              | some l => Except.ok l
              | none => Except.error 8
          else Res.ok s (.ok [])
        (asCode10 s cs).bind fun s c => match c with
          | .error k => .ok s (.error k)
          | .ok cs =>
            if bitAt (r.w.getD 2 0) 3 && !depOk s r.w then .ok s (.error 9)
            else
              let (s, n) := acceptLaunch s die b r gs cs
              .ok s (.ok n)

end Sys2Proof.Machine
end

