-- ==== Sys2Proof/Machine/Work.lean ====
section
/-! DEFINITION. SPAWN, JOIN, JADD, REGS and LAUNCH, and continuation records (spec/08 R224-R231,
spec/09 R249-R253). -/

namespace Sys2Proof.Machine

/-! ### SPAWN (R224, R225) -/

/-- The payload words of a lane, completed with ⟨NIL, 0⟩. -/
def spawnWords (w : Warp) (a : BitVec 8) (k lane : Nat) : List Val :=
  (List.range 4).map fun j => if j < k then rowAt (rowVal w (a.toNat + j)) lane else vNil

/-- Place one lane's record (R225). -/
def spawnLane (w : Warp) (c : SClass) (cls : Nat) (a : BitVec 8) (k : Nat) (s : State) (lane : Nat) :
    State × LaneRes :=
  let die := w.pos.die
  let ws := spawnWords w a k lane
  let key := if c.key then (ws.getD 0 vNil).n % 256 else 0
  let d := getDie s die
  match placeRec s die w.asid w.launch cls key ws d.spillOrd.isEmpty with
  | some t =>
    -- a bin that closed is free for the oldest spilled record first
    (if (getDie t die).bins.length < d.bins.length then drainBins t die else t, .ok [] 0#7 false)
  | none =>
    if !c.spl then (s, .event (vNat cls) vNil 0)
    else match spillRec s w.uid die w.asid ⟨w.launch, cls, key, ws⟩ with
      | some s => (s, .ok [] 0#7 false)
      | none => (s, .bad (flt .spawnOverflow 0))

def spawnLanes (w : Warp) (c : SClass) (cls : Nat) (a : BitVec 8) (k : Nat) :
    List Nat → State → State × List (Nat × LaneRes)
  | [], s => (s, [])
  | i :: l, s =>
    let (s, r) := spawnLane w c cls a k s i
    let (s, rs) := spawnLanes w c cls a k l s
    (s, (i, r) :: rs)

/-- Write the new count of a class: the lanes that spawned are added as one step. -/
def spawnAdd (s : State) (w : Warp) (jca : Nat) (t : Tr) (c : Int) (n : Nat) : State :=
  if n == 0 then s
  else match counterWrite s w jca t (c + n) with
    | .ok s _ => s
    | _ => s

/-- SPAWN. -/
def execSpawn (g : Guard) (cls : BitVec 4) (k : BitVec 2) (flush : Bool) (a : BitVec 8) (s : State) :
    Host.Outcome State Fault Refusal :=
  let n := k.toNat + 1
  let i : Ins := { insNo g [] with shape := some true, reads := runRegs (.v a) n, chk := fun w => runOk w (.v a) n }
  issue s i fun s' r =>
    let c := match findLaunch s' r.w.asid r.w.launch with
      | some l => l.cls cls.toNat
      | none => ⟨0, 0, 0, 0, false, false, vNil⟩
    if c.entry == 0 then faultReady s' r (flt .instruction 8) 8
    else match counterRead s' r.w c.jca (lowLane r.eff) with
      | .hold h l => holdAt s r.w.uid h l
      | .bad t f => faultReady t r f 8
      | .ok t (tr, cnt) =>
        if (2 : Int) ^ 63 - 33 < cnt then faultReady t r { counterFlt with fva := c.jca } 8
        else
          let (t, l) := spawnLanes r.w c cls.toNat a n (maskLanes r.eff) t
          let m := (maskLanes (okLanes l)).length
          let t := noteReleases t r.w.uid 6 m
          let t := spawnAdd t r.w c.jca tr cnt m
          let t := if flush then closeBins t r.w.pos.die fun b =>
              b.asid == r.w.asid && b.launch == r.w.launch && b.cls == cls.toNat
            else t
          finish s t i r { cls := eventCls 2, redo := true } l

/-! ### JADD (R229) -/

/-- The counter's address, from a scalar INT, RAW or REF. -/
def counterAddr (v : Val) : Except LFault Nat :=
  if v.tag == .int || v.tag == .raw || v.tag == .ref then .ok v.n else .error typeFlt

/-- JADD. A sum outside the signed 64 bits is refused as one below zero (log 39). -/
def execJadd (g : Guard) (d : Dst) (a b : Src) (s : State) : Host.Outcome State Fault Refusal :=
  onceIns s (onceOf g d [a, b]) fun s r =>
    match counterAddr (r.val 0 0) with
    | .error f => .bad s f
    | .ok va =>
      if (r.val 1 0).tag != .int then .bad s typeFlt
      else (counterRead s r.w va (lowLane r.eff)).bind fun s c =>
        let n := c.2 + (r.val 1 0).i
        if n < 0 ∨ (2 : Int) ^ 63 ≤ n then .bad s { counterFlt with fva := va }
        else
          let (s, w) := released s r.w 6
          (counterWrite s w va c.1 n).map fun _ => [vInt c.2]

/-! ### The continuation pool (R249, R459) -/

/-- Size of a record with these carried registers. -/
def contSize (scnt vcnt : Nat) : Nat := 0xC0 + (8 * scnt + 63) / 64 * 64 + 256 * vcnt

/-- Places where a record of a chunk may begin. -/
def contStarts (c : Ctx) (k : ContChunk) : List Nat :=
  k.base :: (c.contUsed.filterMap fun u =>
    if k.base ≤ u.1 && u.1 < k.base + k.size then some (u.1 + u.2) else none)

/-- `n` bytes from `a` lie in the chunk and meet no record. -/
def contFree (c : Ctx) (k : ContChunk) (a n : Nat) : Bool :=
  decide (a + n ≤ k.base + k.size) && c.contUsed.all fun u => decide (a + n ≤ u.1) || decide (u.1 + u.2 ≤ a)

/-- A place for a record, by virtual address. -/
def contFind (c : Ctx) (n : Nat) : Option Nat :=
  c.cont.findSome? fun k => (contStarts c k).find? fun a => contFree c k a n

/-- The domain address behind an address of the pool. -/
def contPhys (c : Ctx) (va : Nat) : Nat :=
  match c.cont.find? fun k => k.base ≤ va && va < k.base + k.size with
  | some k => k.frames.getD ((va - k.base) / 65536) 0 + va % 65536
  | none => 0

/-- The carry descriptor (R227). -/
structure Carry where
  msk : Nat
  scnt : Nat
  sfst : Nat
  vcnt : Nat
  vfst : Nat
  deriving DecidableEq, Repr

def carryOf (x : Nat) : Carry := ⟨bitsAt x 30 7, bitsAt x 23 7, bitsAt x 17 6, bitsAt x 8 9, bitsAt x 0 8⟩

def carryOk (w : Warp) (x : Nat) : Bool :=
  let c := carryOf x
  x < 2 ^ 37 && decide (c.vfst + c.vcnt ≤ w.allot) && decide (c.sfst + c.scnt ≤ 64)

/-- The words of a record (R249). -/
def contWords (w : Warp) (pc : Addr) (ctr desc : Nat) : List (Nat × Val) :=
  let c := carryOf desc
  let vs := 0xC0 + (8 * c.scnt + 63) / 64 * 64
  let head := [vCode pc, vNat ctr, vRaw (w.em.toNat + w.allot * 2 ^ 32), vRaw (gselNat w), vNat (prioNat w),
    vRaw (fpctlNat w + w.fpst.toNat * 2 ^ 32), vNat w.ncur, vNat w.nlim, sregVal w 29, vRaw desc,
    vNat (wnumNat w), vZero, vZero, vZero, vZero, vZero]
  let masks := (List.range 7).map fun k => vRaw (maskVal w (BitVec.ofNat 3 (k + 1))).toNat
  ((head ++ masks ++ [vZero]).zipIdx.map fun p => (8 * p.2, p.1))
    ++ ((List.range c.scnt).map fun k => (0xC0 + 8 * k, sregVal w (c.sfst + k)))
    ++ ((List.range c.vcnt).flatMap fun k =>
        (List.range 32).map fun j => (vs + 256 * k + 8 * j, rowAt (rowVal w (c.vfst + k)) j))

/-- The record of `n` bytes as its words in order: those between its parts hold ⟨INT, 0⟩. -/
def contImage (l : List (Nat × Val)) (n : Nat) : List Val :=
  (List.range (n / 8)).map fun k => match l.find? fun p => p.1 == 8 * k with
    | some p => p.2
    | none => vZero

/-- The warp as a continuation resumes it (R32, R228): what the record holds and nothing else. -/
def contWarp (w : Warp) (pc : Addr) (desc : Nat) : Warp :=
  let c := carryOf desc
  let n := newWarp w.uid w.asid w.wnum w.launch w.die pc w.em w.allot
  { n with
    packed := w.packed, jca := w.jca, pos := w.pos, gsel := w.gsel, ceil := w.ceil, lvl := w.lvl
    nt := w.nt, s52 := w.s52, s43 := w.s43, rm := w.rm, fpst := w.fpst, ncur := w.ncur, nlim := w.nlim
    intv := w.intv, lscp := w.lscp, mcDue := w.mcDue, copyDue := w.copyDue, mtraps := w.mtraps
    m := (List.range 8).map fun k => if k != 0 && bitAt c.msk (k - 1) then w.m.getD k 0#32 else 0#32
    sreg := (List.range 64).map fun k =>
      if k == 29 || (decide (c.sfst ≤ k) && decide (k < c.sfst + c.scnt)) then sregVal w k else vNil
    v := (List.range w.allot).map fun k =>
      if decide (c.vfst ≤ k) && decide (k < c.vfst + c.vcnt) then rowVal w k else nilRow }

/-- The home of the moment of a domain address (R500). -/
def homeNow (s : State) (who : Who) (da : Nat) : Nat :=
  match migResolve s who 0 da with
  | .ok _ h => h
  | _ => da

/-- Write a record's words, whole lines at a time (R198, R461). -/
def putRecord (s : State) (u : Nat) (c : Ctx) (va : Nat) (l : List Val) : State :=
  (List.range (l.length / 8)).foldl (fun s k => sysPuts s u (contPhys c (va + 64 * k)) ((l.drop (8 * k)).take 8)) s

/-- Write the record of a parking warp and register it on its counter (R228, R250). -/
def parkWarp (s : State) (w : Warp) (va ctr da desc size : Nat) (pc : Addr) : State :=
  let c := getCtx s w.asid
  let s := putRecord s w.uid c va (contImage (contWords w pc ctr desc) size)
  let s := updCtx s w.asid fun c => { c with
    contUsed := c.contUsed ++ [(va, size)]
    saveUsed := c.saveUsed.filter fun k => some k != w.save }
  let s := updWarp s w.uid fun w => { contWarp w pc desc with
    status := .parked, die := w.pos.die, contAt := va, contCtr := da }
  let d := homeDie da
  match (getDie s d).joins.find? fun j => j.addr == da with
  | none => updDie s d fun d => { d with joins := d.joins ++ [⟨da, [w.uid]⟩] }
  | some j =>
    let s := match j.warps.getLast?.bind fun u => findWarp s u with
      | some l => sysPut s w.uid (contPhys (getCtx s l.asid) (l.contAt + 0x58)) (vNat va)
      | none => s
    updDie s d fun d => { d with
      joins := modifyFirst (fun j => j.addr == da) (fun j => { j with warps := j.warps ++ [w.uid] }) d.joins }

/-- An accumulator token is held by the warp. -/
def holdsAnyToken (s : State) (u : Nat) : Bool :=
  s.cores.any fun c => c.sts.any fun x => x.token.any fun t => t == some u

/-- What refuses a JOIN before any effect (R119, R228). -/
def joinBad (s : State) (w : Warp) : Option LFault :=
  if w.hnd then some (flt .instruction 28)
  else if !w.stack.isEmpty || !w.spill.isEmpty then some (flt .instruction 4)
  else if holdsAnyToken s w.uid then some (flt .instruction 5)
  else none

/-- The bins and the batch that a JOIN closes, once (R228). -/
def joinClose (s : State) (w : Warp) (va : Nat) : State :=
  if w.joining then s
  else
    let s := closeBins s w.pos.die (binOnCounter s w.asid va)
    closeBatch (updWarp s w.uid fun w => { w with joining := true }) w.uid

/-- A fault of a JOIN: its replay closes anew what has opened meanwhile (R228, R450). -/
def joinFault (s : State) (r : Ready) (f : LFault) (size : Nat) : State :=
  faultReady (updWarp s r.w.uid fun w => { w with joining := false }) r f size

/-- The counter's step: continue at zero, park above it. -/
def joinStep (s t : State) (r : Ready) (va desc size : Nat) : State :=
  match counterRead t r.w va (lowLane r.eff) with
  | .hold h l => holdAt s r.w.uid h l
  | .bad t f => joinFault t r f size
  | .ok t (tr, c) =>
    if c < 0 then joinFault t r { counterFlt with fva := va } size
    else if c == 0 then updWarp t r.w.uid fun w => advance w size
    else
      let k := carryOf desc
      let n := contSize k.scnt k.vcnt
      match contFind (getCtx t r.w.asid) n with
      | none => joinFault t r (flt .spawnOverflow 1) size
      | some a => match (chansDrop t r.w.uid).undo t with
        | .ok t _ => (match findWarp t r.w.uid with
          | some w => parkWarp (noteRelease t w.uid 6) w a va (homeNow t w.who tr.da) desc n (w.pc + BitVec.ofNat 56 size)
          | none => t)
        | .hold h l => holdAt s r.w.uid h l
        | .bad t f => joinFault t r f size

/-- JOIN (R228). -/
def execJoin (g : Guard) (a b : Src) (s : State) : Host.Outcome State Fault Refusal :=
  let size := srcsSize [a, b]
  issue s { insNo g [a, b] with shape := some false, pre := joinBad s } fun s' r =>
    let v := r.val 1 0
    if !intRaw v then faultReady s' r typeFlt size
    else if !carryOk r.w v.n then faultReady s' r operandFlt size
    else match counterAddr (r.val 0 0) with
      | .error f => faultReady s' r f size
      | .ok va =>
        -- what the JOIN has closed stays closed while it waits; its operands are read anew
        let t := joinClose s' r.w va
        let s := joinClose s r.w va
        if (pendingBatches t r.w.uid).isEmpty then joinStep s t r va v.n size
        else holdAt s r.w.uid .batch 0

/-! ### REGS (R230, R253, R441) -/

/-- Rows that warps of the live context hold in a quadrant. -/
def quadRows (s : State) (p : Pos) (quad : Nat) : Nat :=
  ((s.warps.filter fun w => w.isResident && w.pos == p && w.slot / 16 == quad).map fun w => w.allot).sum

/-- The warps of a quadrant that ask for rows, oldest request first. -/
def quadReqs (s : State) (p : Pos) (quad : Nat) : List Warp :=
  (getCore s p).requests.filterMap fun u => match findWarp s u with
    | some w => if w.isResident && w.pos == p && w.slot / 16 == quad && w.regsReq.isSome then some w else none
    | none => none

/-- Rows that a request adds. -/
def growth (w : Warp) : Nat := (w.regsReq.getD w.allot) - w.allot

/-- Change an allotment; new rows read ⟨NIL, 0⟩ (R18). -/
def resize (w : Warp) (n : Nat) : Warp :=
  { w with allot := n, v := w.v.take n ++ List.replicate (n - w.v.length) nilRow }

/-- Grant the oldest request of a quadrant when its rows are free (R253). -/
def grantRows (s : State) (p : Pos) (quad : Nat) : State :=
  match quadReqs s p quad with
  | [] => s
  | w :: _ =>
    if 512 < quadRows s p quad + growth w then s
    else
      let s := updWarp s w.uid fun w => { resize w (w.regsReq.getD w.allot) with regsReq := none }
      updCore s p fun c => { c with requests := c.requests.filter fun u => u != w.uid }

/-- An incomplete copy writes rows of the warp at or above `n` (R441). -/
def copiesInto (s : State) (w : Warp) (n : Nat) : Bool :=
  s.cores.any fun c => c.copies.any fun j =>
    let lay := match j.kind with
      | .cpy d _ _ => some d
      | .slice l _ _ => l.map fun (p : Layout × Layout) => p.1
      | .cpym d _ _ _ _ _ => some d
      | .cpyd _ _ _ l => some l
      | .cpys _ _ _ _ => none
    match lay with
    | none => false
    | some l => l.space == 2 && l.wsp == 1 && j.asid == w.asid &&
      (List.range (j.n - j.done)).any fun k => match elemPlace s (copyWho c.pos j) l (j.done + k) with
        | .ok (.win p _ off) => p == w.pos && off / 0x10000 == w.slot && decide (n ≤ off / 0x100 % 0x100)
        | _ => false

/-- The fault of a shrink (R441). -/
def shrinkBad (s : State) (w : Warp) (n : Nat) : Option LFault :=
  if w.rwEn && n < w.rwFst + w.rwCnt then some (flt .registerRequest 0)
  else if copiesInto s w n then some (flt .registerRequest 1)
  else none

/-- A warp asks for rows. -/
def askRows (s : State) (w : Warp) (n : Nat) : State :=
  let s := updWarp s w.uid fun w => { w with regsReq := some n }
  if (getCore s w.pos).requests.contains w.uid then s
  else updCore s w.pos fun c => { c with requests := c.requests ++ [w.uid] }

/-- A growth: at once where no request waits and the rows are free, otherwise as a request, with the operand left to be
read again (`s0` is the state before it was read). -/
def growRows (s0 s : State) (w : Warp) (n size : Nat) : State :=
  let t := grantRows (askRows s w n) w.pos (w.slot / 16)
  if (findWarp t w.uid).any fun x => x.regsReq.isNone then updWarp t w.uid fun w => advance w size
  else holdAt (askRows s0 w n) w.uid .rows 0

/-- REGS (R230). -/
def execRegs (g : Guard) (a : Src) (s : State) : Host.Outcome State Fault Refusal :=
  let size := srcsSize [a]
  issue s { insNo g [a] with
      shape := some false
      pre := fun w => if w.hnd then some (flt .instruction 28) else none } fun s' r =>
    let v := r.val 0 0
    if v.tag != .int then faultReady s' r typeFlt size
    else if !rowsOk v.n then faultReady s' r (flt .arithmetic 4) size
    else if v.n == r.w.allot then updWarp s' r.w.uid fun w => advance w size
    else if v.n < r.w.allot then
      (match shrinkBad s' r.w v.n with
      | some f => faultReady s' r f size
      | none => updWarp s' r.w.uid fun w => advance (resize w v.n) size)
    else growRows s s' r.w v.n size

/-! ### LAUNCH (R231) -/

/-- LAUNCH. -/
def execLaunch (g : Guard) (d : Dst) (a : Src) (s : State) : Host.Outcome State Fault Refusal :=
  onceIns s (onceOf g d [a]) fun s r =>
    match recAddr (r.val 0 0) with
    | .error f => .bad s f
    | .ok va =>
      let w := r.w
      let b : Submitter := ⟨if w.sup then none else some w.asid, some w.ceil, w.sup⟩
      (submit s w.who w.pos.die b va).bind fun t n => match n with
        | .ok n => .ok (noteRelease t w.uid 6) [vNat n]
        | .error _ => .bad s (flt .instruction 7)

end Sys2Proof.Machine
end

