-- ==== Sys2Proof/Machine/Super.lean ====
section
/-! DEFINITION. The supervisor's instructions: SRET, PMAP, PINV, SDECL, GTBL (spec/20 R450-R459). -/

namespace Sys2Proof.Machine

/-! ### SRET (R450) -/

/-- Go on as SRET does with the lanes of `keep`: the depth check, then by the frame's kind. -/
def sretGo (s : State) (u : Nat) (keep : Mask) : State :=
  match findWarp s u with
  | none => s
  | some w => match w.sframe with
    | none => s
    | some f =>
      if w.depth != f.depth then doubleFault s w (innerCause 3)
      else
        let s := updWarp s u fun w => supReturn w f keep
        match f.kind with
        | .copy => ticketRestart s w.asid f.ticket
        | .matrix => resumeMatrix s u
        | .sparse => spDone (updWarp s u fun w => { w with
            sparse := modifyFirst (fun p => !p.faults.isEmpty) (spAgain f keep) w.sparse }) u
        | .replay | .after => s

/-- SRET.host: the frame's fault goes to the host. -/
def sretHost (s : State) (u : Nat) : State :=
  match findWarp s u with
  | none => s
  | some w => match w.sframe with
    | none => s
    | some f =>
      if w.depth != f.depth then doubleFault s w (innerCause 3)
      else escalate s u 0 f.fcause f.flm w.fva f.repPc 0#64

/-- A privileged instruction that executes once without a destination. -/
def privNo (g : Guard) (srcs : List Src) : Ins := { insNo g srcs with shape := some false, priv := true }

/-- SRET. -/
def execSret (m : Src) (s : State) : Host.Outcome State Fault Refusal :=
  issue s (privNo Guard.always [m]) fun s r => match maskArg (r.val 0 0) with
    | some k => sretGo s r.w.uid k
    | none => faultReady s r typeFlt (srcsSize [m])

/-- SRET.host. -/
def execSretHost (m : Src) (s : State) : Host.Outcome State Fault Refusal :=
  issue s (privNo Guard.always [m]) fun s r => match maskArg (r.val 0 0) with
    | some _ => sretHost s r.w.uid
    | none => faultReady s r typeFlt (srcsSize [m])

/-! ### Frames (R454) -/

/-- Dies in the order in which a search visits them: by hops, lower number first. -/
def diesFrom (d : Nat) : List Nat :=
  (List.range 5).flatMap fun h => (List.range 8).filter fun k => dieHops d k == h

/-- A frame out of a die's pool; which one is left open (R454, log 6). -/
def poolTake (s : State) (die : Nat) : Option (Nat × State) :=
  match (getDie s die).pool with
  | [] => none
  | [f] => some (f, updDie s die fun d => { d with pool := [] })
  | l =>
    let f := l.getD (Config.framePick s.freeCtr % l.length) 0
    some (f, updDie { s with freeCtr := s.freeCtr + 1 } die fun d => { d with pool := d.pool.filter (· != f) })

/-- A frame from the first die of the list that has one. -/
def poolAny (s : State) : List Nat → Option (Nat × State)
  | [] => none
  | d :: l => match poolTake s d with
    | some r => some r
    | none => poolAny s l

/-- Fill `n` bytes from a frame on with ⟨INT, 0⟩ or zero bytes: whole lines, which re-encodes them. They hold no data of a
cleared interface any more (R523). -/
def fillRange (s : State) (da n : Nat) : State :=
  let outside := fun (l : Nat) => !(decide (da / 64 ≤ l) && decide (l < (da + n) / 64))
  { s with
    mem := memZero s.mem da (n / 8)
    bad := s.bad.filter outside
    soft := s.soft.filter outside
    hub := { s.hub with cleared := s.hub.cleared.filter fun c => !(decide (da ≤ c.1) && decide (c.1 + c.2 ≤ da + n)) } }

/-- Fill a frame (R455, R519). -/
def fillFrame (s : State) (da : Nat) : State := fillRange s da 65536

/-- Why a page cannot be mapped (R455). -/
inductive MapRes where
  | done
  | status (n : Nat)

/-- A frame is filled for a page that `who` maps; the window table may refuse a system core the write (R524). A line of it
that the host holds is first taken back (R511). -/
def fillFor (s : State) (who : Who) (da : Nat) : Res Unit :=
  match heldIn s da 65536 with
  | some l => .hold .snoop l
  | none => .ok (if fwBars s who (fun w => w.w) da 65536 then countDrop s else fillFrame s da) ()

/-- Map one 64 KiB page (R455): `pools` are the dies asked for a frame, `attrs` the leaf's attributes; `rel` tells that the
entry's write is a release (R310). The walk and the compare-and-swap are one step, so the entry still holds what was read. -/
def mapPage (s0 : State) (who : Who) (rel : Bool) (va attrs : Nat) (pools : List Nat) : Res MapRes :=
  match walk s0 who va with
  | .ok s _ => .ok s (.status 1)
  | .hold h l => .hold h l
  | .bad s f =>
    if !(f.cls == .translation && f.det == 0) then .bad s f
    else if f.info != 0 then .ok s (.status 4)
    else
      let c := getCtx s who.asid
      if c.quota ≤ c.used then .ok s (.status 3)
      else match poolAny s pools with
        | none => .ok s (.status 2)
        | some (fr, s) =>
          (missedEntry s who va).bind fun s e => (fillFor s who (s.dev * 2 ^ 52 + fr)).bind fun s _ =>
            let s := if rel then noteRelease s who.warp 6 else s
            (physStore s who e e 8 (s.dev * 2 ^ 52 + fr + attrs + 3) none).bind fun s _ =>
              .ok (updCtx s who.asid fun c => { c with used := c.used + 1 }) .done

/-! ### PMAP (R455, R456) -/

def attrFlt : LFault := flt .instruction 30

/-- Attributes that PMAP.any accepts: CLS tagged or raw, MV, CRD, RD, CI, U, X, W. -/
def attrOk (b : Nat) : Bool := zeroOutside (0x4000 + 0x3C00 + 0xE0) b

/-- The masks of PMAP.attr. -/
def attrMasksOk (b : Nat) : Bool :=
  zeroOutside (0x3FE0 + 0x3FE0 * 2 ^ 16) b && bitsAt b 0 16 &&& bitsAt b 16 16 == 0

/-- PMAP executes per lane, ascending; `b` is scalar. -/
def pmapIns (g : Guard) (d : Dst) (a : Src) (b : Option Src) : Ins :=
  { insOf g d (a :: b.toList) with priv := true, chk := fun w => !(b.any (srcVec w)) }

/-- The lanes of PMAP: attribute check, address, then `f` of the address. -/
def pmapLanes (s : State) (i : Ins) (ok : Nat → Bool) (f : Ready → State → Nat → Nat → Res Nat) :
    Host.Outcome State Fault Refusal :=
  stateIns s i {} fun r s k =>
    let v := r.val 0 k
    let b := if r.ops.length < 2 then vZero else r.val 1 k
    if b.tag != .int || !intRaw v then .bad s typeFlt
    else if !ok b.n then .bad s attrFlt
    else if 2 ^ 56 ≤ v.n then .ok s (.val (vNat 5))
    else (Res.at (f r s v.n b.n) v.n).map fun n => .val (vNat n)

/-- PMAP.any. -/
def execPmap (g : Guard) (any : Bool) (d : Dst) (a b : Src) (s : State) : Host.Outcome State Fault Refusal :=
  pmapLanes s (pmapIns g d a (some b)) attrOk fun r s va x =>
    let die := r.w.pos.die
    (mapPage s r.w.who true va x (if any then diesFrom die else [die])).map fun m => match m with
      | .done => 0
      | .status n => n

/-- Rewrite the leaf that covers `va`, at any level (R456). -/
def rewriteLeaf (s : State) (w : Warp) (va : Nat) (f : Nat → Nat) : Res Nat :=
  match walk s w.who va with
  | .hold h l => .hold h l
  | .bad s e => if e.cls == .translation && e.det == 0 then .ok s 6 else .bad s e
  | .ok s k =>
    (physStore (noteRelease s w.uid 6) w.who k.at_ k.at_ 8 (f k.pte) none).map fun _ => 0

/-- PMAP.attr. -/
def execPmapAttr (g : Guard) (d : Dst) (a b : Src) (s : State) : Host.Outcome State Fault Refusal :=
  pmapLanes s (pmapIns g d a (some b)) attrMasksOk fun r s va x =>
    rewriteLeaf s r.w va fun p =>
      let q := p ||| bitsAt x 0 16
      q - (q &&& bitsAt x 16 16)

/-- PMAP.unmap. -/
def execPmapUnmap (g : Guard) (d : Dst) (a : Src) (s : State) : Host.Outcome State Fault Refusal :=
  pmapLanes s (pmapIns g d a none) (fun _ => true) fun r s va _ => rewriteLeaf s r.w va fun _ => 0

/-! ### PINV (R284, R457) -/

/-- Remove the translations of an ASID that meet a range from every translation buffer and walk cache, and its
instruction lines (R457, R490). -/
def shootRange (s : State) (asid lo n : Nat) : State :=
  dropCode { s with
    clusters := s.clusters.map fun c => { c with
      tlb := c.tlb.filter fun e => !(e.asid == asid && decide (e.va < lo + n) && decide (lo < e.va + e.size)) }
    dies := s.dies.map fun d => { d with walks := d.walks.filter fun e =>
      !(e.asid == asid && decide (e.idx * 2 ^ (16 + 10 * e.lvl) < lo + n)
        && decide (lo < (e.idx + 1) * 2 ^ (16 + 10 * e.lvl))) } } asid lo n

/-- Bytes of a PINV page. -/
def pinvBytes : PageSz → Nat
  | .k64 => 2 ^ 16
  | .m64 => 2 ^ 26
  | .g64 => 2 ^ 36

/-- PINV.sz. -/
def execPinv (g : Guard) (sz : PageSz) (a : Src) (s : State) : Host.Outcome State Fault Refusal :=
  let size := srcsSize [a]
  issue s (privNo g [a]) fun s r =>
    let v := r.val 0 0
    if v.tag != .int then faultReady s r typeFlt size
    else
      let n := pinvBytes sz
      let s := shootRange (noteRelease s r.w.uid 6) r.w.asid (v.n / n * n) n
      updWarp s r.w.uid fun w => advance w size

/-- PINV.all. -/
def execPinvAll (g : Guard) (s : State) : Host.Outcome State Fault Refusal :=
  issue s (privNo g []) fun s r =>
    updWarp (shootRange (noteRelease s r.w.uid 6) r.w.asid 0 (2 ^ 56)) r.w.uid fun w => advance w 8

/-! ### SDECL (R458) -/

def regionFlt : LFault := flt .instruction 21

/-- The image's region record meets R352 and R353, its reserved words included. -/
def regionOk (w : List Nat) : Bool :=
  let q := regionOf w
  let x := w.getD 0 0
  bitsAt x 41 22 == 0 && ((w.take 32).drop 8).all (· == 0) && etagOk q.etag
    && ((q.ws.zipIdx).all fun p =>
      if p.2 ≤ q.rank then decide (1 ≤ p.1) && decide (p.1 ≤ 64) else p.1 == 0)
    && decide (q.width ≤ 64)
    && (List.range 7).all fun k =>
      let key := w.getD (k + 1) 0
      if k < q.nstr then decide (q.ks.getD k 0 < key) && decide (key < 2 ^ q.width) else key == 0

/-- The reserved fields of a stripe record are zero, and ENG is an engine (R10, R354). -/
def stripeFieldsOk (w : List Nat) : Bool :=
  let x := fun k => w.getD k 0
  decide (x 0 < 32) && decide (x 1 < 2 ^ 36) && bitsAt (x 2) 56 8 == 0 && bitsAt (x 2) 0 16 == 0 && bitsAt (x 3) 56 8 == 0
    && bitsAt (x 3) 25 7 == 0 && decide (x 4 < 2 ^ 56) && decide (x 6 < 2 ^ 48) && x 7 == 0

/-- The image's stripes up to NSTR: fields, size, and pools that do not meet. -/
def stripesOk (l : List Stripe) (ws : List (List Nat)) : Bool :=
  (ws.all stripeFieldsOk)
    && (l.all fun t => decide (1 ≤ t.pmax) && decide (t.pmax < 2 ^ 24))
    && (l.zipIdx).all fun a => (l.zipIdx).all fun b =>
      a.2 == b.2 || decide (a.1.pool + 256 * a.1.pmax ≤ b.1.pool) || decide (b.1.pool + 256 * b.1.pmax ≤ a.1.pool)

/-- The page of a descriptor: mapped, writable and sparse. -/
def descPage (s : State) (w : Warp) (a : Nat) : Res Unit :=
  if 2 ^ 56 ≤ a || a % 1024 != 0 then .bad s regionFlt
  else match translate s w.who a true with
    | .hold h l => .hold h l
    | .bad s f => .bad s (if f.cls == .machineCheck then f else regionFlt)
    | .ok s t => if pteCls t.pte == 2 && pteW t.pte then .ok s () else .bad s regionFlt

/-- Stripe `k` of an image. -/
def imageStripe (img : List Nat) (k : Nat) : List Nat := (img.drop (32 + 8 * k)).take 8

/-- The stripe as SDECL.create writes it. -/
def freshStripe (t : Stripe) : Stripe :=
  { t with hgt := 0, root := 0, pcap := 0, nfree := 0, free := 0, ent := 0, ret := 0, nuse := 0 }

/-- Write the descriptor, V last. -/
def writeDescriptor (s : State) (who : Who) (a : Nat) (img : List Nat) (n : Nat) : Res Unit :=
  let x := img.getD 0 0 % 2 ^ 63
  let rec_ := vRaw x :: (((img.drop 1).take 7).map vRaw ++ List.replicate 24 (vRaw 0))
  let stripe := fun k =>
    if k ≤ n then stripeWords (freshStripe (stripeOf (imageStripe img k))) else List.replicate 8 (vRaw 0)
  (spPut s who a (rec_ ++ (List.range 8).flatMap stripe)).bind fun s _ =>
    spPut s who a [vRaw (x + 2 ^ 63)]

/-- An address operand of SDECL. -/
def descAddr (v : Val) : Except LFault Nat :=
  if v.tag == .int || v.tag == .raw || v.tag == .ref then .ok v.n else .error typeFlt

/-- SDECL.create. -/
def execSdeclCreate (g : Guard) (d : Dst) (a b : Src) (s : State) : Host.Outcome State Fault Refusal :=
  stateIns s { insOf g d [a, b] with priv := true } {} fun r s k =>
    match descAddr (r.val 0 k), descAddr (r.val 1 k) with
    | .error f, _ => .bad s f
    | _, .error f => .bad s f
    | .ok va, .ok im =>
      (recordWords s r.w.who im 128).bind fun s img =>
        let n := (regionOf img).nstr
        let ts := (List.range (n + 1)).map fun k => stripeOf (imageStripe img k)
        if !(regionOk img && stripesOk ts ((List.range (n + 1)).map (imageStripe img))
            && (img.drop 96).all (· == 0)) then
          .bad s regionFlt
        else (descPage s r.w va).bind fun s _ =>
          (spWords s r.w.who.hw va 1).bind fun s old =>
            if bitAt (old.getD 0 vZero).n 63 then .bad s regionFlt
            else (writeDescriptor (noteRelease s r.w.uid 6) r.w.who.hw va img n).map fun _ =>
              .val (canonLit .ref (wordN va))

/-- Make node `i` reachable: its page is mapped, from the pools in order, as sparse and writable. False where
frames or tables run out. -/
def nodePage (s : State) (who : Who) (t : Stripe) (i : Nat) : Res Bool :=
  (mapPage s who false (nodeVa t i) (2 * 2 ^ 14 + 32) (diesFrom (t.eng / 4))).map fun m => match m with
    | .done => true
    | .status n => n == 1

/-- The words of a free node. -/
def freeNode (str next : Nat) : List Val :=
  vRaw (2 ^ 59 + str * 256) :: vRaw next :: List.replicate 30 vNil

/-- Nodes that can be committed: `n` at most from `i` on. -/
def growPages (who : Who) (t : Stripe) : Nat → Nat → State → Res Nat
  | 0, _, s => .ok s 0
  | n + 1, i, s => (nodePage s who t i).bind fun s ok =>
    if ok then (growPages who t n (i + 1) s).map (· + 1) else .ok s 0

/-- Write `n` free nodes from index `i` on, linked in ascending order ahead of the free list. -/
def growNodes (who : Who) (t : Stripe) (str : Nat) : Nat → Nat → State → Res Unit
  | 0, _, s => .ok s ()
  | n + 1, i, s =>
    (spPut s who (nodeVa t i) (freeNode str (if n == 0 then t.free else i + 2))).bind fun s _ =>
      growNodes who t str n (i + 1) s

/-- Commit nodes to a stripe as one step: the number committed. -/
def growStripe (s : State) (w : Warp) (desc str count : Nat) : Res Nat :=
  (stripeRead s w.who.hw desc str).bind fun s t =>
    (growPages w.who.hw t (min count (t.pmax - t.pcap)) t.pcap s).bind fun s n =>
      if n == 0 then .ok s 0
      else
        let who := engWho w.asid t.eng w.uid
        (growNodes who t str n t.pcap s).bind fun s _ =>
          (stripePut s who desc str { t with
            free := t.pcap + 1, nfree := t.nfree + n, pcap := t.pcap + n }).map fun _ => n

/-- SDECL.grow. -/
def execSdeclGrow (g : Guard) (d : Dst) (a b : Src) (s : State) : Host.Outcome State Fault Refusal :=
  stateIns s { insOf g d [a, b] with priv := true, chk := fun w => !srcVec w b } {} fun r s k =>
    (spRegion s r.w (r.val 0 k)).bind fun s q =>
      let v := r.val 1 k
      let n := bitsAt v.n 32 24
      if v.tag != .int then .bad s typeFlt
      else if !zeroOutside (7 + (2 ^ 56 - 2 ^ 32)) v.n || n == 0 || q.nstr < bitsAt v.n 0 3 then
        .bad s regionFlt
      else (growStripe s r.w (r.val 0 k).n (bitsAt v.n 0 3) n).map fun n => .val (vNat n)

/-- Operations on a region's stripes that have not completed. -/
def regionBusy (s : State) (asid desc : Nat) : Bool :=
  let on := fun (q : List SpOp) => q.any fun o => o.asid == asid && o.desc == desc
  (s.dies.any fun d => d.engines.any on) || s.hub.farEng.any fun e => on e.2

/-- Sum of PCAP over the stripes `0` to `n`. -/
def sumPcap (who : Who) (desc : Nat) : List Nat → State → Res Nat
  | [], s => .ok s 0
  | k :: l, s => (stripeRead s who desc k).bind fun s t => (sumPcap who desc l s).map (· + t.pcap)

/-- SDECL.retire. -/
def execSdeclRetire (g : Guard) (d : Dst) (a : Src) (s : State) : Host.Outcome State Fault Refusal :=
  stateIns s { insOf g d [a] with priv := true } {} fun r s k =>
    let h := r.val 0 k
    (spRegion s r.w h).bind fun s q =>
      if regionBusy s r.w.asid h.n then .hold .engineQueue 0
      else (sumPcap r.w.who.hw h.n (List.range (q.nstr + 1)) s).bind fun s n =>
        (spWords s r.w.who.hw h.n 1).bind fun s x =>
          (spPut s r.w.who.hw h.n [vRaw ((x.getD 0 vZero).n % 2 ^ 63)]).bind fun s _ =>
            let drop := fun (e : Nat × Nat × Nat × Nat) => !(e.1 == r.w.asid && e.2.1 == h.n)
            .ok { s with
              dies := s.dies.map fun d => { d with retired := d.retired.filter drop }
              hub := { s.hub with farRet := s.hub.farRet.filter drop } } (.val (vNat n))

/-! ### GTBL (R459) -/

def tableFlt : LFault := flt .instruction 29

/-- The frames of `n` pages from `va`, which must be mapped, writable and tagged. -/
def tableFrames (w : Warp) : Nat → Nat → State → Res (List Nat)
  | 0, _, s => .ok s []
  | n + 1, va, s => (checkVa s w.who .headerStore va 8).bind fun s t =>
    (tableFrames w n (va + 65536) s).map fun l => t.da :: l

/-- Base and size of GTBL. -/
def tableArgs (r : Ready) (k : Nat) : Except LFault (Nat × Nat) :=
  let a := r.val 0 k
  let b := r.val 1 k
  if !(a.tag == .int || a.tag == .ref) || b.tag != .int then .error typeFlt
  else .ok (a.n, b.n)

/-- A power of two from 4 KiB to 64 MiB. -/
def ringSizeOk (n : Nat) : Bool := (List.range 15).any fun k => n == 2 ^ (12 + k)

/-- Put a ring in place of the die's ring of a context: the records it holds move into it in order. -/
def installRing (s : State) (u die : Nat) (g : SpillRing) : State :=
  let s := (g.recs.zipIdx).foldl (fun s p => sysPuts s u (g.at p.2) (spillWords p.1)) s
  updDie s die fun d => { d with rings := (d.rings.filter fun r => r.asid != g.asid) ++ [g] }

/-- GTBL.spill. -/
def execGtblSpill (g : Guard) (d : Dst) (a b : Src) (s : State) : Host.Outcome State Fault Refusal :=
  stateIns s { insOf g d [a, b] with priv := true } {} fun r s k =>
    match tableArgs r k with
    | .error f => .bad s f
    | .ok (base, n) =>
      let die := r.w.pos.die
      let old := ringOf s die r.w.asid
      let recs := match old with
        | some o => o.recs
        | none => []
      if base % 64 != 0 || 2 ^ 56 ≤ base || !ringSizeOk n || n / 64 < recs.length then .bad s tableFlt
      else
        let first := base / 65536 * 65536
        (tableFrames r.w ((base + n - first + 65535) / 65536) first s).bind fun s fs =>
          .ok (installRing s r.w.uid die ⟨r.w.asid, base, n, fs, 0, recs⟩)
            (.val (vNat (match old with
              | some o => o.size
              | none => 0)))

/-- GTBL.cont. -/
def execGtblCont (g : Guard) (d : Dst) (a b : Src) (s : State) : Host.Outcome State Fault Refusal :=
  stateIns s { insOf g d [a, b] with priv := true } {} fun r s k =>
    match tableArgs r k with
    | .error f => .bad s f
    | .ok (base, n) =>
      let c := getCtx s r.w.asid
      if base % 65536 != 0 || 2 ^ 56 ≤ base || n % 65536 != 0 || n == 0 || 2 ^ 30 < n || 16 ≤ c.cont.length then
        .bad s tableFlt
      else (tableFrames r.w (n / 65536) base s).bind fun s fs =>
        .ok (updCtx s r.w.asid fun c => { c with cont := c.cont ++ [⟨base, n, fs⟩] })
          (.val (vNat (((c.cont.map fun k => k.size).sum) + n)))

end Sys2Proof.Machine
end

