-- ==== Sys2Proof/Machine/Debug.lean ====
section
/-! DEFINITION. RDCTL, instruction comparators, and the delivery of asynchronous causes
(spec/21 R473, R474, R477, R478; spec/20 R449, R461, R462). -/

namespace Sys2Proof.Machine

/-! ### RDCTL (R477, R478) -/

/-- A base of the race detector: `k` low bits and bits 63:56 zero. -/
def rdBaseOk (k x : Nat) : Bool := x % 2 ^ k == 0 && decide (x < 2 ^ 56)

/-- The control word as it reads. -/
def rdCtl (c : Ctx) : Nat :=
  boolNat c.dbg * 2 ^ 17 + boolNat c.snp * 2 ^ 16 + c.bpev.toNat * 256 + boolNat c.smg * 2 + boolNat c.en

/-- RDCTL: `old` reads the register, `put` writes it or refuses. A write is a full boundary at device
scope. -/
def rdctl (w : Option Src) (d : Dst) (old : Ctx → Nat) (put : Ctx → Nat → Option Ctx) (s : State) :
    Host.Outcome State Fault Refusal :=
  onceIns s { insOf Guard.always d w.toList with shape := some false, priv := true } fun s r =>
    let s' := noteRelease s r.w.uid 6
    let c := getCtx s' r.w.asid
    let v := r.val 0 0
    match w with
    | none => .ok s' [vNat (old c)]
    | some _ =>
      if !intRaw v then .bad s typeFlt
      else match put c v.n with
        | none => .bad s (flt .instruction 0)
        | some c' => .ok (putCtx s' c') [vNat (old c)]

/-- Kinds 0 to 3 are not written while EN = 1. -/
def whenOff (ok : Bool) (c c' : Ctx) : Option Ctx := if c.en || !ok then none else some c'

def execRdctlShb (w : Option Src) (d : Dst) (s : State) : Host.Outcome State Fault Refusal :=
  rdctl w d (fun c => c.shb.toNat) (fun c x => whenOff (rdBaseOk 3 x) c { c with shb := wordN x }) s

def execRdctlItab (w : Option Src) (d : Dst) (s : State) : Host.Outcome State Fault Refusal :=
  rdctl w d (fun c => c.itab.toNat) (fun c x => whenOff (rdBaseOk 3 x) c { c with itab := wordN x }) s

def execRdctlRbase (w : Option Src) (d : Dst) (s : State) : Host.Outcome State Fault Refusal :=
  rdctl w d (fun c => c.rbase.toNat) (fun c x => whenOff (rdBaseOk 5 x) c { c with rbase := wordN x }) s

/-- A ring size: a power of two from 2^4 to 2^24. -/
def rdSizeOk (x : Nat) : Bool := (List.range 21).any fun k => x == 2 ^ (4 + k)

def execRdctlRsize (w : Option Src) (d : Dst) (s : State) : Host.Outcome State Fault Refusal :=
  rdctl w d (fun c => c.rsize)
    (fun c x => whenOff (rdSizeOk x) c { c with rsize := x, rhead := 0, rtail := 0 }) s

def execRdctlCtl (w : Option Src) (d : Dst) (s : State) : Host.Outcome State Fault Refusal :=
  rdctl w d rdCtl
    (fun c x => if zeroOutside 0x3FF03 x then
        some { c with snp := bitAt x 16, bpev := BitVec.ofNat 8 (x / 256), smg := bitAt x 1, en := bitAt x 0 }
      else none) s

def execRdctlRhead (w : Option Src) (d : Dst) (s : State) : Host.Outcome State Fault Refusal :=
  rdctl w d (fun c => c.rhead) (fun _ _ => none) s

def execRdctlRtail (w : Option Src) (d : Dst) (s : State) : Host.Outcome State Fault Refusal :=
  rdctl w d (fun c => c.rtail)
    (fun c x => if c.rtail ≤ x && x ≤ c.rhead then some { c with rtail := x } else none) s

def execRdctlRdrop (w : Option Src) (d : Dst) (s : State) : Host.Outcome State Fault Refusal :=
  rdctl w d (fun c => c.rdrop) (fun c _ => some { c with rdrop := 0 }) s

/-! ### What is due at a boundary (R449) -/

/-- The warp stands at an instruction boundary where asynchronous causes may be delivered: at CPL.SUP = 0, with its
sparse operations complete (R460), no replay ordered, and not in a GBAR, whose wait holds them (R223). Its
outstanding loads complete at the delivery. -/
def atBoundary (w : Warp) : Bool :=
  w.isResident && !w.sup && w.replay.isNone && w.barWait.isNone && w.barRes.isNone && w.sparse.isEmpty

/-- The first cause due, in the order of R449. Matrix traps, copy faults and alarms wait while CPL.HND = 1
(R399, R403, R428). -/
def nextDue (s : State) (w : Warp) : Option Instr :=
  if !(atBoundary w) then none
  else if w.nanDue.isSome then some (.nanTrapDelivery w.uid)
  else if !w.hnd && !w.mtraps.isEmpty then some (.matrixNanTrapDelivery w.uid)
  else if !w.hnd && !w.copyDue.isEmpty then some (.copyFaultDelivery w.uid)
  else match w.mcDue with
    | (_, a) :: _ => some (.lostWriteMachineCheck w.uid a)
    | [] =>
      if w.wdDue then some (.watchdogExpiry w.uid)
      else if !w.hnd && (dueAlarm s w).isSome then some (.alarmDelivery w.uid)
      else none

/-- Carry out a delivery when it is the one due. -/
def whenDue (s : State) (u : Nat) (i : Instr) (f : Warp → State) : State :=
  match findWarp s u with
  | some w => if nextDue s w == some i then f w else s
  | none => s

/-- An asynchronous cause taken before the instruction at the warp's PC, after which that instruction
follows (R449). -/
def asyncReport (w : Warp) (f : LFault) (m : Mask) : Report :=
  { wholeReport w f m 0 with async := 3, kind := .after }

/-! ### The deliveries -/

/-- NAN_TRAP_DELIVERY (R57): the report names the producing instruction, which raised it (R444). -/
def execNanTrapDelivery (u : Nat) (s : State) : Host.Outcome State Fault Refusal :=
  .next (whenDue s u (.nanTrapDelivery u) fun w =>
    match w.nanDue with
    | some (m, pc) =>
      takeFault (updWarp s u fun w => { w with nanDue := none }) u
        { asyncReport w (flt .arithmetic 0) m with repPc := pc, async := 0 }
    | none => s)

/-- MATRIX_NAN_TRAP_DELIVERY (R425, R428). -/
def execMatrixNanTrapDelivery (u : Nat) (s : State) : Host.Outcome State Fault Refusal :=
  .next (whenDue s u (.matrixNanTrapDelivery u) fun w =>
    match w.mtraps with
    | t :: _ => takeFault (updWarp s u fun w => { w with mtraps := w.mtraps.drop 1 }) u (matrixReport w t)
    | [] => s)

/-- COPY_FAULT_DELIVERY (R399). -/
def execCopyFaultDelivery (u : Nat) (s : State) : Host.Outcome State Fault Refusal :=
  .next (whenDue s u (.copyFaultDelivery u) fun _ => deliverCopy s u)

/-- LOST_WRITE_MACHINE_CHECK (R461): FVA is the line's address. -/
def execLostWriteMachineCheck (u addr : Nat) (s : State) : Host.Outcome State Fault Refusal :=
  .next (whenDue s u (.lostWriteMachineCheck u addr) fun w =>
    match w.mcDue with
    | (det, a) :: _ =>
      takeFault (updWarp s u fun w => { w with mcDue := w.mcDue.drop 1 }) u
        (asyncReport w (fltAt .machineCheck det a) w.em)
    | [] => s)

/-- ALARM_DELIVERY (R403). -/
def execAlarmDelivery (u : Nat) (s : State) : Host.Outcome State Fault Refusal :=
  .next (whenDue s u (.alarmDelivery u) fun _ => deliverAlarm s u)

/-! ### The watchdog (R462) -/

/-- What a warp waits in when the watchdog's fault is precise: GWAIT, MWAIT, GBAR, a channel, ENQ, DEQ, a
growing REGS, or a full engine queue. -/
def heldWaiting : Held → Bool
  | .gauge | .batch | .barrier | .channel | .queueFull | .rows | .engineQueue | .unitQueue | .copySlots => true
  | .lines | .tile | .token | .snoop | .link | .context | .operands => false

/-- The effective lane set and the size of the instruction at the warp's PC, and whether it combines lanes (R530). -/
def headLanes (s : State) (w : Warp) : Mask × Nat × Bool :=
  match fetchPair s w w.pc.toNat with
  | .ok _ (x, lit) =>
    let r := Raw.ofWord x lit
    (effLanes w ⟨r.grd, r.gng == 1#1⟩, wordSize x, match decodeWord x lit with
      | .ok (.redw ..) | .ok (.scanw ..) | .ok (.topk ..) | .ok (.merge ..) | .ok (.sortw ..) => true
      | _ => false)
  | _ => (w.em, 8, false)

/-- The report of a watchdog fault outside any instruction. -/
def wdReport (w : Warp) : Report := asyncReport w (flt .watchdog 0) w.em

/-- WATCHDOG_EXPIRY. The fault of a warp that issues is due until a boundary takes it; that of a warp that
waits is taken at its instruction; a warp that is not resident is reported to the host. -/
def execWatchdogExpiry (u : Nat) (s : State) : Host.Outcome State Fault Refusal :=
  .next (match findWarp s u with
    | none => s
    | some w =>
      if (getCtx s w.asid).wdog == 0 then s
      else match w.status with
        | .hostWait => s
        | .resident =>
          if w.held.any heldWaiting && w.sparse.isEmpty then
            let (m, n, whole) := headLanes s w
            takeFault s u { wholeReport w (flt .watchdog 1) m n with whole := whole }
          else if nextDue s { w with wdDue := true } == some (.watchdogExpiry u) then
            takeFault (updWarp s u fun w => { w with wdDue := false }) u (wdReport w)
          else updWarp s u fun w => { w with wdDue := true }
        | _ =>
          (escLine (blotFault s w.asid w.wnum 17) w.subj false 3 (fcauseOf (wdReport w)) w.em 0#64 w.pc vZero).1)

/-! ### Comparators (R474) -/

/-- The comparator that fires before the word at the warp's PC, once its fetch has succeeded and nothing is due at the
boundary; a warp that waits in a GBAR has issued its word (R223). A word that is replayed is about to issue too; one that SRET
skips is not. -/
def comparatorDue (s : State) (w : Warp) : Option Nat :=
  if w.isResident && w.barWait.isNone && w.barRes.isNone && !(skipped w) && (nextDue s w).isNone then
    match fetchPair s w w.pc.toNat with
    | .ok s _ => comparator s w (isFirstRep s w)
    | _ => none
  else none

/-- The warp at the word that it is to issue: a spilled block reloaded (R198), the next path taken up, the arrival rule
applied (R194); false when the block cannot be read (R461). -/
def atWord (s : State) (w : Warp) : Warp × Bool :=
  let (w1, ok) := refillWarp s w
  let w1 := if w1.em == 0#32 then (resumeTop s w1).getD w1 else w1
  let w2 := if ok && w1.repc == 0 && w1.replay.isNone then arrive s w1 else w1
  (w2, (refillWarp s w2).2)

/-- The spilled blocks of a warp that may have to reload one, at hand (R511). -/
def spillReady (s : State) (w : Warp) : State :=
  if 1 < w.stack.length then s
  else match saveBase s w with
    | some a => (List.range w.spill.length).foldl (fun s k => sysReady s (a + 0x4000 + 256 * k) 256) s
    | none => s

/-- The event of a comparator that is due (R473). -/
def fireComparator (s : State) (w : Warp) : State :=
  match comparatorDue s w with
  | some k => debugEvent s w.uid 25 k (wholeReport w (flt .instruction 25) w.em 0) (.breakpoint false true)
  | none => s

/-- COMPARATOR_BREAKPOINT. -/
def execComparatorBreakpoint (u : Nat) (s : State) : Host.Outcome State Fault Refusal :=
  .next (match findWarp s u with
    | some w => fireComparator s w
    | none => s)

end Sys2Proof.Machine
end

