-- ==== Sys2Proof/Machine/Sched.lean ====
section
/-! DEFINITION. The task queue units: submission lines, rectangles, the choice and dispatch of records,
retirement, row grants, eviction, aging (spec/09 R233-R263, spec/06 R165, spec/14 R346). -/

namespace Sys2Proof.Machine

/-! ### Bins and submissions -/

/-- SPAWN_BIN_TIMEOUT (R245). -/
def execSpawnBinTimeout (die bin : Nat) (s : State) : Host.Outcome State Fault Refusal :=
  .next (match (getDie s die).bins.find? fun b => b.id == bin with
    | some b => drainBins (closeBin s die b) die
    | none => s)

/-- The hub's and the task queue unit's accesses in an address space. -/
def unitAt (asid die : Nat) : Who := { dieWho die false with asid := asid }

/-- Write a completion line (R346): word 7 last. A line that cannot be written is dropped. -/
def completionLine (s : State) (who : Who) (a : Nat) (r : Except Nat Nat) : Res Unit :=
  if a == 0 then .ok s ()
  else
    let (x, y) := match r with
      | .ok n => (vNat 0, vNat n)
      | .error k => (vNat k, vInt (-1))
    match (storeVal s who a x).bind fun s _ =>
        (storeVal s who (a + 8) y).bind fun s _ => storeVal s who (a + 56) (vRaw 1) with
    | .bad _ _ => .ok s ()
    | r => r

/-- A fault of a record's reading is check 10 (R235). -/
def orCode10 (s : State) (r : Res (Except Nat Nat)) : Res (Except Nat Nat) :=
  match r with
  | .bad _ _ => .ok s (.error 10)
  | r => r

/-- Carry out a submission line (R346). A line that a system core has enqueued may name the levels 44 to 47 (R235). The
record, its images and the completion line are reached in the address space of the queue's entry, with supervisor rights:
DESIGN CHOICE (log 43). -/
def submitLine (s : State) (die : Nat) (who : Who) (high : Bool) (l : List Val) : Res Unit :=
  let word := fun (k : Nat) => (l.getD k vZero).n
  if bitsAt (word 7) 8 8 != 1 then .ok (updDie s die fun d => { d with discarded := d.discarded + 1 }) ()
  else
    (if word 0 % 64 != 0 then .ok s (.error 10)
     else orCode10 s (submit s who die ⟨none, none, high⟩ (word 0))).bind fun s r => completionLine s who (word 1) r

/-- The next line of a die's submission queue; a line or a link that must be waited for leaves it there. -/
def nextSubmission (s : State) (die : Nat) (q : QEnt) : Res Unit :=
  let who := unitAt q.asid die
  (readDesc s who q.desc).bind fun s d =>
    (deqStep s none who q.desc).bind fun s l => match l with
      | none => .ok s ()
      | some l =>
        let high := s.hub.sysLines.contains (die, d.head)
        let s := { s with hub := { s.hub with sysLines := s.hub.sysLines.filter (· != (die, d.head)) } }
        submitLine s die who high l

/-- SUBMISSION_LINE (R346): the next line of a die's submission queue. -/
def execSubmissionLine (die : Nat) (s : State) : Host.Outcome State Fault Refusal :=
  .next (match queueEntry s die with
    | none => s
    | some q =>
      if 8 ≤ die then s
      else match nextSubmission s die q with
        | .ok s _ => s
        | .bad _ _ => s
        | .hold h l => engineHold s q.asid h l)

/-! ### Rectangles and group entries (R236, R240) -/

/-- A core lies in the rectangle that a launch holds. -/
def Launch.holds (l : Launch) (p : Pos) : Bool :=
  match l.rect with
  | some r => match r.org with
    | some (d, c, y) => decide (d ≤ p.die) && decide (p.die < d + r.dies) && decide (c ≤ p.col)
        && decide (p.col < c + r.cols) && decide (y ≤ p.row) && decide (p.row < y + r.rows)
    | none => false
  | none => false

/-- Two ranges of numbers meet. -/
def rangesMeet (a n b m : Nat) : Bool := decide (a < b + m) && decide (b < a + n)

/-- A placement of a rectangle meets no core that another context's rectangle holds. -/
def placementFree (s : State) (asid : Nat) (r : Rect) (o : Nat × Nat × Nat) : Bool :=
  s.launches.all fun l => l.asid == asid || match l.rect with
    | some q => match q.org with
      | some (d, c, y) => !(rangesMeet o.1 r.dies d q.dies && rangesMeet o.2.1 r.cols c q.cols
          && rangesMeet o.2.2 r.rows y q.rows)
      | none => true
    | none => true

/-- The placements inside the mesh. -/
def placements (r : Rect) : List (Nat × Nat × Nat) :=
  (List.range (9 - r.dies)).flatMap fun d =>
    (List.range (17 - r.cols)).flatMap fun c => (List.range (11 - r.rows)).map fun y => (d, c, y)

def usedEntries (l : Launch) : Nat :=
  match l.groups with
  | some g => (g.filter fun e => e.count != 0).length
  | none => 0

/-- The die whose group unit holds a launch's groups. -/
def Launch.groupDie (l : Launch) : Nat :=
  match l.rect with
  | some r => match r.org with
    | some o => o.1
    | none => l.die
  | none => l.die

/-- Group-unit entries of a die that are free. -/
def freeEntries (s : State) (die : Nat) : Nat :=
  4096 - ((s.launches.filter fun l => l.granted && l.groupDie == die).map usedEntries).sum

/-- Grant a waiting launch what it needs, when all of it is free. Which placement it gets, of several, is
left open (log 6). -/
def grantLaunch (s : State) (l : Launch) : State :=
  if l.granted then s
  else match l.rect with
    | none =>
      if usedEntries l ≤ freeEntries s l.die then updLaunch s l.asid l.num fun l => { l with granted := true }
      else s
    | some r =>
      let ok := (placements r).filter fun o => placementFree s l.asid r o && decide (usedEntries l ≤ freeEntries s o.1)
      let give := fun (s : State) (o : Nat × Nat × Nat) => updLaunch s l.asid l.num fun l =>
        { l with granted := true, rect := some { r with org := some o } }
      match ok with
      | [] => s
      | [o] => give s o
      | o :: _ => give { s with freeCtr := s.freeCtr + 1 } (ok.getD (Config.choice s.freeCtr ok.length % ok.length) o)

/-- Grant in the order in which the launches wait: the highest level first, then the oldest. -/
def grantLaunches (s : State) : State :=
  if s.launches.all fun l => l.granted then s
  else ((List.range 48).reverse.flatMap fun k => s.launches.filter fun l => !l.granted && l.lvl == k).foldl
    grantLaunch s

/-! ### Records that may be dispatched (R252, R259, R261, R466) -/

/-- A core may run a context's records (R261). -/
def coreRuns (s : State) (p : Pos) (asid : Nat) : Bool :=
  s.launches.any (fun l => l.asid == asid && l.holds p)
    || (s.launches.any (fun l => l.asid == asid && l.rect.isNone && l.die == p.die)
      && s.launches.all fun l => l.asid == asid || !(l.holds p))

/-- One byte of a completion bitmap; none where it cannot be read, and its bits then count as not set: DESIGN CHOICE
(log 43). A line that the host holds is taken back (log 33). -/
def mapByte (s : State) (asid die a : Nat) : Option Nat :=
  let who := unitAt asid die
  match atHand s fun s => (checkVa s who .load a 1).bind fun s t => physLoad s who 0 t.da 1 with
  | .ok _ x => some x
  | _ => none

/-- Every bit that consumer `w` waits for is set (R252). -/
def depSet (s : State) (l : Launch) (w : Nat) : Bool :=
  match l.dep with
  | none => true
  | some d => (List.range d.c).all fun k =>
    let j := d.a * w + d.b + k
    match mapByte s l.asid l.die (d.map + j / 8) with
    | some x => bitAt x (j % 8)
    | none => false

/-- The next warp of a launch: the lowest that has not been dispatched and whose bits are set. -/
def nextWarpGo (s : State) (l : Launch) : Nat → Nat → Option Nat
  | 0, _ => none
  | f + 1, w =>
    if !(l.ahead.contains w) && depSet s l w then some w
    else if l.dep.isNone then none
    else nextWarpGo s l f (w + 1)

def nextWarp (s : State) (l : Launch) : Option Nat := nextWarpGo s l (l.wcnt - l.sent) l.sent

/-- The context has a free save area (R466). -/
def saveFree (s : State) (asid : Nat) : Option Nat :=
  let c := getCtx s asid
  (List.range (min c.sacnt (c.saveUsed.length + 1))).find? fun k => !(c.saveUsed.contains k)

/-- Rows of the warp that a record would send, when nothing but rows, a slot and a core is lacking. -/
def recReady (s : State) (r : QRec) : Option Nat :=
  match r.kind with
  | .launch a n => match findLaunch s a n with
    | some l => if l.granted && (nextWarp s l).isSome && (saveFree s a).isSome then some l.rows else none
    | none => none
  | .packed u | .continuation u =>
    (findWarp s u).bind fun w => if (saveFree s w.asid).isSome then some w.allot else none
  | .evicted u | .hostWait u => (findWarp s u).map fun w => w.allot

/-- The core is one on which the record may run (R236, R261). -/
def recOnCore (s : State) (die : Nat) (r : QRec) (p : Pos) : Bool :=
  match r.kind with
  | .launch a n => match findLaunch s a n with
    | some l => if l.rect.isSome then l.holds p
      else p.die == die && s.launches.all fun l => l.asid == a || !(l.holds p)
    | none => false
  | _ => p.die == die && coreRuns s p r.asid

/-- A slot of a core is free for the live context. -/
def slotFree (s : State) (p : Pos) (slot : Nat) : Bool :=
  slot < 64 && !(s.warps.any fun w => w.isResident && w.pos == p && w.slot == slot)

/-- A quadrant would still hold `rows` after every waiting request has been met (R253). -/
def rowsFit (s : State) (p : Pos) (quad rows : Nat) : Bool :=
  decide (quadRows s p quad + ((quadReqs s p quad).map growth).sum + rows ≤ 512)

/-- Some quadrant of the core can take a warp of `rows` rows. -/
def coreTakes (s : State) (p : Pos) (rows : Nat) : Bool :=
  (List.range 4).any fun q =>
    rowsFit s p q rows && (List.range 16).any fun k => slotFree s p (16 * q + k)

/-- The first record of a level that is ready for the core, of the context that is live there (R257). -/
def firstAt (s : State) (die : Nat) (p : Pos) (asid lvl : Nat) : Option (QRec × Nat) :=
  (getDie s die).queue.findSome? fun r =>
    if r.lvl == lvl && r.asid == asid && recOnCore s die r p then (recReady s r).map fun n => (r, n) else none

/-! ### Deficit round robin (R257) -/

/-- The ASIDs of a list, once each, in ascending order. -/
def ascending (l : List Nat) : List Nat := (l.foldl (fun acc a => if acc.contains a then acc else insertNat a acc) [])

def creditOf (d : Die) (lvl asid : Nat) : Int :=
  ((d.credit.find? fun c => c.1 == lvl && c.2.1 == asid).map fun c => c.2.2).getD 0

/-- The ASID, of those with records at a level, whose turn it is: the one that has it while its credit is
positive, or the next in ascending order. -/
def drrPick (d : Die) (lvl : Nat) (asids : List Nat) : Option Nat :=
  let l := ascending asids
  match d.turn.find? fun t => t.1 == lvl with
  | none => l.head?
  | some (_, t) =>
    if 0 < creditOf d lvl t && l.contains t then some t
    else match l.find? fun a => t < a with
      | some a => some a
      | none => l.head?

/-- The ASIDs with a record at a level that a core on which they are live can take. -/
def dispatchable (s : State) (die lvl : Nat) : List Nat :=
  s.cores.filterMap fun c => c.live.bind fun a =>
    (firstAt s die c.pos a lvl).bind fun x => if coreTakes s c.pos x.2 then some a else none

/-- The record that a die's unit offers a core (R259): the first, from the highest level down, that the core can take, when
it is its context's turn at that level (R257). -/
def offered (s : State) (die : Nat) (p : Pos) : Option (QRec × Nat) :=
  match (getCore s p).live with
  | none => none
  | some a =>
    ((List.range 48).reverse.findSome? fun l => (firstAt s die p a l).bind fun x =>
      if coreTakes s p x.2 then some (l, x) else none).bind fun x =>
        if drrPick (getDie s die) x.1 (dispatchable s die x.1) == some a then some x.2 else none

/-- An ASID without records at a level loses its credit there (R257). -/
def keepCredit (d : Die) : Die :=
  { d with credit := d.credit.filter fun x => d.queue.any fun r => r.lvl == x.1 && r.asid == x.2.1 }

/-- Charge one dispatch to an ASID at a level; an ASID without records there loses its credit. -/
def drrCharge (s : State) (die lvl asid : Nat) : State :=
  let wgt : Int := ((getCtx s asid).wgt : Int)
  updDie s die fun d =>
    let mine := d.turn.any fun t => t == (lvl, asid)
    let c := creditOf d lvl asid
    let c := if mine && decide (0 < c) then c - 1 else c + wgt - 1
    let others := d.credit.filter fun x => !(x.1 == lvl && x.2.1 == asid)
    keepCredit { d with credit := (lvl, asid, c) :: others, turn := (lvl, asid) :: d.turn.filter fun t => t.1 != lvl }

/-! ### Dispatch -/

def dropRec (s : State) (die id : Nat) : State :=
  updDie s die fun d => keepCredit { d with queue := d.queue.filter fun r => r.id != id }

/-- The nursery chunk of a launched or packed warp (R238). -/
def nurseryChunk (s : State) (asid : Nat) : State × Nat × Nat :=
  let c := getCtx s asid
  let n := 2 ^ c.nchk
  if c.nchk == 0 || c.nend < c.nnext + n then (s, 0, 0)
  else (updCtx s asid fun c => { c with nnext := c.nnext + n }, c.nnext, c.nnext + n)

/-- Give a warp that is coming in a save area, when it has none. -/
def takeSave (s : State) (u : Nat) : State :=
  match findWarp s u with
  | none => s
  | some w => if w.save.isSome then s
    else match saveFree s w.asid with
      | none => s
      | some k => updWarp (updCtx s w.asid fun c => { c with saveUsed := k :: c.saveUsed }) u fun w =>
        { w with save := some k }

/-- The warp becomes resident (R259, R263); a row request that it brings waits behind the others there. -/
def settle (s : State) (u : Nat) (p : Pos) (slot : Nat) : State :=
  let s := updCore (takeSave s u) p fun c => { c with
    last := c.last.map fun q => if q.1 == some u then (none, 0) else q }
  let s := updWarp { s with nextRec := s.nextRec + 1 } u fun w =>
    { w with status := .resident, pos := p, slot := slot, die := p.die, since := s.nextRec, held := none }
  match findWarp s u with
  | some w => if w.regsReq.isSome then updCore s p fun c => { c with requests := c.requests ++ [u] } else s
  | none => s

/-- A nursery chunk for a warp at its first instruction. -/
def giveChunk (s : State) (u : Nat) : State :=
  match findWarp s u with
  | none => s
  | some w =>
    let (s, a, b) := nurseryChunk s w.asid
    updWarp s u fun w => { w with ncur := a, nlim := b }

/-- Warp `n` of a launch as it starts (R32, R237). -/
def launchedWarp (u n : Nat) (p : Pos) (l : Launch) : Warp :=
  let w := newWarp u l.asid n l.num p.die (BitVec.ofNat 56 l.entry) allLanes l.rows
  { w with
    gsel := l.gselOf n, lvl := l.lvl, ceil := l.ceil
    sreg := l.args ++ w.sreg.drop l.args.length }

/-- Count warp `n` as dispatched. -/
def countSent (l : Launch) (n : Nat) : Launch :=
  let ahead := n :: l.ahead
  let k := (List.range (ahead.length + 1)).foldl (fun k _ => if ahead.contains k then k + 1 else k) l.sent
  { l with sent := k, ahead := ahead.filter fun x => k ≤ x, alive := l.alive + 1 }

/-- Dispatch the next warp of a launch; its record goes with the last. -/
def sendLaunch (s : State) (die : Nat) (r : QRec) (l : Launch) (p : Pos) (slot : Nat) : State :=
  match nextWarp s l with
  | none => s
  | some n =>
    let u := s.nextUid
    let s := { s with nextUid := u + 1, warps := s.warps ++ [launchedWarp u n p l] }
    let s := updLaunch s l.asid l.num fun l => countSent l n
    let s := if l.wcnt ≤ (countSent l n).sent then dropRec s die r.id else s
    settle (giveChunk s u) u p slot

/-- The lines of a continuation record, at hand to be read. -/
def contReady (s : State) (w : Warp) : State :=
  let c := getCtx s w.asid
  match c.contUsed.find? fun x => x.1 == w.contAt with
  | some x => (List.range (x.2 / 64)).foldl (fun s k => sysReady s (contPhys c (w.contAt + 64 * k)) 64) s
  | none => s

/-- The words of a continuation record can be read (R461). -/
def contReadable (s : State) (w : Warp) : Bool :=
  let c := getCtx s w.asid
  match c.contUsed.find? fun x => x.1 == w.contAt with
  | some x => (List.range (x.2 / 8)).all fun k => (sysGet s (contPhys c (w.contAt + 8 * k))).isSome
  | none => true

/-- A record that cannot be restored stays queued and is reported (R451, R461, R470). -/
def restoreFails (s : State) (w : Warp) : State :=
  (escalateGone s w.subj { refillReport 0 with lanes := w.em, repPc := w.pc, resPc := w.pc }).1

/-- A parked warp resumes (R251). -/
def sendCont (s : State) (die : Nat) (r : QRec) (w : Warp) (p : Pos) (slot : Nat) : State :=
  let s := contReady s w
  if contReadable s w then
    let s := updCtx s w.asid fun c => { c with contUsed := c.contUsed.filter fun x => x.1 != w.contAt }
    settle (dropRec s die r.id) w.uid p slot
  else restoreFails s w

/-- An evicted warp returns from its save area. -/
def sendEvicted (s : State) (die : Nat) (r : QRec) (w : Warp) (p : Pos) (slot : Nat) : State :=
  let s := saveReady s w
  match restoreWarp s w with
  | some x => settle (putWarp (dropRec s die r.id) x) w.uid p slot
  | none => restoreFails s w

/-! ### Host-wait records (R453, R473) -/

/-- The class with a code. -/
def classOfCode (n : Nat) : FClass :=
  ([FClass.machineCheck, .undefinedInstr, .instruction, .operand, .place, .translation, .protection,
    .classFault, .tagFault, .typeFault, .ownership, .arithmetic, .indexExhaustion, .spawnOverflow,
    .registerRequest, .systemCall, .watchdog].getD (n - 1) .machineCheck)

/-- The report that a supervisor frame holds. -/
def frameReport (w : Warp) (f : SFrame) : Report :=
  let x := f.fcause.toNat
  { cls := classOfCode (bitsAt x 57 5), det := bitsAt x 49 8, info := bitsAt x 32 16, flm := f.flm
    rlm := f.fcause.setWidth 32, fva := w.fva, async := bitsAt x 62 2, kind := f.kind, repPc := f.repPc
    resPc := f.resPc, ticket := f.ticket, lanes := f.lanes, whole := f.whole, popped := f.popped, part := f.part }

/-- Action 2: every live lane exits, in a packed warp with its counter's decrement (R164, R453). A
decrement that faults sends the warp to the host again. -/
def exitAll (s : State) (u : Nat) : Res Unit :=
  match findWarp s u with
  | none => .ok s ()
  | some w =>
    let own := match w.sframe with
      | some f => f.em
      | none => 0#32
    let m := (liveLanes w ||| own) &&& ~~~w.exited
    let w0 := { w with sup := false, hnd := false }
    match exitCount (putWarp s w0) w0 m with
    | .ok s _ => .ok (updWarp s u fun w => { w with
        em := 0#32, exited := w.exited ||| m, stack := [], spill := [], hframes := [], sframe := none, event := none
        sup := false, hnd := false, replay := none, repc := 0, barWait := none, barRes := none }) ()
    | .bad s f => .ok (escalate (putWarp s w) u 0 (fcauseOf (wholeReport w f m 8)) m (fvaAll m f.fva) w.pc 0#64) ()
    | .hold h l => .hold h l

/-- Action 0 or 1 on a breakpoint event (R473): a comparator's word issues with SUPP set, BKPT has already been passed,
a race's access is replayed unchecked or, with action 1, has no effect for the trapped lanes. -/
def eventAct (w : Warp) (f : SFrame) : Warp :=
  let w := { w with event := none }
  match w.hwKind with
  | .breakpoint false true => { w with supp := true }
  | .breakpoint true _ =>
    let keep := if w.hwAct == 0 then allLanes else ~~~f.flm
    { w with pc := f.repPc, replay := some ⟨replayLanes f keep, f.popped, f.part, true, f.resPc⟩ }
  | _ => w

/-- What the host ordered for a released record, carried out as the warp comes back. -/
def hostAct (s : State) (u : Nat) : Res Unit :=
  match findWarp s u with
  | none => .ok s ()
  | some w =>
    if w.hwAct == 2 then exitAll s u
    else match w.event with
      | some f => .ok (updWarp s u fun w => eventAct w f) ()
      | none => match w.sframe with
        | none => .ok s ()
        | some f =>
          if w.hwAct == 3 then .ok (enterSup (updWarp s u fun w => supRestore w f) u (frameReport w f)) ()
          else .ok (sretGo s u (if w.hwAct == 0 then allLanes else 0#32)) ()

/-- A released host-wait record. -/
def sendHostWait (s : State) (die : Nat) (r : QRec) (w : Warp) (p : Pos) (slot : Nat) : State :=
  let s := saveReady s w
  match restoreWarp s w with
  | some x => (match hostAct (settle (putWarp (dropRec s die r.id) x) w.uid p slot) w.uid with
    | .ok s _ => s
    | .bad s _ => s
    | .hold h l => engineHold s w.asid h l)
  | none => restoreFails s w

/-- A warp that has been dispatched costs its ASID 1; a record that could not be restored, or must wait, costs nothing
(R257). -/
def charged (t : State) (die : Nat) (r : QRec) (p : Pos) (slot : Nat) : State :=
  if (slotFree t p slot && (getDie t die).queue.any fun x => x.id == r.id) then t else drrCharge t die r.lvl r.asid

/-- WARP_DISPATCH: the core takes the record that it is offered into a free slot (R259). -/
def execWarpDispatch (die rec : Nat) (p : Pos) (slot : Nat) (s : State) : Host.Outcome State Fault Refusal :=
  let s := grantLaunches s
  .next (match offered s die p with
    | none => s
    | some (r, rows) =>
      if r.id != rec || !(slotFree s p slot) || !(rowsFit s p (slot / 16) rows) then s
      else
        let t := match r.kind with
          | .launch a n => (match findLaunch s a n with
            | some l => sendLaunch s die r l p slot
            | none => s)
          | .packed u => settle (giveChunk (dropRec s die r.id) u) u p slot
          | .continuation u => (match findWarp s u with
            | some w => sendCont s die r w p slot
            | none => s)
          | .evicted u => (match findWarp s u with
            | some w => sendEvicted s die r w p slot
            | none => s)
          | .hostWait u => (match findWarp s u with
            | some w => sendHostWait s die r w p slot
            | none => s)
        charged t die r p slot)

/-! ### Retirement (R165) -/

/-- No lane of the warp remains. -/
def retiring (w : Warp) : Bool := w.isResident && w.em == 0#32 && w.stack.isEmpty && w.spill.isEmpty

/-- Matrix traps due to a warp that cannot take them go to the host, and the halted work goes on. -/
def retireTraps (s : State) (w : Warp) : State :=
  let s := w.mtraps.foldl (fun s t => (escalateGone s w.subj (matrixReport w t)).1) s
  resumeMatrix (updWarp s w.uid fun w => { w with mtraps := [] }) w.uid

/-- Accumulator tokens return to the unit. -/
def returnTokens (s : State) (u : Nat) : State :=
  { s with cores := s.cores.map fun c => { c with sts := c.sts.map fun x => { x with
      token := x.token.map fun t => if t == some u then none else t } } }

/-- OR a bit into a byte of memory as one step. -/
def orByte (s : State) (who : Who) (a bit : Nat) : Res Unit :=
  (checkVa s who .byteWrite a 1).bind fun s t =>
    (Res.at (physLoad s who 0 t.da 1) a).bind fun s x =>
      (writePart s who a t 1 (x ||| 2 ^ bit)).bind fun s _ => .ok (clearShadow s who t.pte a 1) ()

/-- Set the completion bit of a launched warp (R252); a fault of it goes to the host (R165). -/
def completionBit (s : State) (w : Warp) : Res Unit :=
  match findLaunch s w.asid w.launch with
  | none => .ok s ()
  | some l =>
    if w.packed || l.cmap == 0 then .ok s ()
    else
      let a := l.cmap + w.wnum / 8
      match orByte (noteRelease s w.uid 6) w.who a (w.wnum % 8) with
      | .bad s f =>
        .ok (escalateGone s w.subj { refillReport a with cls := f.cls, det := f.det, info := f.info, repPc := w.pc }).1 ()
      | r => r

/-- Machine checks that are still due go to the host (R451, R461). -/
def retireDue (s : State) (w : Warp) : State :=
  w.mcDue.foldl (fun s m => (escalateGone s w.subj
    { refillReport m.2 with det := m.1, async := 3, repPc := w.pc }).1) s

/-- The copy faults due to a retiring warp go to the host, and their copies stay suspended (R399, R451). -/
def retireCopies (s : State) (w : Warp) : State :=
  let s := updWarp s w.uid fun w => { w with copyDue := [] }
  w.copyDue.foldl (fun s c =>
    let (p, slot, dec) := c
    if dec then match decAt s p slot with
      | some j =>
        let (s, id) := escalateGone s w.subj (copyReport (j.flt.getD operandFlt) 0#32 w.pc (ticketOf p j.seq slot))
        putDec s p { j with orphan := id }
      | none => s
    else match findCopy s p slot with
      | some j =>
        let (s, id) := escalateGone s w.subj (copyReport (j.flt.getD operandFlt) 0#32 w.pc (ticketOf p j.seq slot))
        putCopy s p { j with orphan := id }
      | none => s) s

/-- A retiring warp's alarms go, undelivered (R402). -/
def retireAlarms (s : State) (w : Warp) : Res Unit :=
  (warpAlarms s w.uid).foldl (fun r a => r.bind fun s _ => disarm s w a) (.ok s ())

/-- Drop the warp's bindings (R348); a partial line that cannot be enqueued is reported and goes. -/
def retireChans (u : Nat) : Nat → State → Res Unit
  | 0, s => .ok s ()
  | k + 1, s => match findWarp s u with
    | none => .ok s ()
    | some w => match chanDrop s w (BitVec.ofNat 4 (15 - k)) with
      | .ok s _ => retireChans u k s
      | .hold h l => .hold h l
      | .bad s f =>
        let r : Report := { refillReport f.fva with cls := f.cls, det := f.det, info := f.info, repPc := w.pc }
        retireChans u k (putChan (escalateGone s w.subj r).1 u (BitVec.ofNat 4 (15 - k)) Chan.freed)

/-- The last part of a retirement: the warp's entries everywhere go, and rounds that waited for it end. -/
def retireEnd (s : State) (w : Warp) : State :=
  let s := retireDue (retireCopies s w) w
  let s := itabPut s { w with intv := w.intv + 1#28 }
  let s := updCtx s w.asid fun c => { c with saveUsed := c.saveUsed.filter fun k => some k != w.save }
  let s := updCore (returnTokens s w.uid) w.pos fun c => { c with requests := c.requests.filter fun u => u != w.uid }
  let s := updLaunch s w.asid w.launch fun l => { l with
    alive := l.alive - 1, retired := if w.packed then l.retired else w.wnum :: l.retired }
  let s := startRounds (endRounds s w.asid w.launch) w.asid w.launch
  launchEnd (dropWarp s w.uid) w.asid w.launch

/-- One step towards the retirement of a warp: its batch closes and its batches end, its channels are dropped,
its bit is set, and it goes. -/
def retireStep (s : State) (u : Nat) : State :=
  match findWarp s u with
  | none => s
  | some w =>
    if !(retiring w) then s
    else if !w.joining || !(pendingBatches s u).isEmpty then
      -- its open batch closes first, with or without work left in it (R413, R414)
      retireCopies (retireTraps (if w.joining then s
        else closeBatch (updWarp s u fun w => { w with joining := true, outstanding := [] }) u) w) w
    else match (retireChans u 16 s).bind fun s _ => retireAlarms s w with
      | .hold h l => holdAt s u h l
      | .bad s _ => s
      | .ok s _ => match findWarp s u with
        | none => s
        | some w => match completionBit s w with
          | .hold h l => holdAt s u h l
          | .bad s _ => s
          | .ok s _ => match findWarp s u with
            | some w => retireEnd s w
            | none => s

/-- WARP_RETIREMENT. -/
def execWarpRetirement (u : Nat) (s : State) : Host.Outcome State Fault Refusal := .next (retireStep s u)

/-! ### Loads, rows, eviction, aging -/

/-- The data of the oldest outstanding load arrives (R169): its registers and its latch entry may be read. -/
def loadStep (s : State) (u : Nat) : State := updWarp s u fun w => { w with outstanding := w.outstanding.drop 1 }

/-- LOAD_COMPLETION. -/
def execLoadCompletion (u : Nat) (s : State) : Host.Outcome State Fault Refusal := .next (loadStep s u)

/-- All of them arrive. -/
def drainLoads (s : State) (u : Nat) : State := updWarp s u fun w => { w with outstanding := [] }

/-- ROW_GRANT (R253). The warp's REGS completes when it is issued again. -/
def execRowGrant (p : Pos) (quad : Nat) (s : State) : Host.Outcome State Fault Refusal := .next (grantRows s p quad)

/-- A warp leaves its slot for a record (R254, R304, R464): its loads first complete. A member that yields while it waits
at a barrier is queued only when the round is released (R241). -/
def evictWarp (s : State) (u : Nat) (yields : Bool := false) : State :=
  match findWarp s u with
  | none => s
  | some w =>
    if w.inFlight then s
    else
      let s := noteRelease (drainLoads s u) u 6
      let s := updCore s w.pos fun c => { c with requests := c.requests.filter fun x => x != u }
      let s := saveWarp (updWarp s u fun w => { w with
        status := if yields then .parked else .queued, held := none }) u
      if yields then s else queueRec s w.die (.evicted u) w.asid w.lvl w.ceil

/-- The youngest warp of a quadrant but for one. -/
def youngest (s : State) (p : Pos) (quad but : Nat) : Option Warp :=
  (s.warps.filter fun w => w.isResident && w.pos == p && w.slot / 16 == quad && w.uid != but).foldl
    (fun y w => match y with
      | some z => if z.since < w.since then some w else some z
      | none => some w) none

/-- EVICTION (R254). -/
def execEviction (p : Pos) (quad : Nat) (s : State) : Host.Outcome State Fault Refusal :=
  .next (match quadReqs s p quad with
    | [] => s
    | q :: _ => match youngest s p quad q.uid with
      | some w => evictWarp s w.uid
      | none => s)

/-- A member of the group has not arrived and holds no slot (R241). -/
def memberAway (s : State) (w : Warp) (b : BarWait) : Bool :=
  match findLaunch s w.asid b.launch with
  | none => false
  | some l =>
    let arr := (l.rounds.filter fun r => r.group == b.group).flatMap fun r => r.arr.map fun a => a.warp
    let here := s.warps.filter fun x => x.asid == w.asid && x.launch == b.launch && !x.packed
    (l.group b.group).members.any fun n =>
      !(l.retired.contains n) && !(here.any fun x => x.wnum == n &&
        (arr.contains x.uid || x.status == .resident || x.status == .shadowed))

/-- GBAR_WAIT_YIELD. -/
def execGbarWaitYield (u : Nat) (s : State) : Host.Outcome State Fault Refusal :=
  .next (match findWarp s u with
    | some w => (match w.barWait with
      | some b => if w.isResident && w.barRes.isNone && memberAway s w b then evictWarp s u true else s
      | none => s)
    | none => s)

/-- AGING_PROMOTION (R258). -/
def execAgingPromotion (die rec : Nat) (s : State) : Host.Outcome State Fault Refusal :=
  .next (match (getDie s die).queue.find? fun r => r.id == rec with
    | some r =>
      if r.lvl < r.top then
        updDie s die fun d => keepCredit { d with
          queue := (d.queue.filter fun x => x.id != rec) ++ [{ r with lvl := r.lvl + 1 }] }
      else s
    | none => s)

end Sys2Proof.Machine
end

