-- ==== Sys2Proof/Machine/Switch.lean ====
section
/-! DEFINITION. Context slots and time slices (spec/09 R260-R262, spec/21 R465, spec/16 R405, spec/17 R430). -/

namespace Sys2Proof.Machine

/-! ### Leaving and entering the live slot (R465) -/

/-- The warps of a context that hold slots of a core, live or in a shadow slot. -/
def slotWarps (s : State) (p : Pos) (asid : Nat) : List Warp :=
  s.warps.filter fun w => (w.isResident || w.status == .shadowed) && w.pos == p && w.asid == asid

/-- Every warp of the context on the core can stop: none has a sparse operation in flight (R464). -/
def warpsStop (s : State) (p : Pos) (asid : Nat) : Bool := (slotWarps s p asid).all fun w => !w.inFlight

def placeCtx (s : State) (p : Pos) (asid : Nat) (pl : CtxPlace) : State :=
  updCoreCtx s p asid fun c => { c with place := pl }

/-- The live context moves to a shadow slot: its warps keep their slots and rows. -/
def toShadow (s : State) (p : Pos) (asid : Nat) : State :=
  let s := (slotWarps s p asid).foldl (fun s w =>
    updWarp (noteRelease (drainLoads s w.uid) w.uid 6) w.uid fun w => { w with status := .shadowed, held := none }) s
  placeCtx s p asid .shadow

/-- The windows of a core that a copy writes to. -/
def copyWritesCore (s : State) (c : Core) (p : Pos) (j : CopyJob) : Bool :=
  let lay := match j.kind with
    | .cpy d _ _ => some d
    | .slice l _ _ => l.map fun (x : Layout × Layout) => x.1
    | .cpym d _ _ _ _ _ => some d
    | .cpyd _ _ _ l => some l
    | .cpys _ _ _ _ => none
  match lay with
  | none => false
  | some l => match elemPlace s (copyWho c.pos j) l 0 with
    | .ok (.win q _ _) => q == p
    | _ => false

/-- No copy or decoder job that has neither ended nor suspended writes the core's state for the context (R405), one that
waits for its round included, and its matrix work has ended or halted (R430). -/
def coreQuiet (s : State) (p : Pos) (asid : Nat) : Bool :=
  let c := getCore s p
  (s.cores.all fun k => k.copies.all fun j =>
    j.asid != asid || j.st == .suspended || !(copyWritesCore s k p j))
  && (c.decs.all fun j => j.asid != asid || j.chan || j.st == .suspended)
  && (match c.mq with
    | m :: _ => (m.halted && m.asid == asid) || c.mq.all fun m => m.asid != asid
    | [] => true)

/-- The core state goes into the context's core image, and its warps become evicted-warp records. -/
def streamOut (s : State) (p : Pos) (asid : Nat) : State :=
  (slotWarps s p asid).foldl (fun s w => evictWarp s w.uid) (imagePut s p asid)

/-- The context becomes live: from a shadow slot with its warps, from its image in memory, or new to the core. The warps
of a shadow slot keep the order in which they once became resident, for R203: DESIGN CHOICE (log 55). -/
def becomeLive (s : State) (p : Pos) (asid : Nat) : State :=
  let s := (slotWarps s p asid).foldl (fun s w => updWarp s w.uid fun w => { w with status := .resident }) s
  let s := updCore s p fun c => { c with wanted := c.wanted.filter (· != asid), last := c.last.map fun _ => (none, 0) }
  if (coreCtx s p asid).place == .memory then
    let s := imageReady s p asid
    updCoreCtx s p asid fun _ => imageGet s p asid
  else placeCtx s p asid .live

/-- Contexts in the shadow slots of a core. -/
def shadows (s : State) (p : Pos) : List Nat :=
  ((getCore s p).sts.filter fun x => x.place == .shadow).map fun x => x.asid

/-- Change the live context of a core to `asid`; none while the old one cannot leave. -/
def switchTo (s : State) (p : Pos) (asid : Nat) : Option State :=
  match (getCore s p).live with
  | none => some (becomeLive s p asid)
  | some old =>
    if old == asid then some s
    else if !(warpsStop s p old) then none
    else if (shadows s p).contains asid || (shadows s p).length < 2 then
      some (becomeLive (toShadow s p old) p asid)
    else if coreQuiet s p old then some (becomeLive (streamOut s p old) p asid)
    else none

/-! ### The choice (R261) -/

/-- Records of a level that the core may run, by ASID: of the queues of every die, warps that wait in its shadow slots, and
contexts that a waiting window access asks for. The access gives its context no priority (R472): it asks at level 0 (log 61). -/
def asidsAt (s : State) (p : Pos) (lvl : Nat) : List Nat :=
  (s.dies.flatMap fun d => (d.queue.filter fun r =>
      r.lvl == lvl && (recReady s r).isSome && recOnCore s d.num r p).map fun r => r.asid)
    ++ ((s.warps.filter fun w => w.status == .shadowed && w.pos == p && w.lvl == lvl).map fun w => w.asid)
    ++ (if lvl == 0 then (getCore s p).wanted else [])

/-- The highest level at which a context other than `but` has a record for the core. -/
def otherLevel (s : State) (p : Pos) (but : Option Nat) : Option Nat :=
  (List.range 48).reverse.find? fun l => (asidsAt s p l).any fun a => some a != but

/-- The highest level among the live context's warps on the core. -/
def liveLevel (s : State) (p : Pos) : Option Nat :=
  match (getCore s p).live with
  | none => none
  | some a => (slotWarps s p a).foldl (fun m w => some (max w.lvl (m.getD 0))) none

/-- The context that the core chooses: none when the live one stays. Of several ASIDs at the level, the round robin of the
core's own die decides, also for records that wait at other dies: DESIGN CHOICE (logs 43, 61). -/
def chooseCtx (s : State) (p : Pos) : Option Nat :=
  let live := (getCore s p).live
  match otherLevel s p live with
  | none => none
  | some l =>
    if (liveLevel s p).any fun m => l < m then none
    else (drrPick (getDie s p.die) l (asidsAt s p l)).bind fun a => if some a == live then none else some a

/-! ### The choice of a warp (R202, R203) -/

/-- The resident warps of a quadrant that wait for nothing but what their next instruction needs. -/
def candidates (s : State) (p : Pos) (quad : Nat) : List Warp :=
  s.warps.filter fun w => w.isResident && w.pos == p && w.slot / 16 == quad
    && !(retiring w) && !(w.barWait.isSome && w.barRes.isNone && !w.sup)

/-- R203's preference between two warps of a quadrant whose last issuer and its count are `q`. -/
def before (q : Option Nat × Nat) (a b : Warp) : Bool :=
  if a.lvl != b.lvl then b.lvl < a.lvl
  else
    let greedy := fun (w : Warp) => some w.uid == q.1 && decide (q.2 < 64)
    let spent := fun (w : Warp) => some w.uid == q.1 && decide (64 ≤ q.2)
    if greedy a || spent b then true
    else if greedy b || spent a then false
    else a.since < b.since || (a.since == b.since && decide (a.slot ≤ b.slot))

/-- Insert a warp in the order of preference. -/
def insertBy (q : Option Nat × Nat) (a : Warp) : List Warp → List Warp
  | [] => [a]
  | b :: l => if before q a b then a :: b :: l else b :: insertBy q a l

/-- The candidates of a quadrant, the preferred one first. -/
def byPreference (s : State) (p : Pos) (quad : Nat) : List Warp :=
  (candidates s p quad).foldr (insertBy ((getCore s p).last.getD quad (none, 0))) []

/-- A comparator fires on the word that a quadrant's warp is about to issue (R474). -/
def fireNext (s : State) (p : Pos) (quad : Nat) : State :=
  match (byPreference s p quad).find? fun w => w.held.isNone with
  | none => s
  | some w =>
    let s' := spillReady s w
    let (w', ok) := atWord s' w
    if ok && !w.inFlight && (comparatorDue (putWarp s' w') w').isSome then fireComparator (putWarp s' w') w' else s

/-- What the context that is to leave finishes first: its last warps retire, which wins over the switch (R262), and a
comparator that fires makes its warp a host-wait record (R472). -/
def beforeSwitch (s : State) (p : Pos) : State :=
  match (getCore s p).live with
  | none => s
  | some a =>
    let ws := slotWarps s p a
    if ws.all retiring then (ws ++ ws).foldl (fun s w => retireStep s w.uid) s
    else (List.range 4).foldl (fun s k => fireNext s p k) s

/-- TIME_SLICE_EXPIRY: the choice of R261, also made by an idle core and for an urgent record. -/
def execTimeSliceExpiry (p : Pos) (s : State) : Host.Outcome State Fault Refusal :=
  let s := grantLaunches s
  .next (if (chooseCtx s p).isNone then s
    else
      let s := beforeSwitch s p
      match chooseCtx s p with
      | none => s
      | some a => (switchTo s p a).getD s)

/-- A record at levels 44 to 47 of a context that is not live makes the core choose (R261). -/
def urgentAt (s : State) (p : Pos) : Bool :=
  (s.dies.any fun d => d.queue.any fun r => 44 ≤ r.lvl && some r.asid != (getCore s p).live)
    && (otherLevel s p (getCore s p).live).any fun l => 44 ≤ l

/-- CONTEXT_STREAM_OUT (R465): once its copies and its matrix work allow it. -/
def execContextStreamOut (p : Pos) (asid : Nat) (s : State) : Host.Outcome State Fault Refusal :=
  .next (
    let here := (getCore s p).sts.any fun x => x.asid == asid && x.place != .memory
    if here && warpsStop s p asid && coreQuiet s p asid then
      streamOut (if (getCore s p).live == some asid then beforeSwitch s p else s) p asid
    else s)

/-- CONTEXT_RESTORE (R465): a context comes back to a core that has no live one. -/
def execContextRestore (p : Pos) (asid : Nat) (s : State) : Host.Outcome State Fault Refusal :=
  .next (
    let known := (getCore s p).sts.any fun x => x.asid == asid
    if (getCore s p).live.isNone && (known || coreRuns s p asid) then becomeLive s p asid else s)

end Sys2Proof.Machine
end

