-- ==== Sys2Proof/Machine/Code.lean ====
section
/-! DEFINITION. ICINV (spec/23 R489-R491) and the loading of code objects by the Scrivener
(spec/23 R484-R488, R494; spec/25 R520). -/

namespace Sys2Proof.Machine

/-! ### ICINV (R491) -/

/-- ICINV.line and ICINV.page: ranges of `n` bytes. -/
def icinvRange (n : Nat) (a : Src) (s : State) : Host.Outcome State Fault Refusal :=
  let size := srcsSize [a]
  issue s (privNo Guard.always [a]) fun s r =>
    let v := r.val 0 0
    if !intRaw v then faultReady s r typeFlt size
    else if 2 ^ 56 ≤ v.n then faultReady s r (flt .arithmetic 4) size
    else
      let s := dropCode (noteRelease s r.w.uid 6) r.w.asid (v.n / n * n) n
      updWarp s r.w.uid fun w => advance w size

/-- ICINV.line. -/
def execIcinvLine (a : Src) (s : State) : Host.Outcome State Fault Refusal := icinvRange 64 a s

/-- ICINV.page. -/
def execIcinvPage (a : Src) (s : State) : Host.Outcome State Fault Refusal := icinvRange 65536 a s

/-- ICINV.asid. -/
def execIcinvAsid (s : State) : Host.Outcome State Fault Refusal :=
  issue s (privNo Guard.always []) fun s r =>
    updWarp (dropCode (noteRelease s r.w.uid 6) r.w.asid 0 (2 ^ 56)) r.w.uid fun w => advance w 8

/-! ### The code image (R484, R485) -/

/-- A little-endian number. -/
def leNat (l : List Byte) : Nat := l.foldr (fun b n => b.toNat + 256 * n) 0

/-- The `n` low bytes of a number, little-endian. -/
def leBytes (n x : Nat) : List Byte := (List.range n).map fun k => BitVec.ofNat 8 (x / 256 ^ k)

/-- `n` bytes of an image from offset `o`. -/
def imgBytes (img : List Byte) (o n : Nat) : List Byte := (img.drop o).take n

/-- The word of an image at offset `o`. -/
def imgWord (img : List Byte) (o : Nat) : Nat := leNat (imgBytes img o 8)

/-- A section-table entry: kind, file offset, size, loaded offset. -/
structure Sect where
  kind : Nat
  off : Nat
  size : Nat
  lo : Nat
  deriving DecidableEq, Repr

/-- Entry `k` of the section table. -/
def sectAt (img : List Byte) (k : Nat) : Sect :=
  let w := fun j => imgWord img (0x40 + 32 * k + 8 * j)
  ⟨w 0, w 1, w 2, w 3⟩

/-- The sections of an image. -/
def sects (img : List Byte) : List Sect := (List.range (imgWord img 0x18)).map (sectAt img)

/-- The section of a kind. -/
def sectOf (img : List Byte) (k : Nat) : Option Sect := (sects img).find? fun x => x.kind == k

/-- Content of a section. -/
def sectBytes (img : List Byte) (x : Sect) : List Byte := imgBytes img x.off x.size

/-- Content of the section of a kind; empty where there is none. -/
def kindBytes (img : List Byte) (k : Nat) : List Byte :=
  match sectOf img k with
  | some x => sectBytes img x
  | none => []

/-- Bytes of the pages that a loaded section covers. -/
def Sect.span (x : Sect) : Nat := (x.size + 65535) / 65536 * 65536

def Sect.loaded (x : Sect) : Bool := x.kind ≤ 4

/-- Items whose ranges do not meet, pairwise. -/
def apart : List (Nat × Nat) → Bool
  | [] => true
  | (a, n) :: l => (l.all fun p => decide (a + n ≤ p.1) || decide (p.1 + p.2 ≤ a)) && apart l

/-- One entry meets R485. -/
def sectOk (size : Nat) (x : Sect) : Bool :=
  decide (1 ≤ x.kind) && decide (x.kind ≤ 7) && x.off % 64 == 0 && decide (0x240 ≤ x.off)
    && decide (x.off + x.size + 3328 ≤ size)
    && (!x.loaded || (x.lo % 65536 == 0 && decide (x.lo + x.span < 2 ^ 56)))
    && (x.kind != 5 || x.size % 32 == 0) && (x.kind != 6 || x.size % 16 == 0)

/-- A symbol record: name, kind, section, value (log 27). -/
structure SymRec where
  name : Nat
  kind : Nat
  sect : Nat
  val : Nat
  deriving DecidableEq, Repr

/-- The symbol records of an image. -/
def symRecs (img : List Byte) : List SymRec :=
  let b := kindBytes img 5
  (List.range (b.length / 32)).map fun k =>
    let w := fun j => imgWord b (32 * k + 8 * j)
    ⟨w 0, w 1, w 2, w 3⟩

/-- A relocation: target offset, kind, operand. -/
structure Reloc where
  target : Nat
  kind : Nat
  opnd : Nat
  deriving DecidableEq, Repr

def relocs (img : List Byte) : List Reloc :=
  let b := kindBytes img 6
  (List.range (b.length / 16)).map fun k =>
    let w := imgWord b (16 * k + 8)
    ⟨imgWord b (16 * k), bitsAt w 60 4, bitsAt w 0 60⟩

/-- R487 step 2: the layout of R484 and R485. -/
def imageWellFormed (img : List Byte) : Bool :=
  let n := img.length
  let k := imgWord img 0x18
  let xs := sects img
  n % 64 == 0 && decide (0x240 + 3328 ≤ n) && imgWord img 8 == n
    && bitsAt (imgWord img 0) 16 48 == 0x47454C590000
    && decide (1 ≤ k) && decide (k ≤ 16) && leNat (imgBytes img 0x20 32) == 0
    && leNat (imgBytes img (0x40 + 32 * k) (32 * (16 - k))) == 0
    && leNat (imgBytes img (n - 19) 19) == 0
    && (xs.all (sectOk n)) && (xs.map fun x => x.kind).Nodup
    && apart (xs.map fun x => (x.off, x.size))
    && apart ((xs.filter Sect.loaded).map fun x => (x.lo, x.span))
    && ((symRecs img).all fun y => y.kind ≤ 6 && decide (y.sect ≤ 7))
    && ((relocs img).all fun r => r.kind ≤ 3)

/-- The bytes of a name: from its offset in the strings section to the next zero byte (log 27). -/
def nameAt (img : List Byte) (o : Nat) : Option (List Byte) :=
  let b := (kindBytes img 7).drop o
  let nm := b.takeWhile (· != 0#8)
  if nm.isEmpty || nm.length == b.length then none else some nm

/-- R487 step 3 (R494). -/
def levelOk (img : List Byte) : Bool := imgWord img 0 % 65536 == 0x0200

/-! ### The resolver routine (R486, R492) -/

/-- The words of the resolver. -/
def resolverBytes : List Byte :=
  encodeBytes (.sysc ⟨0#3, false⟩ (.lit .int 0x11#64)) ++
  encodeBytes (.stl ⟨0#3, false⟩ (.reg (.s 19#6)) ⟨.reg (.s 18#6), 6#4, 0#9⟩) ++
  encodeBytes (.ret ⟨0#3, false⟩ (.reg (.s 19#6)))

/-- Where the Scrivener links it into an object: on a page of its own after the last section (log 27). -/
def resolverOff (img : List Byte) : Nat :=
  ((sects img).filter Sect.loaded).foldl (fun m x => max m (x.lo + x.span)) 0

/-- What a load maps: the sections, and the resolver where the object uses `.link`, as kind 8. -/
def loadedSects (img : List Byte) : List Sect :=
  (sects img).filter Sect.loaded ++
    if (relocs img).any fun r => r.kind == 3 then [⟨8, 0, resolverBytes.length, resolverOff img⟩] else []

def sectContent (img : List Byte) (x : Sect) : List Byte := if x.kind == 8 then resolverBytes else sectBytes img x

/-- The JMP of the stub at offset `o`, which goes to the resolver. -/
def stubJump (img : List Byte) (o : Nat) : Nat :=
  (encode (.jmp ⟨0#3, false⟩ (BitVec.ofInt 33 (((resolverOff img : Int) - (o + 16)) / 8)))).1.toNat

/-! ### Mapping the sections (R487 step 4, R488) -/

/-- A section on raw, executable pages. -/
def Sect.isCode (x : Sect) : Bool := x.kind == 1 || x.kind == 8

/-- Attributes of a loaded section: raw, U, X; U; U, W. -/
def sectAttrs (x : Sect) : Nat :=
  if x.isCode then 0x4000 + 0x40 + 0x80 else if x.kind == 2 then 0x80 else 0x80 + 0x20

/-- The words of a run of bytes, the last filled with zeros. -/
def chunk8 : Nat → List Byte → List Nat
  | 0, _ => []
  | n + 1, l => if l.isEmpty then [] else leNat (l.take 8) :: chunk8 n (l.drop 8)

/-- Store words at successive domain addresses; `t` gives each word's tag, or leaves it. -/
def putWords (m : Memory) (a : Nat) (t : Nat → Option (BitVec 4)) : Nat → List Nat → Memory
  | _, [] => m
  | k, x :: l => putWords (memPut m (a + 8 * k) 8 x (t k)) a t (k + 1) l

/-- The Scrivener's accesses for an ASID: those of a system core, which the window table binds (R521, R524). -/
def loaderWho (asid : Nat) : Who := { unitAt asid 0 with fw := true }

/-- A step of R487 fails. -/
def refused {α : Type} (s : State) : Res α := .bad s operandFlt

/-- The frame that backs a mapped page, by domain address. -/
def frameAt (s : State) (asid va : Nat) : Res Nat :=
  (walk s (loaderWho asid) va).map fun k => pteFrame k.pte + va % pageSize k.lvl / 65536 * 65536

/-- The Scrivener's writes to a frame keep to the firmware window table (R524). -/
def putFrame (s : State) (da : Nat) (f : Memory → Memory) : State :=
  if fwAllowed s (fun w => w.w) (domPa da / 65536 * 65536) 65536 then { s with mem := f s.mem } else countDrop s

/-- The tag of word `k` of a tagged section: what the source gave it, which R484 gives no place in the image, so it is left
open (R95, log 27). -/
def sectTag (img : List Byte) (x : Sect) (k : Nat) : Option (BitVec 4) :=
  if x.isCode then none else some (BitVec.ofNat 4 (Config.wordTag img (x.off / 8 + k) % 13))

/-- Map page `k` of a section: a frame of a die that the Scrivener chooses (log 6), filled with the page's words; the rest
holds ⟨INT, 0⟩ or zero bytes. -/
def loadPage (s : State) (asid base : Nat) (img : List Byte) (x : Sect) (k : Nat) : Res Unit :=
  let va := base + x.lo + 65536 * k
  let die := Config.choice s.freeCtr 8 % 8
  (mapPage { s with freeCtr := s.freeCtr + 1 } (loaderWho asid) false va (sectAttrs x) (diesFrom die)).bind fun s r => match r with
    | .done => (frameAt s asid va).bind fun s da =>
      let ws := chunk8 8192 (imgBytes (sectContent img x) (65536 * k) 65536)
      .ok (putFrame s da fun m => putWords m da (fun j => sectTag img x (8192 * k + j)) 0 ws) ()
    | .status _ => refused s

/-- Map a frame that another ASID holds (R488): it is not charged. -/
def sharePage (s0 : State) (asid va attrs frame : Nat) : Res Unit :=
  let who := loaderWho asid
  match walk s0 who va with
  | .bad s f =>
    if f.cls == .translation && f.det == 0 && f.info == 0 then
      (missedEntry s who va).bind fun s e => physStore s who e e 8 (frame + attrs + 3) none
    else refused s
  | .ok s _ => refused s
  | .hold h l => .hold h l

/-- Map the pages of one section from page `k` on. -/
def loadSect (asid base : Nat) (img : List Byte) (x : Sect) (shared : List Nat) : Nat → Nat → State → Res Unit
  | 0, _, s => .ok s ()
  | n + 1, k, s =>
    (match shared[k]? with
      | some f => sharePage s asid (base + x.lo + 65536 * k) (sectAttrs x) f
      | none => loadPage s asid base img x k).bind fun s _ => loadSect asid base img x shared n (k + 1) s

/-- Carry on through a list as long as each element's step succeeds. -/
def each {α : Type} (f : State → α → Res Unit) (l : List α) (s : State) : Res Unit :=
  l.foldl (fun r x => r.bind fun s _ => f s x) (.ok s ())

/-- The object with the same signature whose frames are shared. -/
def sharedFrames (s : State) (sig : List Byte) (kind : Nat) : List Nat :=
  match s.hub.objects.find? fun o => o.sig == sig with
  | some o => (o.shared.find? fun p => p.1 == kind).elim [] fun p => p.2
  | none => []

/-- Map every loaded section. -/
def loadSects (asid base : Nat) (img sig : List Byte) (s : State) : Res Unit :=
  each (fun s x => loadSect asid base img x (sharedFrames s sig x.kind) (x.span / 65536) 0 s) (loadedSects img) s

/-! ### Relocations and imports (R487 steps 5 and 6) -/

/-- The loaded section that holds an offset. -/
def sectHolding (img : List Byte) (o : Nat) : Option Sect :=
  (sects img).find? fun x => x.loaded && decide (x.lo ≤ o) && decide (o < x.lo + x.span)

/-- Write a value at an offset of the loaded object: raw pages take the payload. -/
def putLoaded (asid base : Nat) (img : List Byte) (o : Nat) (v : Val) (s : State) : Res Unit :=
  match sectHolding img o with
  | none => refused s
  | some x =>
    if o % 8 != 0 then refused s
    else
      let t := if x.kind == 1 then none else some (BitVec.ofNat 4 v.tag.toNat)
      (frameAt s asid (base + o)).bind fun s da => .ok (putFrame s da fun m => memPut m (da + o % 65536) 8 v.n t) ()

/-- What a check of the image gives, or the step fails. -/
def orRefused {α : Type} (s : State) (o : Option α) : Res α :=
  match o with
  | some x => .ok s x
  | none => refused s

/-- The id of an interned name, which is taken in when it is new. Ids hold for the whole device, since shared code
frames hold them (R488, log 27). -/
def intern (s : State) (nm : List Byte) : State × Nat :=
  let l := s.hub.syms
  if l.contains nm then (s, l.idxOf nm) else ({ s with hub := { s.hub with syms := l ++ [nm] } }, l.length)

/-- Apply one relocation; that of a stub also links its JMP to the resolver (R486). -/
def relocate (asid base : Nat) (img : List Byte) (s : State) (r : Reloc) : Res Unit :=
  match r.kind with
  | 2 => (orRefused s (nameAt img r.opnd)).bind fun s nm =>
      let (s, k) := intern s nm
      putLoaded asid base img r.target ⟨.sym, wordN k⟩ s
  | k =>
    if (sectHolding img r.opnd).isNone then refused s
    else (putLoaded asid base img r.target (canonLit (if k == 1 then .ref else .code) (wordN (base + r.opnd))) s).bind
      fun s _ => if k == 3 then putLoaded asid base img (r.opnd + 16) (vRaw (stubJump img r.opnd)) s else .ok s ()

/-- The address a symbol record names: its section's loaded offset and its value. -/
def symAddr (base : Nat) (img : List Byte) (y : SymRec) : Option Nat :=
  (sectOf img y.sect).bind fun x => if x.loaded then some (base + x.lo + y.val) else none

/-- The exports of an image. -/
def exportsOf (base : Nat) (img : List Byte) : List (List Byte × Nat) :=
  (symRecs img).filterMap fun y =>
    if y.kind != 0 then none else (nameAt img y.name).bind fun nm => (symAddr base img y).map fun a => (nm, a)

/-- Bind one import: the word its record names takes the export's address (log 27). -/
def bindImport (asid base : Nat) (img : List Byte) (s : State) (y : SymRec) : Res Unit :=
  let exports := (s.hub.objects.filter fun o => o.asid == asid).flatMap fun o => o.exports
  (orRefused s (nameAt img y.name)).bind fun s nm =>
    (orRefused s (exports.find? fun e => e.1 == nm)).bind fun s e =>
      (orRefused s (sectOf img y.sect)).bind fun s x =>
        (walk s (loaderWho asid) e.2).bind fun s k =>
          putLoaded asid base img (x.lo + y.val)
            (canonLit (if pteCls k.pte == 1 then .code else .ref) (wordN e.2)) s

/-! ### The loader (R487, R520) -/

/-- The frames of a loaded section. -/
def sectFrames (s : State) (asid base : Nat) (x : Sect) : List Nat :=
  (List.range (x.span / 65536)).filterMap fun k => match frameAt s asid (base + x.lo + 65536 * k) with
    | .ok _ f => some f
    | _ => none

/-- Step 7: the lines of the code frames go and the exports are published. -/
def publish (s : State) (asid base : Nat) (img sig : List Byte) : State :=
  let shared := ((loadedSects img).filter fun x => x.isCode || x.kind == 2).map fun x => (x.kind, sectFrames s asid base x)
  let s := (shared.flatMap fun p => p.2).foldl dropFrameLines s
  updHub s fun h => { h with objects := h.objects ++ [⟨asid, base, sig, exportsOf base img, shared⟩] }

/-- The virtual base: that of an object with the same signature, whose frames hold its addresses, or the one the
Scrivener chose (log 27). -/
def loadBase (s : State) (sig : List Byte) (base : Nat) : Nat :=
  (s.hub.objects.find? fun o => o.sig == sig).elim base fun o => o.base

/-- A step that fails ends the load with its status, and leaves the state `s0`. -/
def loadStage (s0 : State) (status : Nat) (r : Res Unit) (k : State → Res (Nat × Nat)) : Res (Nat × Nat) :=
  match r with
  | .ok s _ => k s
  | .bad _ _ => .ok s0 (status, 0)
  | .hold h l => .hold h l

/-- Load an image: the status and the base. -/
def loadImage (s : State) (asid base : Nat) (img : List Byte) : Res (Nat × Nat) :=
  let n := img.length
  let sig := imgBytes img (n - 3328) 3309
  let base := loadBase s sig base
  if n < 3328 || !Config.sigOk (imgWord img 0x10) (img.take (n - 3328)) sig then .ok s (1, 0)
  else if !imageWellFormed img then .ok s (2, 0)
  else if !levelOk img then .ok s (3, 0)
  else if base % 65536 != 0 || !((loadedSects img).all fun x => base + x.lo + x.span ≤ 2 ^ 56) then .ok s (4, 0)
  else loadStage s 4 (loadSects asid base img sig s) fun t =>
    loadStage s 5 (each (relocate asid base img) (relocs img) t) fun t =>
      loadStage s 6 (each (bindImport asid base img) ((symRecs img).filter fun y => y.kind == 1) t) fun t =>
        .ok (publish t asid base img sig) (0, base)

/-- `k` lines of this device's DRAM from `a` on, as far as the firmware window table lets the Scrivener read them (R524). -/
def readLines : Nat → Nat → State → Res (List Byte)
  | 0, _, s => .ok s []
  | k + 1, a, s =>
    if !dramOk a then refused s
    else (physLoad s (loaderWho 0) 0 (s.dev * 2 ^ 52 + a) 64).bind fun s x =>
      (readLines k (a + 64) s).map fun l => leBytes 64 x ++ l

/-- The image that a request names; one that cannot be read has no signature that verifies. -/
def loadAt (asid addr size base : Nat) (s : State) : Res (Nat × Nat) :=
  match readLines ((addr % 64 + size + 63) / 64) (addr / 64 * 64) s with
  | .ok t l => loadImage t asid base ((l.drop (addr % 64)).take size)
  | .bad t _ => .ok t (1, 0)
  | .hold h l => .hold h l

/-- A function reaches an ASID's assets: PF0, or the VF that owns its context, unless the interface is in
ERROR (R515, R523). -/
def fnReaches (s : State) (fn asid : Nat) : Bool :=
  fn == 0 || (fn == (getCtx s asid).fn && s.hub.vfs.any fun v => v.num == fn && v.st != .error)

/-- A request to the Scrivener. Lines that the host holds and links that retrain are waited for within the step (log 33). -/
def scrivener (fn asid addr size base : Nat) (s : State) : State :=
  if s.hub.mailbox.go || !(fnReaches s fn asid) || 1024 ≤ asid then s
  else
    let (t, st, b) := match atHand s (loadAt asid addr size base) with
      | .ok t r => (t, r.1, r.2)
      | _ => (s, 1, 0)
    updHub t fun h => { h with mailbox :=
      { asid := asid, addr := addr, size := size, go := false, status := st, base := b } }

/-- SCRIVENER_MAILBOX_REQUEST. -/
def execScrivenerMailboxRequest (fn asid addr size base : Nat) (s : State) : Host.Outcome State Fault Refusal :=
  .next (scrivener fn asid addr size base s)

end Sys2Proof.Machine
end

