-- ==== Sys2Proof/Machine/Migrate.lean ====
section
/-! DEFINITION. Migrating a page: PMIG, the background copy, the completion (spec/24 R498-R505). -/

namespace Sys2Proof.Machine

/-! ### PMIG.start (R498, R499) -/

/-- The target word: device in bits 63:52, die in bits 2:0. -/
def targetOk (x : Nat) : Bool := zeroOutside (0xFFF * 2 ^ 52 + 7) x

/-- Migrations in progress at a die of a device, as the old or the new home. -/
def migsAt (s : State) (dev die : Nat) : Nat :=
  (s.migs.filter fun m => (domDev m.old == dev && homeDie m.old == die)
    || (domDev m.new == dev && homeDie m.new == die)).length

/-- A frame on the target die, or the status that refuses it. The quota, the pool and the records of another
device are not this device's state: what it answers is left open (log 6). -/
def targetFrame (s : State) (asid dev die : Nat) : Except Nat (Nat × State) :=
  if dev == s.dev then
    let c := getCtx s asid
    if c.quota ≤ c.used then .error 3
    else match poolTake s die with
      | none => .error 2
      | some (f, s) =>
        .ok (s.dev * 2 ^ 52 + f, updCtx s asid fun c => { c with used := c.used + 1 })
  else
    match Config.choice s.freeCtr 4 % 4 with
    | 1 => .error 5
    | 2 => .error 3
    | 3 => .error 2
    | _ =>
      let f := Config.framePick (s.freeCtr + 1) % 0xB2D05 * 65536
      .ok (dev * 2 ^ 52 + die * 2 ^ 36 + f, { s with freeCtr := s.freeCtr + 2 })

/-- Objects that later loads share name the page's new frame (R488). -/
def moveShared (old new : Nat) (o : CodeObj) : CodeObj :=
  { o with shared := o.shared.map fun p => (p.1, p.2.map fun f => if f == old then new else f) }

/-- PMIG.start for the page of `va`: the status. -/
def migStart (s : State) (w : Warp) (va target : Nat) : Res Nat :=
  let dev := target / 2 ^ 52
  let die := target % 8
  match walk s w.who va with
  | .hold h l => .hold h l
  | .bad s f => if f.cls == .translation && f.det == 0 then .ok s 4 else .bad s f
  | .ok s k =>
    let old := pteFrame k.pte
    if k.lvl != 0 then .ok s 4
    else if pteCls k.pte == 2 then .ok s 7
    else if (migOf s old).isSome then .ok s 1
    else if domDev old == dev && homeDie old == die then .ok s 6
    else if !(reachable s dev) then .ok s 8
    else if 256 ≤ migsAt s (domDev old) (homeDie old) || 256 ≤ migsAt s dev die then .ok s 5
    else match targetFrame s w.asid dev die with
      | .error n => .ok { s with freeCtr := if dev == s.dev then s.freeCtr else s.freeCtr + 1 } n
      | .ok (new, s) =>
        let m : Migration := ⟨s.nextRec, w.asid, va / 65536 * 65536, old, new, [], [], false⟩
        (physStore s w.who k.at_ k.at_ 8 (k.pte % 65536 + new) none).bind fun s _ =>
          .ok { s with
            migs := s.migs ++ [m], nextRec := s.nextRec + 1
            hub := { s.hub with objects := s.hub.objects.map (moveShared old new) } } 0

/-- PMIG executes once, with a scalar address. -/
def pmigIns (d : Dst) (srcs : List Src) : Ins :=
  { insOf Guard.always d srcs with shape := some false, priv := true }

/-- PMIG.start. -/
def execPmigStart (d : Dst) (a b : Src) (s : State) : Host.Outcome State Fault Refusal :=
  onceIns s (pmigIns d [a, b]) fun s r =>
    let v := r.val 0 0
    let t := r.val 1 0
    if !intRaw v || t.tag != .int then .bad s typeFlt
    else if 2 ^ 56 ≤ v.n || !targetOk t.n then .bad s (flt .arithmetic 4)
    else (Res.at (migStart (noteRelease s r.w.uid 6) r.w v.n t.n) v.n).map fun n => [vNat n]

/-! ### PMIG.stat (R503) -/

/-- STATE of a migration. -/
def Migration.state (m : Migration) : Nat :=
  if m.moved.length == 1024 then 2 else if m.moved.length + m.bad.length == 1024 then 3 else 1

/-- The status word. -/
def Migration.word (m : Migration) : Nat :=
  m.state * 2 ^ 62 + domDev m.new * 2 ^ 36 + homeDie m.new * 2 ^ 30 + m.bad.length * 2 ^ 16 + m.moved.length

/-- PMIG.stat. -/
def execPmigStat (d : Dst) (a : Src) (s : State) : Host.Outcome State Fault Refusal :=
  onceIns s (pmigIns d [a]) fun s r =>
    let v := r.val 0 0
    if !intRaw v then .bad s typeFlt
    else if 2 ^ 56 ≤ v.n then .bad s (flt .arithmetic 4)
    else Res.at (match walk s r.w.who v.n with
      | .hold h l => .hold h l
      | .bad s f => if f.cls == .translation then .ok s [vRaw 0] else .bad s f
      | .ok s k =>
        let fr := pteFrame k.pte + v.n % pageSize k.lvl / 65536 * 65536
        .ok s [vRaw (match s.migs.find? fun m => m.new == fr with
          | some m => m.word
          | none => 0)]) v.n

/-! ### The background copy and the completion (R500-R504) -/

/-- The lowest line that the copy has not moved and has not found uncorrectable as it is now. -/
def nextLine (s : State) (m : Migration) : Option Nat :=
  (List.range 1024).find? fun i =>
    !(m.moved.contains i) && !(m.bad.contains i && s.bad.contains (lineOf (m.old + 64 * i)))

/-- The background copy's next line: moved, found uncorrectable, or first taken back from the host. -/
def copyLine (s : State) (m : Migration) (i : Nat) : State :=
  let line := lineOf (m.old + 64 * i)
  if s.bad.contains line then
    { s with migs := modifyFirst (fun x => x.id == m.id) (fun x => { x with bad := i :: x.bad }) s.migs }
  else if s.hub.hostLines.contains line then
    sendSnoop s line
  else match homeWay s (dieWho (homeDie m.old) true) 0 m.old m.new with
    | .ok s _ => moveLine s m i
    | _ => s

/-- MIGRATION_LINE_MOVE. -/
def execMigrationLineMove (id : Nat) (s : State) : Host.Outcome State Fault Refusal :=
  .next (match s.migs.find? fun m => m.id == id with
    | some m => (match nextLine s m with
      | some i => copyLine s m i
      | none => s)
    | none => s)

/-- The shootdown of a migration. -/
def shootMig (s : State) (m : Migration) : State :=
  if m.shot then s
  else
    let s := dropFrameLines (shootRange s m.asid m.va 65536) m.old
    { s with migs := modifyFirst (fun x => x.id == m.id) (fun x => { x with shot := true }) s.migs }

/-- Both records go; a frame of this device returns to its pool and to the quota. -/
def endMig (s : State) (m : Migration) : State :=
  let s := { s with migs := s.migs.filter fun x => x.id != m.id }
  if domDev m.old == s.dev then
    updCtx (updDie s (homeDie m.old) fun d => { d with pool := d.pool ++ [domPa m.old] }) m.asid fun c =>
      { c with used := c.used - 1 }
  else s

/-- MIGRATION_COMPLETION: the shootdown, and the end once every line has moved. -/
def execMigrationCompletion (id : Nat) (s : State) : Host.Outcome State Fault Refusal :=
  .next (match s.migs.find? fun m => m.id == id with
    | some m =>
      let s := shootMig s m
      if m.moved.length == 1024 then endMig s m else s
    | none => s)

end Sys2Proof.Machine
end

