-- ==== Sys2Proof/Machine/Hub.lean ====
section
/-! DEFINITION. The host's side of the hubs: memory accesses, queue ports, contexts, released host-wait records
and frame pools (spec/25 R510-R519, spec/14 R345, spec/20 R453). -/

namespace Sys2Proof.Machine

/-! ### CXL.mem (R511) -/

/-- The physical address behind an offset of the port's HDM decoder: the DRAM that FREEFR offers for contexts, die by die in
ascending order (R277, R510). -/
def hdmGo (s : State) : List Nat → Nat → Option Nat
  | [], _ => none
  | d :: l, h =>
    let n := (getDie s d).freefr * 65536
    if h < n then some (d * 2 ^ 36 + h) else hdmGo s l (h - n)

def hdmPa (s : State) (h : Nat) : Option Nat := hdmGo s (List.range 8) h

/-- Bytes that the decoder covers. -/
def hdmSize (s : State) : Nat := ((List.range 8).map fun d => (getDie s d).freefr * 65536).sum

/-- The place where an access from outside the dies to a physical address is carried out: its home of the moment (R500). A
line pulled from its old home is taken back from the host there. -/
def hostHome (s : State) (pa : Nat) : Option (State × Nat) :=
  match atHand s fun s => migResolve s (dieWho (homeDie pa) true) 0 (s.dev * 2 ^ 52 + pa) with
  | .ok t a => some (t, a)
  | _ => none

/-- Put the 64 bytes of a line, or none where it is uncorrectable, into the host's answer. -/
def hostAnswer (s : State) (l : List Byte) : State := updHub s fun h => { h with hostData := l }

def holdLine (s : State) (line : Nat) : State :=
  updHub s fun h => { h with hostLines := line :: h.hostLines.filter (· != line) }

def freeLine (s : State) (line : Nat) : State :=
  updHub s fun h => { h with hostLines := h.hostLines.filter (· != line), snoops := h.snoops.filter (· != line) }

/-- HOST_CXL_MEM_READ: the line that holds an address of the HDM range. The host then holds the line (log 28). While a link
between its CXL port and the home retrains, the request waits and nothing happens (R495, R497). -/
def execHostCxlMemRead (addr : Nat) (s : State) : Host.Outcome State Fault Refusal :=
  .next (match hdmPa s (addr / 64 * 64) with
    | none => hostAnswer s (List.replicate 64 0#8)
    | some pa => match hostHome s pa with
      | none => hostAnswer s []
      | some (t, a) =>
        if !(hostWay t (lineOf a)) then s
        else if t.bad.contains (lineOf a) then hostAnswer t []
        else holdLine (hostAnswer (noteSoft t a) (leBytes 64 (memLoad t.mem a 64))) (lineOf a))

/-- The words a write of `n` bytes at `a` touches take tag RAW (R22). -/
def rawTags (m : Memory) (a n : Nat) : Memory :=
  if n == 0 then m
  else (List.range ((a + n - 1) / 8 - a / 8 + 1)).foldl (fun m k => memSetTag m (a / 8 * 8 + 8 * k) 3#4) m

/-- The leaves of every address space of this device over a domain address: the address space, the virtual address, the
leaf. -/
def leavesOver (s : State) (a : Nat) : List (Nat × Nat × Nat) :=
  s.hub.asidTab.flatMap fun e => (asidLeaves s e.1 0 (2 ^ 56) a).map fun p => (e.1, p)

/-- A host write clears V of the sectors it touches on RD pages (R327), in every address space that maps them (log 29). -/
def hostShadow (s : State) (a n : Nat) : State :=
  if s.ctxs.any fun c => c.en then
    (leavesOver s a).foldl (fun s e => clearShadow s (unitAt e.1 (homeDie a)) e.2.2 e.2.1 n) s
  else s

/-- A page that some address space maps as sparse (R22). -/
def sparseAt (s : State) (a : Nat) : Bool := (leavesOver s a).any fun e => pteCls e.2.2 == 2

/-- Write bytes at their home: words lose their tags, counters may reach zero, a whole line re-encodes (R461), and a part
of a line corrects it (R279). A write to a sparse page is refused (R22, log 59). -/
def hostPut (s : State) (a : Nat) (data : List Byte) : State :=
  if sparseAt s a then s
  else
    let n := data.length
    let s := if n == 64 then s else noteSoft s a
    let s := { s with
      mem := rawTags (memStore s.mem a n (leNat data)) a n
      bad := if n == 64 then s.bad.filter (· != lineOf a) else s.bad
      soft := s.soft.filter (· != lineOf a) }
    let s := (List.range ((a + n - 1) / 8 - a / 8 + 1)).foldl (fun s k => counterZero s (a / 8 * 8 + 8 * k)) s
    hostShadow s a n

/-- HOST_CXL_MEM_WRITE: up to a line of bytes. The host then no longer holds the line (log 28). -/
def execHostCxlMemWrite (addr : Nat) (data : List Byte) (s : State) : Host.Outcome State Fault Refusal :=
  .next (
    if data.isEmpty || 64 < addr % 64 + data.length then s
    else match (hdmPa s addr).bind (hostHome s) with
      | none => s
      | some (t, a) =>
        if !(hostWay t (lineOf a)) then s
        else if t.bad.contains (lineOf a) && data.length != 64 then freeLine t (lineOf a)
        else freeLine (hostPut t a data) (lineOf a))

/-- HOST_SNOOP_RESPONSE. -/
def execHostSnoopResponse (line : Nat) (s : State) : Host.Outcome State Fault Refusal :=
  .next (if s.hub.snoops.contains line && hostWay s line then freeLine s line else s)

/-! ### Ownership and locks (R515, R522, R523) -/

def findVf (s : State) (n : Nat) : Option Vf := s.hub.vfs.find? fun v => v.num == n

def setVf (s : State) (n : Nat) (f : Vf → Vf) : State :=
  updHub s fun h => { h with vfs := modifyFirst (fun v => v.num == n) f h.vfs }

/-- The interface of a function is locked, running or in error. -/
def vfFrozen (s : State) (fn : Nat) : Bool := (findVf s fn).any fun v => v.st != .unlocked

def vfError (s : State) (fn : Nat) : Bool := (findVf s fn).any fun v => v.st == .error

/-- A function may write an asset that function `own` owns: PF0 unless the owner's interface is frozen, or the owner
unless its interface is in ERROR. -/
def mayWrite (s : State) (fn own : Nat) : Bool :=
  if fn == 0 then !(vfFrozen s own) else fn == own && !(vfError s own)

/-- The hub's accesses for a host function: by the queue's address space. -/
def portWho (q : QEnt) : Who := { dieWho 0 false with asid := q.asid }

/-- The queue-table entry that a port of a function reaches. -/
def portEntry (s : State) (fn q : Nat) : Option QEnt :=
  (queueEntry s q).bind fun e => if fn == 0 || fn == e.fn then some e else none

/-- ENQ_PORT_WRITE (R345): words 0 to 6 take tag RAW, TYPE comes from word 7. -/
def execEnqPortWrite (fn q : Nat) (data : List Word) (s : State) : Host.Outcome State Fault Refusal :=
  .next (match portEntry s fn q with
    | none => s
    | some e =>
      if vfError s e.fn then s
      else
        let ws := (List.range 7).map fun k => (⟨.raw, data.getD k 0#64⟩ : Val)
        match atHand s fun s => enqStep s none (portWho e) e.desc ws (bitsAt (data.getD 7 0#64).toNat 8 8) with
        | .ok t true => t
        | .ok _ false => updHub s fun h => { h with
            qtab := modifyFirst (fun x => x.num == q) (fun x => { x with ovf := true }) h.qtab }
        | _ => s)

/-- DEQ_PORT_READ (R345): the line's 64 bytes, zeros of an empty queue; all ones of an interface in ERROR. -/
def execDeqPortRead (fn q : Nat) (s : State) : Host.Outcome State Fault Refusal :=
  .next (match portEntry s fn q with
    | none => hostAnswer s (List.replicate 64 0#8)
    | some e =>
      if vfError s e.fn then hostAnswer s (List.replicate 64 0xFF#8)
      else match atHand s fun s => deqStep s none (portWho e) e.desc with
        | .ok t (some l) => drainLines (hostAnswer t (l.flatMap fun v => leBytes 8 v.n))
        | _ => hostAnswer s (List.replicate 64 0#8))

/-! ### Contexts (R516, R518) -/

/-- The context goes live (R518): its numbers start anew (R234, R452). Its packed warps go on numbering where the counter of
R26 and R246 stood, also when it goes live a second time: DESIGN CHOICE (log 30). -/
def goLive (s : State) (asid : Nat) : State :=
  let c := getCtx s asid
  if c.v then putCtx s { c with ending := false }
  else if bitAt (asidEntry s asid).toNat 0 then
    putCtx s { c with v := true, ending := false, launchNo := 1, hwNo := 1 }
  else s

/-- CONTEXT_LIVE. -/
def execContextLive (fn asid : Nat) (s : State) : Host.Outcome State Fault Refusal :=
  .next (if asid < 1024 && mayWrite s fn (getCtx s asid).fn then goLive s asid else s)

/-- Work of a context remains: a live launch, a queued record, an incomplete copy. -/
def ctxBusy (s : State) (asid : Nat) : Bool :=
  s.launches.any (fun l => l.asid == asid)
    || s.dies.any (fun d => d.queue.any fun r => r.asid == asid)
    || s.cores.any fun c => c.copies.any (fun j => j.asid == asid) || c.decs.any fun j => j.asid == asid

/-- What the hub removes when V becomes 0: instruction lines, translations, alarms, race-detector state, what the context's
supervisor had given the hardware, and its state on the cores (log 30). -/
def endCtx (s : State) (asid : Nat) : State :=
  let c := getCtx s asid
  let s := shootRange s asid 0 (2 ^ 56)
  let gone := fun (a : Alarm) => match a.gauge with
    | .mem x _ => x == asid
    | .spad _ x _ => x == asid
    | .none => false
  let s := { s with
    dies := s.dies.map fun d => { d with
      alarms := d.alarms.filter fun a => !(gone a)
      rings := d.rings.filter fun r => r.asid != asid
      retired := d.retired.filter fun r => r.1 != asid }
    cores := s.cores.map fun k => { k with sts := k.sts.filter fun x => x.asid != asid }
    hub := { s.hub with
      objects := s.hub.objects.filter fun o => o.asid != asid, farRet := s.hub.farRet.filter fun r => r.1 != asid } }
  putCtx s { c with
    v := false, ending := false, shb := 0#64, itab := 0#64, rbase := 0#64, rsize := 0, snp := false, bpev := 0#8
    smg := false, en := false, rhead := 0, rtail := 0, rdrop := 0, cont := [], contUsed := [], saveUsed := [] }

/-- CONTEXT_END. -/
def execContextEnd (asid : Nat) (s : State) : Host.Outcome State Fault Refusal :=
  .next (if (getCtx s asid).ending && !(ctxBusy s asid) then endCtx s asid else s)

/-! ### Released host-wait records (R453, R473, R516 word 7) -/

/-- An action is allowed for a record. -/
def actAllowed (k : HwKind) (act : Nat) : Bool :=
  match k with
  | .breakpoint race _ => act == 0 || act == 2 || (act == 1 && race)
  | _ => act ≤ 3

def setSts (s : State) (asid n : Nat) : State := updCtx s asid fun c => { c with sts := n }

/-- Release the orphan copy or decoder job named by an id (R451, R453). -/
def releaseOrphan (s : State) (asid id act : Nat) : State :=
  let copies := s.cores.flatMap fun c => (c.copies.filter fun j => j.asid == asid && j.orphan == id).map fun j => (c.pos, j)
  let decs := s.cores.flatMap fun c => (c.decs.filter fun j => j.asid == asid && j.orphan == id).map fun j => (c.pos, j)
  match copies, decs with
  | (p, j) :: _, _ =>
    if act == 0 then setSts (copyRestart s p j.slot) asid 0
    else if act == 3 then setSts s asid 2
    else setSts (copyCancel s p j) asid 0
  | [], (p, j) :: _ =>
    if act == 0 then setSts (decRestart s p j.slot) asid 0
    else if act == 3 then setSts s asid 2
    else setSts (decCancel s p j) asid 0
  | [], [] => setSts s asid 1

/-- A write to word 7: the record becomes queued at its level with its action, or the outcome says why not. -/
def releaseHost (s : State) (asid id act : Nat) : State :=
  if id == 0 then setSts s asid 1
  else match s.warps.find? fun w => w.asid == asid && w.status == .hostWait && w.hwId == id with
    | some w =>
      if actAllowed w.hwKind act then
        let s := updWarp s w.uid fun w => { w with status := .queued, hwAct := act }
        setSts (queueRec s w.die (.hostWait w.uid) asid w.lvl w.ceil) asid 0
      else setSts s asid 2
    | none => releaseOrphan s asid id act

/-- HOST_WAIT_RESUME: action 0. -/
def execHostWaitResume (asid id : Nat) (s : State) : Host.Outcome State Fault Refusal := .next (releaseHost s asid id 0)

/-- HOST_WAIT_SKIP: action 1. -/
def execHostWaitSkip (asid id : Nat) (s : State) : Host.Outcome State Fault Refusal := .next (releaseHost s asid id 1)

/-- HOST_WAIT_EXIT: action 2. -/
def execHostWaitExit (asid id : Nat) (s : State) : Host.Outcome State Fault Refusal := .next (releaseHost s asid id 2)

/-- HOST_WAIT_REENTER: action 3. -/
def execHostWaitReenter (asid id : Nat) (s : State) : Host.Outcome State Fault Refusal := .next (releaseHost s asid id 3)

/-! ### Frame pools (R519) -/

/-- A frame of a die's DRAM that is offered for contexts (R277). -/
def offeredFrame (s : State) (die fr : Nat) : Bool :=
  fr % 65536 == 0 && dramOk fr && homeDie fr == die && decide (fr % 2 ^ 36 / 65536 < (getDie s die).freefr)

/-- Data of a cleared interface has still to be filled over (R523). -/
def unfilled (s : State) (a : Nat) : Bool := s.hub.cleared.any fun c => decide (c.1 ≤ a) && decide (a < c.1 + c.2)

/-- A frame may join a die's pool: offered for contexts, in no pool, and filled since its interface was cleared (R277, R519,
R523). -/
def poolOk (s : State) (die fr : Nat) : Bool :=
  offeredFrame s die fr && !(s.dies.any fun d => d.pool.contains fr) && !(unfilled s (s.dev * 2 ^ 52 + fr))

/-- A frame joins a die's pool. -/
def fpoolPut (s : State) (die frame : Nat) : State :=
  if 8 ≤ die then s
  else if poolOk s die frame then updDie s die fun d => { d with pool := d.pool ++ [frame] }
  else countDrop s

/-- FPOOL_WRITE. -/
def execFpoolWrite (die frame : Nat) (s : State) : Host.Outcome State Fault Refusal := .next (fpoolPut s die frame)

/-- A charged frame is returned. -/
def fretPut (s : State) (w : Word) : State :=
  let asid := bitsAt w.toNat 0 10
  let fr := bitsAt w.toNat 16 36 * 65536
  if (getCtx s asid).used == 0 || !(offeredFrame s (homeDie fr) fr) then countDrop s
  else
    let s := updCtx s asid fun c => { c with used := c.used - 1 }
    let keep := fun (o : CodeObj) => !(o.shared.any fun p => p.2.contains (s.dev * 2 ^ 52 + fr))
    let s := updHub s fun h => { h with objects := h.objects.filter keep }
    updDie s (homeDie fr) fun d => { d with filling := d.filling ++ [fr] }

/-- FRET_WRITE. -/
def execFretWrite (w : Word) (s : State) : Host.Outcome State Fault Refusal := .next (fretPut s w)

/-- A frame is filled with no step waiting for it: a line that the host holds is asked for first (R511). -/
def fillWhole (s : State) (da n : Nat) : State :=
  match heldIn s da n with
  | some l => sendSnoop s l
  | none => fillRange s da n

/-- FRAME_FILL_COMPLETION. -/
def execFrameFillCompletion (frame : Nat) (s : State) : Host.Outcome State Fault Refusal :=
  .next (
    let die := homeDie frame
    let da := s.dev * 2 ^ 52 + frame
    if !((getDie s die).filling.contains frame) || 8 ≤ die then s
    else match heldIn s da 65536 with
    | some l => sendSnoop s l
    | none => updDie (fillFrame s da) die fun d =>
        { d with
          filling := eraseFirst (· == frame) d.filling
          pool := if d.pool.contains frame then d.pool else d.pool ++ [frame] })

/-! ### The device number (R514) -/

/-- The domain address of a local address after the device number is set. -/
def rebase (n a : Nat) : Nat := a + n * 2 ^ 52

/-- The device number is written once after a cold reset. What memory already holds keeps its physical addresses. -/
def devnumPut (s : State) (n : Nat) : State :=
  if s.hub.devnum.isSome || 4096 ≤ n then s
  else
    let line := fun l => l + n * 2 ^ 46
    { s with
      mem := { bytes := s.mem.bytes.map fun c => (rebase n c.1, c.2)
               tags := s.mem.tags.map fun c => (c.1 + n * 2 ^ 49, c.2) }
      bad := s.bad.map line
      soft := s.soft.map line
      hub := { s.hub with
        devnum := some n, hostLines := s.hub.hostLines.map line, snoops := s.hub.snoops.map line } }

/-- DEVNUM_WRITE. -/
def execDevnumWrite (n : Nat) (s : State) : Host.Outcome State Fault Refusal := .next (devnumPut s n)

end Sys2Proof.Machine
end

