-- ==== Sys2Proof/Machine/Trust.lean ====
section
/-! DEFINITION. TDISP interfaces and resets (spec/25 R522, R523, R528). -/

namespace Sys2Proof.Machine

/-! ### Clearing contexts (R523 step 1) -/

/-- What a core keeps of other contexts. -/
def clearCore (mine : Nat → Bool) (gone : Nat → Bool) (c : Core) : Core :=
  { c with
    sts := c.sts.filter fun x => !(mine x.asid)
    copies := c.copies.filter fun j => !(mine j.asid)
    decs := c.decs.filter fun j => !(mine j.asid)
    mq := c.mq.filter fun m => !(mine m.asid)
    locks := c.locks.filter fun l => !(mine l.asid)
    icache := c.icache.filter fun l => !(mine l.asid)
    last := c.last.map fun q => if q.1.any gone then (none, 0) else q
    requests := c.requests.filter fun u => !(gone u)
    wanted := c.wanted.filter fun a => !(mine a) }

/-- What a die keeps of other contexts: `line` tells which waiting lines go to queues of the contexts. -/
def clearDie (mine : Nat → Bool) (gone : Nat → Bool) (line : Nat → Bool) (d : Die) : Die :=
  { d with
    queue := d.queue.filter fun r => !(mine r.asid)
    credit := d.credit.filter fun c => !(mine c.2.1)
    turn := d.turn.filter fun t => !(mine t.2)
    bins := d.bins.filter fun b => !(mine b.asid)
    rings := d.rings.filter fun r => !(mine r.asid)
    spillOrd := d.spillOrd.filter fun a => !(mine a)
    alarms := d.alarms.filter fun a => !(gone a.warp)
    joins := (d.joins.map fun j => { j with warps := j.warps.filter fun u => !(gone u) }).filter fun j => !j.warps.isEmpty
    engines := d.engines.map fun q => q.filter fun o => !(mine o.asid)
    retired := d.retired.filter fun r => !(mine r.1)
    overflow := d.overflow.filter fun l => !(line l.1) }

/-- Discard every warp, record, copy, matrix batch, sparse operation and queued line of the contexts in `mine`. -/
def clearAsids (s : State) (mine : Nat → Bool) : State :=
  let gone := fun (u : Nat) => s.warps.any fun w => w.uid == u && mine w.asid
  let line := fun (n : Nat) => (queueEntry s n).any fun q => mine q.asid
  let s := { s with
    warps := s.warps.filter fun w => !(mine w.asid)
    cores := s.cores.map (clearCore mine gone)
    dies := s.dies.map (clearDie mine gone line)
    launches := s.launches.filter fun l => !(mine l.asid)
    crounds := s.crounds.filter fun r => !(mine r.asid) }
  let s := updHub s fun h => { h with
    farEng := h.farEng.map fun e => (e.1, e.2.filter fun o => !(mine o.asid)), farRet := h.farRet.filter fun r => !(mine r.1) }
  ((s.ctxs.filter fun c => mine c.asid).map fun c => c.asid).foldl endCtx s

/-- The contexts of a function (R515, R516). -/
def fnCtxs (s : State) (fn : Nat) : List Ctx := s.ctxs.filter fun c => c.fn == fn

/-- The pages that the tables at `t` map, as domain address and size (R275). -/
def tablePages (s : State) (who : Who) : List Nat → Nat → List (Nat × Nat)
  | [], _ => []
  | lvl :: rest, t =>
    if !(dramOk t) then []
    else (tableKeys s (s.dev * 2 ^ 52 + t)).flatMap fun k =>
      let p := peekWord s who (s.dev * 2 ^ 52 + t + 8 * k)
      if !(pteV p) then []
      else if pteLeaf p then (if leafBad p lvl then [] else [(pteFrame p, pageSize lvl)])
      else if bitsAt p 52 12 == 0 && bitsAt p 2 11 == 0 then tablePages s who rest (bitsAt p 13 39 * 2 ^ 13)
      else []

/-- The pages of this device that an address space maps. -/
def asidPages (s : State) (asid : Nat) : List (Nat × Nat) :=
  let e := (asidEntry s asid).toNat
  if bitAt e 0 then
    (tablePages s (sysWho asid ⟨0, 0, 0⟩ 0) [3, 2, 1, 0] (bitsAt e 13 39 * 2 ^ 13)).filter fun p => domDev p.1 == s.dev
  else []

/-- Pages that contexts of a function map and no other address space does: data of its own. -/
def ownPages (s : State) (fn : Nat) : List (Nat × Nat) :=
  ((fnCtxs s fn).flatMap fun c => asidPages s c.asid).filter fun p =>
    (leavesOver s p.1).all fun e => (getCtx s e.1).fn == fn

/-- What pages whose key is destroyed hold is left open, each byte (R523, log 6): their plaintext is gone for every reader. -/
def scramble (s : State) (ps : List (Nat × Nat)) : State :=
  ps.foldl (fun s p =>
    let x := fun (k : Nat) => BitVec.ofNat 8 ((Config.noKey (s.freeCtr + k / 8)).toNat / 256 ^ (k % 8))
    { s with mem := memScramble s.mem p.1 p.2 x, freeCtr := s.freeCtr + p.2 / 8 + 1 }) s

/-- Clear the contexts of a function. Its pages must be filled before they are assigned again, and host transfers that wait
for its lines are aborted; `gone` tells that its key is destroyed (R523). -/
def clearVf (s : State) (fn : Nat) (gone : Bool) : State :=
  let ps := ownPages s fn
  let inside := fun (l : Nat) => ps.any fun p => decide (p.1 ≤ 64 * l) && decide (64 * l < p.1 + p.2)
  let s := clearAsids s fun a => (getCtx s a).fn == fn
  updHub (if gone then scramble s ps else s) fun h => { h with
    cleared := h.cleared ++ ps, snoops := h.snoops.filter fun l => !(inside l) }

/-- The memory key of a function is made or destroyed (R523, R524). -/
def setKey (s : State) (fn : Nat) (on : Bool) : State :=
  updHub s fun h => { h with keys := h.keys.filter (· != fn) ++ if on then [fn] else [] }

/-! ### TDISP (R522, R523) -/

def vfState (s : State) (vf : Nat) : Option VfSt := (findVf s vf).map fun v => v.st

/-- LOCK_INTERFACE_REQUEST. The locked interface has a memory key of its own. -/
def execLockInterfaceRequest (vf : Nat) (s : State) : Host.Outcome State Fault Refusal :=
  .next (if vfState s vf == some .unlocked then setKey (setVf s vf fun v => { v with st := .locked }) vf true else s)

/-- START_INTERFACE_REQUEST. -/
def execStartInterfaceRequest (vf : Nat) (s : State) : Host.Outcome State Fault Refusal :=
  .next (if vfState s vf == some .locked then setVf s vf fun v => { v with st := .run } else s)

/-- A stop clears the interface's contexts and then completes. -/
def stopVf (s : State) (vf : Nat) : State :=
  match vfState s vf with
  | none => s
  | some _ => setVf (clearVf s vf false) vf fun v => { v with st := .unlocked }

/-- STOP_INTERFACE_REQUEST. -/
def execStopInterfaceRequest (vf : Nat) (s : State) : Host.Outcome State Fault Refusal :=
  .next (match vfState s vf with
    | some .unlocked => s
    | _ => stopVf s vf)

/-- A breach of a locked or running interface (R523). -/
def breachVf (s : State) (vf : Nat) : State :=
  match vfState s vf with
  | some .locked | some .run => setVf (setKey (clearVf s vf true) vf false) vf fun v => { v with st := .error }
  | _ => s

/-- INTERFACE_BREACH. -/
def execInterfaceBreach (vf : Nat) (s : State) : Host.Outcome State Fault Refusal := .next (breachVf s vf)

/-- FUNCTION_LEVEL_RESET: as a stop (R528). -/
def execFunctionLevelReset (vf : Nat) (s : State) : Host.Outcome State Fault Refusal := .next (stopVf s vf)

/-! ### Resets (R528) -/

/-- A bring-up ends, or leaves the device in reset with the status code of the step that failed (log 6). -/
def bringUp (old new : State) : State :=
  let k := Config.bootStatus old.freeCtr
  { new with
    hub := { new.hub with status := k, inReset := k != 0 }
    agenda := old.agenda, tick := old.tick, freeCtr := old.freeCtr + 1 }

/-- COLD_RESET: every step; memory is filled with zeros. -/
def execColdReset (s : State) : Host.Outcome State Fault Refusal := .next (bringUp s State.reset)

/-- What a warm reset keeps: the results of steps 1 to 4 and DEVNUM. -/
def warmState (s : State) : State :=
  { State.reset with
    mem := s.mem, bad := s.bad, soft := s.soft
    hub := { Hub.reset with
      devnum := s.hub.devnum, digest := s.hub.digest, windows := s.hub.windows, rates := s.hub.rates
      keys := s.hub.keys, cleared := s.hub.cleared } }

/-- WARM_RESET: steps 5 to 9. -/
def execWarmReset (s : State) : Host.Outcome State Fault Refusal := .next (bringUp s (warmState s))

end Sys2Proof.Machine
end

