-- ==== Sys2Proof/Machine/Registers.lean ====
section
/-! DEFINITION. Hub registers: the control blocks, the ASID and queue tables, the management window, the Blotter, and
the bounds on firmware (spec/25 R514-R517, R524, R527; spec/21 R479, R480). -/

namespace Sys2Proof.Machine

/-! ### Control blocks (R516) -/

/-- A value brought into a range. -/
def clamp (lo hi x : Nat) : Nat := max lo (min hi x)

/-- Bits `hi:lo` of a word, in place. -/
def fieldBits (x lo hi : Nat) : Nat := bitsAt x lo (hi - lo + 1) * 2 ^ lo

/-- Word 0: DBG, WGT, FN and V. The owner of an interface that is frozen stays as it is. -/
def blockWord0 (s : State) (asid x : Nat) : State :=
  let c := getCtx s asid
  let f := bitsAt x 0 6
  let s := putCtx s { c with
    dbg := bitAt x 62, wgt := max 1 (bitsAt x 40 8)
    fn := if vfFrozen s c.fn || vfFrozen s f then c.fn else f }
  if bitAt x 63 then goLive s asid
  else if c.v then updCtx s asid fun c => { c with ending := true }
  else s

/-- A write of word `k` of a control block: fields are clamped to their ranges, reserved bits are ignored. -/
def blockWrite (s : State) (asid k x : Nat) : State :=
  let c := getCtx s asid
  match k with
  | 0 => blockWord0 s asid x
  | 1 => putCtx s { c with age := clamp 100 1000000 (bitsAt x 32 20), slice := clamp 50 1000000 (bitsAt x 0 20) }
  | 2 => putCtx s { c with wdog := min 3600000 (bitsAt x 0 22) }
  | 3 => if vfFrozen s c.fn then s else putCtx s { c with quota := bitsAt x 0 32 }
  | 4 => if c.v then s else putCtx s { c with dbgq := bitsAt x 16 12, escq := bitsAt x 0 12 }
  | 5 => if c.v then s else putCtx s { c with sapb := fieldBits x 18 51 }
  | 6 => if c.v then s else putCtx s { c with sacnt := bitsAt x 0 32 }
  | 7 => releaseHost s asid (bitsAt x 0 32) (bitsAt x 32 2)
  | 8 => putCtx s { c with pdtb := wordN (fieldBits x 17 55) }
  | 9 => putCtx s { c with lvtb := wordN (fieldBits x 7 55) }
  | 10 => putCtx s { c with svtb := wordN (fieldBits x 8 55) }
  | 11 => putCtx s { c with cardb := wordN (fieldBits x 12 55) }
  | 12 => putCtx s { c with spft := clamp 64 1048576 x }
  | 21 => putCtx s { c with nnext := fieldBits x 4 55 }
  | 22 => putCtx s { c with nend := fieldBits x 4 55 }
  | 23 =>
    let n := bitsAt x 0 6
    putCtx s { c with nchk := if n == 0 then 0 else clamp 4 26 n }
  | k => if 13 ≤ k && k ≤ 20 then putCtx s { c with bpa := setAt c.bpa (k - 13) (wordN (fieldBits x 3 55)) } else s

/-- What word `k` of a control block reads as. -/
def blockRead (c : Ctx) (k : Nat) : Nat :=
  match k with
  | 0 => boolNat c.v * 2 ^ 63 + boolNat c.dbg * 2 ^ 62 + c.wgt * 2 ^ 40 + c.fn
  | 1 => c.age * 2 ^ 32 + c.slice
  | 2 => c.wdog
  | 3 => c.used * 2 ^ 32 + c.quota
  | 4 => c.dbgq * 2 ^ 16 + c.escq
  | 5 => c.sapb
  | 6 => c.sacnt
  | 7 => c.sts * 2 ^ 34
  | 8 => c.pdtb.toNat
  | 9 => c.lvtb.toNat
  | 10 => c.svtb.toNat
  | 11 => c.cardb.toNat
  | 12 => c.spft
  | 21 => c.nnext
  | 22 => c.nend
  | 23 => c.nchk
  | k => if 13 ≤ k && k ≤ 20 then (c.bpa.getD (k - 13) 0#64).toNat else 0

/-! ### The queue table (R517) and the ASID table (R272) -/

def queueSlot (s : State) (n : Nat) : QEnt := (s.hub.qtab.find? fun q => q.num == n).getD ⟨n, false, false, 0, 0, 0⟩

def putQueue (s : State) (q : QEnt) : State :=
  updHub s fun h => { h with qtab := q :: h.qtab.filter fun x => x.num != q.num }

/-- A write of a queue-table word: FN, ASID and DESC while V = 0; OVF is cleared by writing 1. -/
def queueWrite (s : State) (n k x : Nat) : State :=
  let q := queueSlot s n
  if k == 0 then
    let q' := { q with v := bitAt x 63, ovf := q.ovf && !(bitAt x 62) }
    putQueue s (if q.v then q' else { q' with fn := bitsAt x 48 6, asid := bitsAt x 32 10 })
  else if q.v then s
  else putQueue s { q with desc := fieldBits x 6 55 }

def queueRead (q : QEnt) (k : Nat) : Nat :=
  if k == 0 then boolNat q.v * 2 ^ 63 + boolNat q.ovf * 2 ^ 62 + q.fn * 2 ^ 48 + q.asid * 2 ^ 32 else q.desc

/-- A write of an ASID-table entry. -/
def asidWrite (s : State) (asid x : Nat) : State :=
  updHub s fun h => { h with asidTab := spSet 0#64 h.asidTab asid (wordN (fieldBits x 13 51 + x % 2)) }

/-! ### The Blotter's control register (R479) -/

/-- BLTCTL. -/
def bltctlPut (s : State) (x : Nat) : State :=
  let arm := bitAt x 0
  updHub s fun h => { h with blot := { h.blot with
    fcls := BitVec.ofNat 17 (bitsAt x 14 17), cen := bitAt x 8, fen := bitAt x 7, pen := bitAt x 6, sen := bitAt x 5
    arm := arm, fired := h.blot.fired && !arm, miss := if arm then 0 else h.blot.miss } }

def bltctlRead (b : Blotter) : Nat :=
  b.miss * 2 ^ 40 + b.fcls.toNat * 2 ^ 14 + boolNat b.fired * 2 ^ 13 + boolNat b.cen * 256 + boolNat b.fen * 128
    + boolNat b.pen * 64 + boolNat b.sen * 32 + boolNat b.arm

/-- BLTCTL_WRITE. -/
def execBltctlWrite (w : Word) (s : State) : Host.Outcome State Fault Refusal := .next (bltctlPut s w.toNat)

/-- BLOTI_RISING_EDGE (R480). -/
def execBlotiRisingEdge (s : State) : Host.Outcome State Fault Refusal :=
  .next (if s.hub.blot.pen then blotFire s 1 0 0 0 else s)

/-- The counter match of a turn that takes CYCLE from `old` to its present value (R479). -/
def cycleMatch (s : State) (old : Nat) : State :=
  let c := s.hub.blot.cmp.toNat
  if s.hub.blot.cen && decide (old < c) && decide (c ≤ s.cycle) then
    { blotFire { s with cycle := c } 2 0 0 0 with cycle := s.cycle }
  else s

/-- BLTCMP_MATCH: the device comes to the cycle at which the counter equals BLTCMP (log 6). -/
def execBltcmpMatch (s : State) : Host.Outcome State Fault Refusal :=
  .next (let c := s.hub.blot.cmp.toNat
    if s.cycle < c then cycleMatch { s with cycle := c } s.cycle else s)

/-- BLOTO_PULSE_END (R480). -/
def execBlotoPulseEnd (s : State) : Host.Outcome State Fault Refusal :=
  .next (updHub s fun h => { h with blot := { h.blot with out := false } })

/-! ### The register map (R514) -/

def hubBase : Nat := 0x8000000000

/-- A frame of this device that a pool port of a die names. -/
def hubPortWrite (s : State) (o x : Nat) : State :=
  if o == 0 then devnumPut s (x % 4096)
  else if 0x48 ≤ o && o < 0x88 then fpoolPut s ((o - 0x48) / 8) x
  else if o == 0x88 then fretPut s (wordN x)
  else s

def hubPortRead (s : State) (o : Nat) : Nat :=
  if o == 0 then s.dev
  else if 8 ≤ o && o < 0x48 then (getDie s ((o - 8) / 8)).freefr
  else if 0x48 ≤ o && o < 0x88 then (getDie s ((o - 0x48) / 8)).pool.length
  else if o == 0x88 then (s.dies.map fun d => d.filling.length).sum
  else if o == 0x90 then boolNat s.hub.inReset
  else if o == 0x98 then s.hub.status
  else 0

/-- A write in the management window; the places of its registers are the model's (log 31). -/
def mgmtWrite (s : State) (o x : Nat) : State :=
  if o == 0 then bltctlPut s x
  else if o == 8 then updHub s fun h => { h with blot := { h.blot with cmp := wordN x } }
  else if o == 16 then updHub s fun h => { h with plim := clamp 2400 3200 x }
  else if o == 0x18 then updHub s fun h => { h with mgmt := spSet 0#64 h.mgmt o (wordN x) }
  else if 0x1000 ≤ o && o < 0x1200 then
    let base := (o - 0x1000) * 8
    let on := ((List.range 64).filter (bitAt x)).map fun k => base + k
    updHub s fun h => { h with enabled := h.enabled.filter (fun d => d / 64 != base / 64) ++ on }
  else s

/-- The options of a CXL port that its capability register reports, in the order of R510: 256-byte flits, 68-byte flits for
training, x16, x8, Type 2, HDM-DB; then, absent, HDM-H, HDM-D, multi-logical device, dynamic capacity, switching. -/
def portCaps : Nat := 0x3F

/-- The core that the selection register names. -/
def snapPos (s : State) : Pos :=
  let n := (spGet 0#64 s.hub.mgmt 0x18).toNat
  ⟨n / 160, n / 10 % 16, n % 10⟩

/-- The words of a core's snapshot. -/
def coreWords (c : CoreSnap) : List Nat :=
  [c.cycle, c.asid, c.batch, c.depth, c.busy, c.bconf] ++ c.quads.flatMap fun q => [q.1.toNat, q.2.1.toNat, q.2.2]

/-- What a core holds latched: one that had no state of its own latched its CYCLE with the trigger. -/
def snapOf (s : State) (p : Pos) : CoreSnap :=
  let c := (getCore s p).snap
  if c == CoreSnap.zero then { c with cycle := s.hub.blot.cycle } else c

/-- The snapshot registers (R480, R525): the trigger, the selected core, its die, the hub. -/
def snapRead (s : State) (o : Nat) : Nat :=
  let b := s.hub.blot
  if o < 0x80 then [b.src, b.asid, b.wnum, b.code, b.cycle, boolNat b.out].getD ((o - 0x40) / 8) 0
  else if o < 0x200 then (coreWords (snapOf s (snapPos s))).getD ((o - 0x80) / 8) 0
  else if o < 0x400 then (getDie s (snapPos s).die).snap.getD ((o - 0x200) / 8) 0
  else if o < 0x600 then spGet 0 b.pcs ((o - 0x400) / 8)
  else if o < 0x608 then (b.links.map fun l => 2 ^ l).sum
  else boolNat (b.ports.contains ((o - 0x608) / 8))

def mgmtRead (s : State) (o : Nat) : Nat :=
  if o == 0 then bltctlRead s.hub.blot
  else if o == 8 then s.hub.blot.cmp.toNat
  else if o == 16 then s.hub.plim
  else if o == 0x20 then portCaps
  else if o == 0x28 then hdmSize s
  else if 0x40 ≤ o && o < 0x1000 then snapRead s o
  else if 0x1000 ≤ o && o < 0x1200 then
    ((List.range 64).map fun k => if s.hub.enabled.contains ((o - 0x1000) * 8 + k) then 2 ^ k else 0).sum
  else (spGet 0#64 s.hub.mgmt o).toNat

/-- The mailbox page (R520): ASID, address, size, go, status, base. Setting go makes a request, for which the Scrivener
chooses the base; a write while go is set is dropped. -/
def mailboxWrite (s : State) (fn k x : Nat) : State :=
  let m := s.hub.mailbox
  let put := fun (m : Mailbox) => updHub s fun h => { h with mailbox := m }
  if m.go || vfError s fn then s
  else match k with
    | 0 => put { m with asid := x % 1024 }
    | 1 => put { m with addr := x }
    | 2 => put { m with size := x }
    | 3 =>
      if bitAt x 0 then scrivener fn m.asid m.addr m.size (Config.choice s.freeCtr (2 ^ 40) % 2 ^ 40 * 65536)
        { s with freeCtr := s.freeCtr + 1 }
      else s
    | _ => s

def mailboxRead (m : Mailbox) (k : Nat) : Nat := [m.asid, m.addr, m.size, boolNat m.go, m.status, m.base].getD k 0

/-- A write of 64 bits to a hub register by a function: PF0 reaches the whole map, a VF its own assets. A queue port takes
writes of 64 bytes (R345), so a word there does nothing. -/
def hubWrite (s : State) (fn addr x : Nat) : State :=
  if addr % 8 != 0 || addr < hubBase then s
  else
    let o := addr - hubBase
    if o < 0x10000 then (if fn == 0 then hubPortWrite s o x else s)
    else if o < 0x12000 then
      let a := (o - 0x10000) / 8
      if mayWrite s fn (getCtx s a).fn then asidWrite s a x else s
    else if 0x40000 ≤ o && o < 0x80000 then
      let a := (o - 0x40000) / 256
      if mayWrite s fn (getCtx s a).fn then blockWrite s a (o % 256 / 8) x else s
    else if 0x80000 ≤ o && o < 0x90000 then
      let n := (o - 0x80000) / 16
      if fn == 0 && !(vfFrozen s (queueSlot s n).fn) then queueWrite s n (o % 16 / 8) x else s
    else if 0x180000 ≤ o && o < 0x181000 then mailboxWrite s fn ((o - 0x180000) / 8) x
    else if 0x190000 ≤ o && o < 0x1A0000 then (if fn == 0 then mgmtWrite s (o - 0x190000) x else s)
    else s

/-- A read of 64 bits by a function: all ones of an interface in ERROR (R523), zero outside a VF's assets (R515). -/
def hubRead (s : State) (fn addr : Nat) : Nat :=
  let own := fun (n x : Nat) => if fn == 0 || fn == n then x else 0
  if vfError s fn then 2 ^ 64 - 1
  else if addr % 8 != 0 || addr < hubBase then 0
  else
    let o := addr - hubBase
    if o < 0x10000 then own 0 (hubPortRead s o)
    else if o < 0x12000 then
      let a := (o - 0x10000) / 8
      own (getCtx s a).fn (asidEntry s a).toNat
    else if 0x40000 ≤ o && o < 0x80000 then
      let c := getCtx s ((o - 0x40000) / 256)
      own c.fn (blockRead c (o % 256 / 8))
    else if 0x80000 ≤ o && o < 0x90000 then own 0 (queueRead (queueSlot s ((o - 0x80000) / 16)) (o % 16 / 8))
    else if 0x180000 ≤ o && o < 0x181000 then
      own (getCtx s s.hub.mailbox.asid).fn (mailboxRead s.hub.mailbox ((o - 0x180000) / 8))
    else if 0x190000 ≤ o && o < 0x1A0000 then own 0 (mgmtRead s (o - 0x190000))
    else 0

/-- The interface report (R523): the base of its MMIO range and its MSI-X table, the HDM range that holds its frames, the
digest of the firmware, its ASIDs. Its signature is SPDM's. -/
def interfaceReport (s : State) (fn : Nat) : List Nat :=
  let cs := fnCtxs s fn
  let ps := cs.flatMap fun c => asidPages s c.asid
  let lo := ps.foldl (fun m p => min m p.1) (ps.headD (0, 0)).1
  let hi := ps.foldl (fun m p => max m (p.1 + p.2)) 0
  let v := findVf s fn
  [(v.map fun v => v.bar.toNat).getD 0, (v.map fun v => v.msix.toNat).getD 0, lo, hi, s.hub.digest]
    ++ cs.map fun c => c.asid

/-- A write of a function's BAR or of its MSI-X location, which a lock freezes: a breach then (R523). -/
def fieldWrite (s : State) (fn : Nat) (f : Vf → Vf) : State := if vfFrozen s fn then breachVf s fn else setVf s fn f

/-- HUB_REGISTER_WRITE, with the reads and the fields of a function that have no row of their own (log 31). -/
def execHubRegisterWrite (fn addr : Nat) (acc : HubAcc) (s : State) : Host.Outcome State Fault Refusal :=
  .next (match acc with
    | .write w => hubWrite s fn addr w.toNat
    | .read => hostAnswer s (leBytes 8 (hubRead s fn addr))
    | .bar w => fieldWrite s fn fun v => { v with bar := w }
    | .msix w => fieldWrite s fn fun v => { v with msix := w }
    | .report => updHub s fun h => { h with report := interfaceReport s fn })

/-! ### Firmware (R521, R524) -/

def fwAnswer (s : State) (l : List Word) : State := updHub s fun h => { h with fwData := l }

/-- Where a system or queue core's access is carried out: a line that the host holds is first taken back (R511). -/
def fwHome (s : State) (pa : Nat) : Option (State × Nat) :=
  match atHand s fun s => homeOf s (dieWho (homeDie pa) true) 0 (s.dev * 2 ^ 52 + pa) with
  | .ok t a => some (t, a)
  | _ => none

/-- Eight bytes of device memory by payload, or a hub register, under a right of the window table. What an uncorrectable line
gives is left open. -/
def fwRead (s : State) (right : FwWin → Bool) (addr : Nat) : State :=
  let open_ := { fwAnswer s [Config.telemetry s.freeCtr] with freeCtr := s.freeCtr + 1 }
  if !fwAllowed s right addr 8 then countDrop (fwAnswer s [0#64])
  else if !dramOk addr then fwAnswer s [wordN (hubRead s 0 addr)]
  else match fwHome s addr with
    | none => open_
    | some (s, a) =>
      if s.bad.contains (lineOf a) then open_ else fwAnswer (noteSoft s a) [wordN (memLoad s.mem a 8)]

/-- A firmware write. -/
def fwWrite (s : State) (addr : Nat) (w : Word) : State :=
  if !fwAllowed s (fun w => w.w) addr 8 then countDrop s
  else if !dramOk addr then hubWrite s 0 addr w.toNat
  else match fwHome s addr with
    | none => s
    | some (s, a) => if s.bad.contains (lineOf a) then s else hostPut s a (leBytes 8 w.toNat)

/-- The ENQ and DEQ ports of a queue (R514). -/
def enqPort (q : Nat) : Nat := hubBase + 0x100000 + 128 * q
def deqPort (q : Nat) : Nat := enqPort q + 64

/-- ENQ by a firmware core, as R344's step; a system core's line is noted as such (R235, R521). -/
def fwEnq (s : State) (core q : Nat) (line : List Word) : State :=
  if !fwAllowed s (fun w => w.w) (enqPort q) 64 then countDrop s
  else match queueEntry s q with
    | none => s
    | some e =>
      let ws := (List.range 7).map fun k => (⟨.raw, line.getD k 0#64⟩ : Val)
      match atHand s fun s => (readDesc s (portWho e) e.desc).bind fun s d =>
          (enqStep s none (portWho e) e.desc ws (bitsAt (line.getD 7 0#64).toNat 8 8)).map fun ok => (ok, d.tail) with
      | .ok t (true, n) => if core < 4 then updHub t fun h => { h with sysLines := h.sysLines ++ [(q, n)] } else t
      | _ => s

/-- DEQ by a firmware core. -/
def fwDeq (s : State) (q : Nat) : State :=
  let zeros := fun (s : State) => fwAnswer s (List.replicate 8 0#64)
  if !fwAllowed s (fun w => w.r) (deqPort q) 64 then countDrop (zeros s)
  else match queueEntry s q with
    | none => zeros s
    | some e => match atHand s fun s => deqStep s none (portWho e) e.desc with
      | .ok t (some l) => drainLines (fwAnswer t (l.map fun v => v.pl))
      | _ => zeros s

/-- A line that a core writes to host memory through CXL.cache. -/
def hostMemPut (s : State) (addr : Nat) (line : List Word) : State :=
  updHub s fun h => { h with hostMem := ((List.range 8).zip line).foldl (fun m p => spSet 0#64 m (addr / 64 * 8 + p.1) p.2) h.hostMem }

/-- FIRMWARE_CORE_ACCESS by one of the 52 system and queue cores: 8 bytes of device memory or of a hub register, an
instruction fetch, a queue's step, or a line of host memory, whose contents the host gives (R521, R524, log 47). -/
def execFirmwareCoreAccess (core : Nat) (acc : FwAccess) (s : State) : Host.Outcome State Fault Refusal :=
  .next (
    if 52 ≤ core then s
    else match acc with
      | .read a => if a % 8 == 0 then fwRead s (fun w => w.r) a else s
      | .write a w => if a % 8 == 0 then fwWrite s a w else s
      | .fetch a => fwRead (updHub s fun h => { h with fwPcs := spSet 0 h.fwPcs core a }) (fun w => w.x) (a / 8 * 8)
      | .enq q l => fwEnq s core q l
      | .deq q => fwDeq s q
      | .hostRead _ l => fwAnswer s (l.take 8)
      | .hostWrite a l => hostMemPut s a l)

end Sys2Proof.Machine
end

