-- ==== Sys2Proof/Machine/Package.lean ====
section
/-! DEFINITION. Links, other devices, background activity, clocks and limits (spec/24 R497, R506-R508; spec/25
R525, R527). -/

namespace Sys2Proof.Machine

/-! ### Links (R497, R508, R525) -/

/-- FLIT_RESEND: invisible but for the count. -/
def execFlitResend (link : Nat) (s : State) : Host.Outcome State Fault Refusal :=
  .next (updHub s fun h => { h with resends := spSet 0 h.resends link (spGet 0 h.resends link + 1) })

/-- DIE_LINK_RETRAIN: the link's traffic waits. -/
def execDieLinkRetrain (link : Nat) (s : State) : Host.Outcome State Fault Refusal :=
  .next (if s.hub.linkDown.contains link then s else updHub s fun h => { h with linkDown := h.linkDown ++ [link] })

/-- DIE_LINK_RETRAIN_COMPLETE. -/
def execDieLinkRetrainComplete (link : Nat) (s : State) : Host.Outcome State Fault Refusal :=
  .next (updHub s fun h => { h with linkDown := h.linkDown.filter (· != link) })

/-- LINK_RECALIBRATION: timing only. -/
def execLinkRecalibration (_link : Nat) (s : State) : Host.Outcome State Fault Refusal :=
  .next (updHub s fun h => { h with recals := h.recals + 1 })

/-! ### Other devices (R506-R508) -/

/-- SCALE_UP_ROUTE_TRAINED: only once DEVNUM is written (R528 step 8). -/
def execScaleUpRouteTrained (dev : Nat) (s : State) : Host.Outcome State Fault Refusal :=
  .next (
    if 4096 ≤ dev || s.hub.devnum.isNone || s.hub.routes.contains dev then s
    else updHub s fun h => { h with routes := h.routes ++ [dev] })

/-- DEVICE_UNREACHABLE. -/
def execDeviceUnreachable (dev : Nat) (s : State) : Host.Outcome State Fault Refusal :=
  .next (updHub s fun h => { h with routes := h.routes.filter (· != dev) })

/-- SCALEUP_REQUEST_TIMEOUT: the warp's next request to another device, its own or that of an engine that works for it,
is given up (R508). -/
def execScaleupRequestTimeout (w : Nat) (s : State) : Host.Outcome State Fault Refusal :=
  .next (
    if (findWarp s w).isNone || s.hub.lapsed.contains w then s
    else updHub s fun h => { h with lapsed := h.lapsed ++ [w] })

/-- The requests of another device, at the die that holds their line. -/
def remoteWho (asid pa : Nat) : Who := { dieWho (homeDie pa) true with asid := asid }

/-- What this device answers the last request of another with. -/
def remoteAnswer (s : State) (l : List Val) : State := updHub s fun h => { h with remoteData := l }

/-- A word at a place of this device's DRAM, read by another device; a retraining link or a line the host holds makes the
request wait within the step (log 33). -/
def remoteRead (s : State) (pa : Nat) (raw : Bool) : Res Val :=
  if !dramOk pa then .bad s operandFlt
  else (physLoadW s (remoteWho 0 pa) 0 (s.dev * 2 ^ 52 + pa)).bind fun s p =>
    match if raw then some ⟨.raw, wordN p.2⟩ else valOfCode p.1 p.2 with
    | some v => .ok s v
    | none => .bad s (flt .tagFault 0)

/-- Write `n` bytes there, with a tag or leaving it. An uncorrectable line keeps what it has. -/
def remoteWrite (s : State) (pa n x : Nat) (t : Option (BitVec 4)) : Res Unit :=
  if !dramOk pa then .bad s operandFlt
  else physStore s (remoteWho 0 pa) pa (s.dev * 2 ^ 52 + pa) n x t

/-- A value of a request. -/
def twVal (x : TagWord) : Val := ⟨x.t, x.w⟩

/-- The tag that a write leaves on a page. -/
def pageTag (raw : Bool) (t : Tag) : Option (BitVec 4) := if raw then none else some (BitVec.ofNat 4 t.toNat)

/-- An atomic step on successive words (R334): the old words, and the new ones where there are some. -/
def remoteStep (s : State) (pa : Nat) (raw : Bool) (n : Nat) (new : List Val → Option (List Val)) : Res (List Val) :=
  if pa % (8 * n) != 0 then .bad s operandFlt
  else ((List.range n).foldl (fun (r : Res (List Val)) k => r.bind fun s l =>
      (remoteRead s (pa + 8 * k) raw).map fun v => l ++ [v]) (.ok s [])).bind fun s old => match new old with
    | none => .ok s old
    | some vs => ((vs.zipIdx).foldl (fun (r : Res Unit) p => r.bind fun s _ =>
        remoteWrite s (pa + 8 * p.2) 8 p.1.n (pageTag raw p.1.tag)) (.ok s ())).map fun _ => old

/-- The operation of an engine that a request names; check 7 of R365. -/
def remoteKind (q : Region) : RemoteSp → Option SpKind
  | .sld => some .sld
  | .sst v => (acceptVal q.etag (twVal v)).map .sst
  | .sxch v => (acceptVal q.etag (twVal v)).map .sxch
  | .sadd op v => if saddOk q.etag op (twVal v) then some (.sadd op (twVal v)) else none
  | .scas e n => (acceptVal q.etag (twVal e)).bind fun e => (acceptVal q.etag (twVal n)).map fun n => .scas e n
  | .snext ge => some (.snext ge)
  | .sscan n ge lim => some (.sscan (n.toNat + 1) ge (lim.map fun l => l.toNat))
  | .sstat w all => some (.sstat w all)

/-- An operation on a stripe and on those it goes on to. -/
def remoteChain : Nat → State → SpOp → List Val → Res (List Val)
  | 0, s, _, l => .ok s l
  | n + 1, s, o, l => (spStep s o).bind fun s out =>
    let l := spMerge o.kind l out.vs
    match out.more with
    | some o => remoteChain n s o l
    | none => .ok s l

/-- An engine operation that another device sent: on the stripe of its key, or of its number for a statistic. -/
def remoteSparse (s : State) (asid desc : Nat) (key : Word) (str : Nat) (op : RemoteSp) : Res (List Val) :=
  (engRegion s (engWho asid 0 0) desc).bind fun s q =>
    let n := match op with
      | .sstat _ all => if all then 0 else str
      | _ => q.stripe key.toNat
    if !q.v || 2 ^ q.width ≤ key.toNat || q.nstr < n then .bad s operandFlt
    else match remoteKind q op with
      | none => .bad s typeFlt
      | some k => (stripeRead s (engWho asid 0 0) desc n).bind fun s t =>
        remoteChain 8 s ⟨t.eng, 0, 0, desc, asid, key.toNat, n, k, 0⟩ []

/-- Carry out a request at its home: the answer. -/
def remoteRes (s : State) (op : RemoteOp) : Res (List Val) :=
  match op with
  | .load a raw | .copyRead a raw => (remoteRead s (a / 8 * 8) raw).map fun v => [v]
  | .walk a => (remoteRead s (a / 8 * 8) true).map fun v => [v]
  | .store a raw x | .copyWord a raw x =>
    if a % 8 == 0 then (remoteWrite s a 8 x.w.toNat (pageTag raw x.t)).map fun _ => [] else .bad s operandFlt
  | .storePart a raw lg x =>
    if a % 2 ^ lg.toNat == 0 then (remoteWrite s a (2 ^ lg.toNat) x.toNat (pageTag raw .raw)).map fun _ => []
    else .bad s operandFlt
  | .copyWrite a raw b => (remoteWrite s a 1 b.toNat (pageTag raw .raw)).map fun _ => []
  | .atomic op a raw x => remoteStep s a raw 1 fun l => (atomNew op raw (rowAt l 0) (twVal x)).map fun v => [v]
  | .cas a raw e n => remoteStep s a raw 1 fun l => if casEq raw (rowAt l 0) (twVal e) then some [twVal n] else none
  | .cas2 a raw e0 e1 n0 n1 => remoteStep s a raw 2 fun l =>
      if casEq raw (rowAt l 0) (twVal e0) && casEq raw (rowAt l 1) (twVal e1) then some [twVal n0, twVal n1] else none
  | .sparse asid desc key str op => remoteSparse s asid desc key str.toNat op

/-- A request that cannot be carried out changes nothing here, and its answer has no words. -/
def remoteOp (s : State) (op : RemoteOp) : State :=
  match (atHand s fun s => remoteRes s op).undo s with
  | .ok s l => remoteAnswer s l
  | .bad s _ => remoteAnswer s []
  | .hold _ _ => s

/-- REMOTE_DEVICE_REQUEST, from another device that is reachable. -/
def execRemoteDeviceRequest (dev : Nat) (op : RemoteOp) (s : State) : Host.Outcome State Fault Refusal :=
  .next (if dev == s.dev || !(reachable s dev) then s else remoteOp s op)

/-! ### Background activity (R525) -/

/-- The patrol engine fills a page of a cleared interface with zero bytes (R523). -/
def fillCleared (s : State) (a : Nat) : Option State :=
  (s.hub.cleared.find? fun c => decide (c.1 ≤ a) && decide (a < c.1 + c.2)).map fun c => fillWhole s c.1 c.2

/-- PATROL_SCRUB of one line of this device's DRAM, at its home of the moment: a corrected error is counted and gone, an
uncorrectable line is counted and left. A line of a cleared interface is filled with its page. -/
def execPatrolScrub (line : Nat) (s : State) : Host.Outcome State Fault Refusal :=
  .next (
    let a := 64 * line
    let h := match migOf s a with
      | some m =>
        let off := a % 65536
        if m.moved.contains (off / 64) then m.new + off else m.old + off
      | none => a
    let l := lineOf h
    let die := homeDie h
    if domDev h != s.dev || !dramOk (domPa h) then s
    else if unfilled s h then (fillCleared s h).getD s
    else if s.bad.contains l then updDie s die fun d => { d with uncorrected := d.uncorrected + 1 }
    else if s.soft.contains l then
      updDie { s with soft := s.soft.filter (· != l) } die fun d => { d with corrected := d.corrected + 1 }
    else s)

/-- DRAM_REFRESH: timing only. -/
def execDramRefresh (die _bank : Nat) (s : State) : Host.Outcome State Fault Refusal :=
  .next (updDie s die fun d => { d with refreshed := d.refreshed + 1 })

/-- The telemetry words of a die, from offset `0x2000 + 512 die` of the management window: power and temperature, which
are left open, corrected errors, and queue depths by level (logs 6, 31). -/
def dieTelemetry (s : State) (d : Die) : List (Nat × Word) :=
  let at_ := fun (k : Nat) => 0x2000 + 512 * d.num + 8 * k
  [(at_ 0, Config.telemetry (s.freeCtr + 2 * d.num)), (at_ 1, Config.telemetry (s.freeCtr + 2 * d.num + 1)),
    (at_ 2, wordN d.corrected)]
    ++ (List.range 48).map fun l => (at_ (3 + l), wordN (d.queue.filter fun r => r.lvl == l).length)

/-- TELEMETRY_SAMPLE: dies, then resend counts by link. -/
def execTelemetrySample (s : State) : Host.Outcome State Fault Refusal :=
  .next (
    let ws := (s.dies.flatMap (dieTelemetry s)) ++ s.hub.resends.map fun r => (0x4000 + 8 * r.1, wordN r.2)
    let s := { s with freeCtr := s.freeCtr + 16 }
    updHub s fun h => { h with samples := h.samples + 1, mgmt := ws.foldl (fun m p => spSet 0#64 m p.1 p.2) h.mgmt })

/-! ### Clocks and limits (R527) -/

/-- DVFS_POINT_SELECT. -/
def execDvfsPointSelect (die point : Nat) (s : State) : Host.Outcome State Fault Refusal :=
  .next (if point < 4 then updDie s die fun d => { d with point := point } else s)

/-- POWER_TRIP. -/
def execPowerTrip (s : State) : Host.Outcome State Fault Refusal :=
  .next (updHub s fun h => { h with halved := true })

/-- THERMAL_LIMIT. -/
def execThermalLimit (die : Nat) (s : State) : Host.Outcome State Fault Refusal :=
  .next (updDie s die fun d => { d with point := 0 })

/-- THERMTRIP: the package stops. -/
def execThermtrip (s : State) : Host.Outcome State Fault Refusal :=
  .next (updHub s fun h => { h with stopped := true })

end Sys2Proof.Machine
end

