-- ==== Sys2Proof/Machine/Prefix.lean ====
section
/-! DEFINITION. The repeat prefix and the unassigned opcodes (spec/03 R77-R82, R87). -/

namespace Sys2Proof.Machine

/-- The prefix is checked together with the repeated instruction that follows it: fetch, the REP rules, the range
of every repetition unless the first is guarded off. Then the sequence begins (R79, R81, R85). -/
def repBegin (s : State) (w : Warp) (count : Nat) (steps : List Int) : State :=
  let va := (w.pc.toNat + 8) % 2 ^ 56
  match fetchPair s w va with
  | .hold h l => holdAt s w.uid h l
  | .bad t f => faultAll t w f w.em (8 + fetchSize s w va)
  | .ok t (x, lit) =>
    let r := Raw.ofWord x lit
    let size := 8 + wordSize x
    let eff := effLanes { w with replay := none } ⟨r.grd, r.gng == 1#1⟩
    if !repOk r steps then faultAll t w (flt .undefinedInstr 0) w.em size
    else if eff != 0#32 && !repRangeOk w r steps count then faultAll t w operandFlt eff size
    else updWarp t w.uid fun w => { w with pc := w.pc + 8#56, repc := count, replay := none, held := none }

/-- SRET has skipped every lane of the word at the PC: it continues where the frame says (R450). -/
def skipWord (s : State) (w : Warp) : State :=
  updWarp s w.uid fun w => match w.replay with
    | some r => { jumpTo w r.skipTo with repc := 0 }
    | none => w

/-- REP. -/
def execRep (count : BitVec 6) (ds as bs cs : BitVec 4) (s : State) : Host.Outcome State Fault Refusal :=
  match s.issuer with
  | none => .fault .noWarp
  | some w =>
    .next (if skipped w then skipWord s w else repBegin s w (count.toNat + 1) (repSteps ds as bs cs))

/-- A word whose opcode R86 does not assign. -/
def execUnassignedOpcode (x : Word) (s : State) : Host.Outcome State Fault Refusal :=
  match s.issuer with
  | none => .fault .noWarp
  | some w =>
    .next (if skipped w then skipWord s w else faultAll s w (flt .undefinedInstr 0) w.em (wordSize x))

end Sys2Proof.Machine
end

