-- ==== Sys2Proof/Machine/System.lean ====
section
/-! DEFINITION. Traps, services, HRET, breakpoints and special registers (spec/06 R180-R185,
spec/01 R24-R30, spec/04 R117). -/

namespace Sys2Proof.Machine

/-- A report taken after its instruction: SRET goes on with the next (R448, R449). -/
def afterReport (w : Warp) (f : LFault) (m : Mask) (size : Nat) : Report :=
  { wholeReport w f m size with kind := .after }

/-- A scalar INT operand within 0 to `top`. -/
def smallInt (v : Val) (top : Nat) : Option Nat :=
  if v.tag == .int && decide (v.n ≤ top) then some v.n else none

/-- TRAP (R180). -/
def execTrap (g : Guard) (a : Src) (s : State) : Host.Outcome State Fault Refusal :=
  issue s (scalarNo g [a]) fun s r =>
    match smallInt (r.val 0 0) 65535 with
    | none => faultReady s r typeFlt (srcsSize [a])
    | some c => takeFault s r.w.uid (afterReport r.w ⟨.instruction, 1, c, 0⟩ r.eff (srcsSize [a]))

/-- SYSC (R181). -/
def execSysc (g : Guard) (a : Src) (s : State) : Host.Outcome State Fault Refusal :=
  issue s { scalarNo g [a] with pre := fun w => if w.sup then some (flt .instruction 0) else none } fun s r =>
    match smallInt (r.val 0 0) 4095 with
    | none => faultReady s r typeFlt (srcsSize [a])
    | some c => takeFault s r.w.uid (afterReport r.w ⟨.systemCall, 0, c, 0⟩ r.eff (srcsSize [a]))

/-- BKPT (R183, R473, R475). -/
def execBkpt (g : Guard) (s : State) : Host.Outcome State Fault Refusal :=
  issue s (scalarNo g []) fun s r =>
    let rep := afterReport r.w (flt .instruction 25) r.eff 8
    if !r.w.sup && (getCtx s r.w.asid).dbg then
      debugEvent s r.w.uid 25 0xFF rep (.breakpoint false false)
    else takeFault s r.w.uid rep

/-- SNAP (R183, R479). -/
def execSnap (g : Guard) (a : Src) (s : State) : Host.Outcome State Fault Refusal :=
  issue s (scalarNo g [a]) fun s r =>
    let v := r.val 0 0
    if v.tag != .int then faultReady s r typeFlt (srcsSize [a])
    else
      let s := if s.hub.blot.sen && (getCtx s r.w.asid).snp then
          blotFire s 0 r.w.asid r.w.wnum (v.n % 65536)
        else s
      updWarp s r.w.uid fun w => advance w (srcsSize [a])

/-! ### HRET (R117) -/

/-- The entry on top was pushed by the present handler level. -/
def hretTop (w : Warp) : Option Rejoin :=
  match w.stack with
  | e :: _ =>
    if (e.kind == .handler || e.kind == .pending) && e.lvl == w.hframes.length then some e else none
  | [] => none

/-- Return through the handler rejoin entry `e` of frame `f` (R74, R117, R118). -/
def hretBack (s : State) (u : Nat) (e : Rejoin) (f : HFrame) (dv : Option Diverted) : State :=
  let s := updWarp s u fun w =>
    { frameBack (popEntry s w) f with em := e.mask, pc := e.pc, replay := none, held := none }
  match dv with
  | none => s
  | some dv =>
    match dv.redo with
    | some m => updWarp s u fun w => { w with replay := some ⟨m, dv.popped, [], false, e.pc⟩ }
    | none =>
      match findWarp s u with
      | none => s
      | some w =>
        let o := divLatch w dv
        let s := match dv.dst with
          | .chan c => chanPushResv s u c o
          | _ => s
        if dv.pushes then updWarp s u fun w => pushLatch w o else s

/-- HRET (R117, R182). -/
def execHret (a : Src) (s : State) : Host.Outcome State Fault Refusal :=
  issue s { insNo Guard.always [a] with
      shape := some true
      pre := fun w => if w.hnd && (hretTop w).isSome then none else some (flt .instruction 27) } fun s r =>
    match hretTop r.w, r.w.hframes with
    | some e, f :: rest =>
      let v : Opd := .vec (rowWith fun k => r.val 0 k)
      let (w, dv) := match f.div with
        | some dv => let (w, dv) := hretWrite r.w dv r.w.em v; (w, some dv)
        | none => (r.w, none)
      let s := updWarp s r.w.uid fun x =>
        { x with v := w.v, sreg := w.sreg, m := w.m, hframes := { f with div := dv } :: rest }
      if e.kind == .pending then
        updWarp s r.w.uid fun x => match dv with
          | some dv => handlerEntry (popEntry s x) dv e.pc e.mask e.rsn
          | none => x
      else hretBack s r.w.uid e f dv
    | _, _ => faultReady s r (flt .instruction 27) (srcsSize [a])

/-! ### Special registers (R24-R30) -/

/-- Registers of lane scope (R24). -/
def srLane (n : Nat) : Bool := n == 3 || n == 16 || n == 17 || n == 21

/-- Registers that MTS may not write (R24). -/
def srRo (n : Nat) : Bool :=
  (1 ≤ n && n ≤ 6) || (18 ≤ n && n ≤ 24) || n == 28 || n == 29 || n == 30

/-- Registers that only CPL 1 writes (R24). -/
def srSup (n : Nat) : Bool := (10 ≤ n && n ≤ 13) || n == 27 || (32 ≤ n && n ≤ 39)

/-- What MFS reads, in lane `k` for a register of lane scope (R24-R30, R184). -/
def srRead (s : State) (w : Warp) (n k : Nat) : Val :=
  let c := getCtx s w.asid
  match n with
  | 0 => vRaw w.em.toNat
  | 1 => vCode w.pc
  | 2 => vNat (wixNat w)
  | 3 => vNat k
  | 4 => vNat (cplNat w)
  | 5 => vRaw (gselNat w)
  | 6 => vNat w.asid
  | 7 => vNat (prioNat w)
  | 8 => vNat w.ncur
  | 9 => vNat w.nlim
  | 10 => ⟨.int, c.pdtb⟩
  | 11 => ⟨.int, c.lvtb⟩
  | 12 => ⟨.int, c.svtb⟩
  | 13 => ⟨.int, c.cardb⟩
  | 14 => vRaw (fpctlNat w)
  | 15 => vRaw w.fpst.toNat
  | 16 => rowAt w.ha k
  | 17 => rowAt w.hb k
  | 18 => vNat (hopNat w)
  | 19 => vCode w.hpc
  | 20 => vRaw w.flm.toNat
  | 21 => ⟨.int, w.fva.getD k 0#64⟩
  | 22 => ⟨.raw, w.fcause⟩
  | 23 => vNat w.repc
  | 24 => vNat (batchNat w)
  | 25 => vNat (getCore s w.pos).bconf
  | 26 => vRaw (regwinNat w)
  | 27 => vNat c.spft
  | 28 => vNat s.cycle
  | 29 => ⟨.ts, Config.wallClock s.freeCtr⟩
  | 30 => ⟨.raw, w.nrec⟩
  | 31 => vNat (getCluster s (clusterOf w.pos)).pfdrop
  | k => ⟨.code, c.bpa.getD (k - 32) 0#64⟩

/-- A destination that cannot take a value per lane. -/
def dstScalar : Dst → Bool
  | .reg (.s _) | .reg (.m _) => true
  | _ => false

/-- MFS executes per lane into a vector register, and for a register of lane scope (R184); into a channel too, which R184
does not name: DESIGN CHOICE (log 55). -/
def mfsVec (d : Dst) (n : Nat) : Bool :=
  match d with
  | .reg (.v _) => true
  | .reg (.s _) | .reg (.m _) => false
  | _ => srLane n

/-- MFS (R184). TIME reads a free value (log 6). -/
def execMfs (g : Guard) (d : Dst) (sr : BitVec 8) (s : State) : Host.Outcome State Fault Refusal :=
  let n := sr.toNat
  let i := { insOf g d [] with
    shape := some (mfsVec d n), chk := fun _ => !(srLane n && dstScalar d) }
  issue s i fun s' r =>
    let t := if n == 29 then s'.fresh.2 else s'
    finish s t i r {} ((execLanes r).map fun k => (k, .val (srRead s' r.w n k)))

/-- A base register's write: reserved bits `63:56` and the low `k` bits must be zero (R109, R121, R174,
R176, R446). -/
def baseOk (p k : Nat) : Bool := p < 2 ^ 56 && p % 2 ^ k == 0

/-- What MTS writes to a register of wider scope; none where it refuses the value (R185). -/
def srWrite (s : State) (w : Warp) (n : Nat) (x : Word) : Option State :=
  let p := x.toNat
  let ctx := fun (f : Ctx → Ctx) => some (updCtx s w.asid f)
  let warp := fun (f : Warp → Warp) => some (updWarp s w.uid f)
  match n with
  | 0 =>
    let em := x.setWidth 32 &&& ~~~w.exited
    if em == 0#32 then none else warp fun w => { w with em := em }
  | 7 =>
    let l := bitsAt p 0 6
    let l := if w.sup || decide (l ≤ 43) then min l w.ceil else min w.ceil 43
    warp fun w => { w with lvl := l }
  | 8 => if baseOk p 4 then warp fun w => { w with ncur := p } else none
  | 9 => if baseOk p 4 then warp fun w => { w with nlim := p } else none
  | 10 => if baseOk p 17 then ctx fun c => { c with pdtb := x } else none
  | 11 => if baseOk p 7 then ctx fun c => { c with lvtb := x } else none
  | 12 => if baseOk p 8 then ctx fun c => { c with svtb := x } else none
  | 13 => if baseOk p 12 then ctx fun c => { c with cardb := x } else none
  | 14 =>
    if 6 ≤ bitsAt p 0 3 then none
    else warp fun w => { w with
      nt := bitAt p 5, s52 := bitAt p 4, s43 := bitAt p 3, rm := BitVec.ofNat 3 p }
  | 15 => warp fun w => { w with fpst := BitVec.ofNat 7 p }
  | 25 => some (if bitAt p 0 then updCore s w.pos fun c => { c with bconf := 0 } else s)
  | 26 =>
    if 2 ^ 18 ≤ p || (bitAt p 17 && bitsAt p 8 9 == 0) || decide (256 < bitsAt p 0 8 + bitsAt p 8 9) then
      none
    else warp fun w => { w with rwEn := bitAt p 17, rwCnt := bitsAt p 8 9, rwFst := bitsAt p 0 8 }
  | 27 => if 64 ≤ p && p ≤ 1048576 then ctx fun c => { c with spft := p } else none
  | 31 => some (if bitAt p 0 then updCluster s w.pos fun c => { c with pfdrop := 0 } else s)
  | k => ctx fun c => { c with bpa := setAt c.bpa (k - 32) (x &&& 0x00FFFFFFFFFFFFF8#64) }

/-- Uses MTS refuses whatever the value (R24, R119, R185). -/
def mtsPre (n : Nat) (w : Warp) : Option LFault :=
  if srRo n || (srSup n && !w.sup) then some (flt .instruction 0)
  else if n == 0 && w.hnd then some (flt .instruction 28)
  else none

/-- MTS (R185). -/
def execMts (g : Guard) (a : Src) (sr : BitVec 8) (s : State) : Host.Outcome State Fault Refusal :=
  let n := sr.toNat
  let size := srcsSize [a]
  issue s { insNo g [a] with shape := some (srLane n), pre := mtsPre n } fun s r =>
    if srLane n then
      let row := rowWith fun k => r.val 0 k
      updWarp s r.w.uid fun w =>
        let w := if n == 16 then { w with ha := rowMerge r.eff row w.ha }
          else { w with hb := rowMerge r.eff row w.hb }
        advance w size
    else match srWrite s r.w n (r.val 0 0).pl with
      | none => faultReady s r (flt .instruction 0) size
      | some s => updWarp s r.w.uid fun w => advance w size

end Sys2Proof.Machine
end

