-- ==== Sys2Proof/Machine/Dispatch.lean ====
section
/-! DEFINITION. Dispatch: one arm per instruction, each one call of its meaning. -/

namespace Sys2Proof.Machine

def exec (i : Instr) (s : State) : Host.Outcome State Fault Refusal :=
  match i with
  | .add g d a b => Sys2Proof.Machine.execAdd g d a b s
  | .sub g d a b => Sys2Proof.Machine.execSub g d a b s
  | .mul g d a b => Sys2Proof.Machine.execMul g d a b s
  | .div g d a b => Sys2Proof.Machine.execDiv g d a b s
  | .idiv g d a b => Sys2Proof.Machine.execIdiv g d a b s
  | .mod g d a b => Sys2Proof.Machine.execMod g d a b s
  | .neg g d a => Sys2Proof.Machine.execNeg g d a s
  | .abs g d a => Sys2Proof.Machine.execAbs g d a s
  | .min g d a b => Sys2Proof.Machine.execMin g d a b s
  | .max g d a b => Sys2Proof.Machine.execMax g d a b s
  | .ceq g d a b => Sys2Proof.Machine.execCeq g d a b s
  | .cne g d a b => Sys2Proof.Machine.execCne g d a b s
  | .clt g d a b => Sys2Proof.Machine.execClt g d a b s
  | .cle g d a b => Sys2Proof.Machine.execCle g d a b s
  | .truth g d a => Sys2Proof.Machine.execTruth g d a s
  | .tagof g d a => Sys2Proof.Machine.execTagof g d a s
  | .tagset g t d a => Sys2Proof.Machine.execTagset g t d a s
  | .tagsetDyn g d a b => Sys2Proof.Machine.execTagsetDyn g d a b s
  | .tagis g d a b => Sys2Proof.Machine.execTagis g d a b s
  | .mov g d a => Sys2Proof.Machine.execMov g d a s
  | .iadd g ov d a b => Sys2Proof.Machine.execIadd g ov d a b s
  | .isub g ov d a b => Sys2Proof.Machine.execIsub g ov d a b s
  | .imul g ov d a b => Sys2Proof.Machine.execImul g ov d a b s
  | .imulh g u d a b => Sys2Proof.Machine.execImulh g u d a b s
  | .idivt g u d a b => Sys2Proof.Machine.execIdivt g u d a b s
  | .iremt g u d a b => Sys2Proof.Machine.execIremt g u d a b s
  | .imad g ov d a b c => Sys2Proof.Machine.execImad g ov d a b c s
  | .and g d a b => Sys2Proof.Machine.execAnd g d a b s
  | .or g d a b => Sys2Proof.Machine.execOr g d a b s
  | .xor g d a b => Sys2Proof.Machine.execXor g d a b s
  | .andn g d a b => Sys2Proof.Machine.execAndn g d a b s
  | .not g d a => Sys2Proof.Machine.execNot g d a s
  | .shl g wide d a b => Sys2Proof.Machine.execShl g wide d a b s
  | .shr g wide d a b => Sys2Proof.Machine.execShr g wide d a b s
  | .sar g wide d a b => Sys2Proof.Machine.execSar g wide d a b s
  | .rol g d a b => Sys2Proof.Machine.execRol g d a b s
  | .popc g d a => Sys2Proof.Machine.execPopc g d a s
  | .clz g d a => Sys2Proof.Machine.execClz g d a s
  | .ctz g d a => Sys2Proof.Machine.execCtz g d a s
  | .brev g d a => Sys2Proof.Machine.execBrev g d a s
  | .bfx g sx d a b => Sys2Proof.Machine.execBfx g sx d a b s
  | .bfi g d a b c => Sys2Proof.Machine.execBfi g d a b c s
  | .imin g d a b => Sys2Proof.Machine.execImin g d a b s
  | .imax g d a b => Sys2Proof.Machine.execImax g d a b s
  | .nmin g d a b => Sys2Proof.Machine.execNmin g d a b s
  | .nmax g d a b => Sys2Proof.Machine.execNmax g d a b s
  | .icmp g cnd d a b => Sys2Proof.Machine.execIcmp g cnd d a b s
  | .sel g mask d a b c => Sys2Proof.Machine.execSel g mask d a b c s
  | .lea g sc d a b c => Sys2Proof.Machine.execLea g sc d a b c s
  | .fadd g dbl rm d a b => Sys2Proof.Machine.execFadd g dbl rm d a b s
  | .fsub g dbl rm d a b => Sys2Proof.Machine.execFsub g dbl rm d a b s
  | .fmul g dbl rm d a b => Sys2Proof.Machine.execFmul g dbl rm d a b s
  | .ffma g dbl rm d a b c => Sys2Proof.Machine.execFfma g dbl rm d a b c s
  | .fdiv g dbl rm d a b => Sys2Proof.Machine.execFdiv g dbl rm d a b s
  | .fsqrt g dbl rm d a => Sys2Proof.Machine.execFsqrt g dbl rm d a s
  | .fmin g dbl d a b => Sys2Proof.Machine.execFmin g dbl d a b s
  | .fmax g dbl d a b => Sys2Proof.Machine.execFmax g dbl d a b s
  | .fcmp g dbl cnd d a b => Sys2Proof.Machine.execFcmp g dbl cnd d a b s
  | .frnd g dbl rm d a => Sys2Proof.Machine.execFrnd g dbl rm d a s
  | .fabs g dbl d a => Sys2Proof.Machine.execFabs g dbl d a s
  | .fneg g dbl d a => Sys2Proof.Machine.execFneg g dbl d a s
  | .log2 g dbl d a => Sys2Proof.Machine.execLog2 g dbl d a s
  | .exp2 g dbl d a => Sys2Proof.Machine.execExp2 g dbl d a s
  | .rcp g dbl d a => Sys2Proof.Machine.execRcp g dbl d a s
  | .rsq g dbl d a => Sys2Proof.Machine.execRsq g dbl d a s
  | .sin g dbl d a => Sys2Proof.Machine.execSin g dbl d a s
  | .cos g dbl d a => Sys2Proof.Machine.execCos g dbl d a s
  | .cvt g df rm d a => Sys2Proof.Machine.execCvt g df rm d a s
  | .pack g ef md d a => Sys2Proof.Machine.execPack g ef md d a s
  | .unpk g ef w d a => Sys2Proof.Machine.execUnpk g ef w d a s
  | .k8dec g f16 j d a => Sys2Proof.Machine.execK8dec g f16 j d a s
  | .hash g d a b => Sys2Proof.Machine.execHash g d a b s
  | .rndu g d a b => Sys2Proof.Machine.execRndu g d a b s
  | .jmp g off => Sys2Proof.Machine.execJmp g off s
  | .br g n c off => Sys2Proof.Machine.execBr g n c off s
  | .call g l off => Sys2Proof.Machine.execCall g l off s
  | .callr g l t => Sys2Proof.Machine.execCallr g l t s
  | .ret g t => Sys2Proof.Machine.execRet g t s
  | .loopd g c off => Sys2Proof.Machine.execLoopd g c off s
  | .exit g => Sys2Proof.Machine.execExit g s
  | .nop g => Sys2Proof.Machine.execNop g s
  | .ld g ln nh d m => Sys2Proof.Machine.execLd g ln nh d m s
  | .st g ln d m => Sys2Proof.Machine.execSt g ln d m s
  | .ldt g fmt d m => Sys2Proof.Machine.execLdt g fmt d m s
  | .stt g fmt md d m => Sys2Proof.Machine.execStt g fmt md d m s
  | .hld g d m => Sys2Proof.Machine.execHld g d m s
  | .hst g d m => Sys2Proof.Machine.execHst g d m s
  | .alloc g d a b => Sys2Proof.Machine.execAlloc g d a b s
  | .ldl g n nh d m => Sys2Proof.Machine.execLdl g n nh d m s
  | .trap g a => Sys2Proof.Machine.execTrap g a s
  | .sysc g a => Sys2Proof.Machine.execSysc g a s
  | .hret a => Sys2Proof.Machine.execHret a s
  | .bkpt g => Sys2Proof.Machine.execBkpt g s
  | .mfs g d sr => Sys2Proof.Machine.execMfs g d sr s
  | .mts g a sr => Sys2Proof.Machine.execMts g a sr s
  | .snap g a => Sys2Proof.Machine.execSnap g a s
  | .mand g d a b => Sys2Proof.Machine.execMand g d a b s
  | .mor g d a b => Sys2Proof.Machine.execMor g d a b s
  | .mxor g d a b => Sys2Proof.Machine.execMxor g d a b s
  | .mnot g d a => Sys2Proof.Machine.execMnot g d a s
  | .mpopc g d a => Sys2Proof.Machine.execMpopc g d a s
  | .mffs g hi d a => Sys2Proof.Machine.execMffs g hi d a s
  | .mset g mrg d a => Sys2Proof.Machine.execMset g mrg d a s
  | .mget g d a => Sys2Proof.Machine.execMget g d a s
  | .brd g n c off join => Sys2Proof.Machine.execBrd g n c off join s
  | .vote g md d a => Sys2Proof.Machine.execVote g md d a s
  | .shfl g md fill d a b => Sys2Proof.Machine.execShfl g md fill d a b s
  | .lgather g n d a b => Sys2Proof.Machine.execLgather g n d a b s
  | .bcast g lane d a => Sys2Proof.Machine.execBcast g lane d a s
  | .redw g op ty d a b => Sys2Proof.Machine.execRedw g op ty d a b s
  | .scanw g op ty ex d a => Sys2Proof.Machine.execScanw g op ty ex d a s
  | .topk g n ty nf nz d a b => Sys2Proof.Machine.execTopk g n ty nf nz d a b s
  | .merge g ty d a b => Sys2Proof.Machine.execMerge g ty d a b s
  | .sortw g ty desc d a => Sys2Proof.Machine.execSortw g ty desc d a s
  | .gbar g op ty slot d a b => Sys2Proof.Machine.execGbar g op ty slot d a b s
  | .spawn g cls k flush a => Sys2Proof.Machine.execSpawn g cls k flush a s
  | .join g a b => Sys2Proof.Machine.execJoin g a b s
  | .jadd g d a b => Sys2Proof.Machine.execJadd g d a b s
  | .regs g a => Sys2Proof.Machine.execRegs g a s
  | .launch g d a => Sys2Proof.Machine.execLaunch g d a s
  | .atom g op ord d m => Sys2Proof.Machine.execAtom g op ord d m s
  | .cas g ord d m => Sys2Proof.Machine.execCas g ord d m s
  | .cas2 g ord d m => Sys2Proof.Machine.execCas2 g ord d m s
  | .lda g d m => Sys2Proof.Machine.execLda g d m s
  | .stl g d m => Sys2Proof.Machine.execStl g d m s
  | .phase g kind scope => Sys2Proof.Machine.execPhase g kind scope s
  | .cflush g rl m => Sys2Proof.Machine.execCflush g rl m s
  | .cinvl g rl m => Sys2Proof.Machine.execCinvl g rl m s
  | .pref g l2 m => Sys2Proof.Machine.execPref g l2 m s
  | .lds g fmt d m => Sys2Proof.Machine.execLds g fmt d m s
  | .sts g fmt md d m => Sys2Proof.Machine.execSts g fmt md d m s
  | .ldw g sz d m => Sys2Proof.Machine.execLdw g sz d m s
  | .stw g sz d m => Sys2Proof.Machine.execStw g sz d m s
  | .chbind g kind ch a => Sys2Proof.Machine.execChbind g kind ch a s
  | .enq g try_ d m => Sys2Proof.Machine.execEnq g try_ d m s
  | .deq g try_ d m => Sys2Proof.Machine.execDeq g try_ d m s
  | .sld g d h k => Sys2Proof.Machine.execSld g d h k s
  | .sst g h k v => Sys2Proof.Machine.execSst g h k v s
  | .sadd g op d h k v => Sys2Proof.Machine.execSadd g op d h k v s
  | .sxch g d h k v => Sys2Proof.Machine.execSxch g d h k v s
  | .scas g d h k c => Sys2Proof.Machine.execScas g d h k c s
  | .snext g ge d h k => Sys2Proof.Machine.execSnext g ge d h k s
  | .sscan g n ge lim d h k => Sys2Proof.Machine.execSscan g n ge lim d h k s
  | .sstat g what all d h x => Sys2Proof.Machine.execSstat g what all d h x s
  | .cpy g tg d dst src gauge => Sys2Proof.Machine.execCpy g tg d dst src gauge s
  | .cpyg g slot tg d dst src gauge => Sys2Proof.Machine.execCpyg g slot tg d dst src gauge s
  | .cpym g tg d dst src gauge follow => Sys2Proof.Machine.execCpym g tg d dst src gauge follow s
  | .cpyd g d cd gauge => Sys2Proof.Machine.execCpyd g d cd gauge s
  | .cpys g d cd gauge => Sys2Proof.Machine.execCpys g d cd gauge s
  | .cpyx g d job gauge => Sys2Proof.Machine.execCpyx g d job gauge s
  | .gwait g d gauge t => Sys2Proof.Machine.execGwait g d gauge t s
  | .gtest g d gauge t => Sys2Proof.Machine.execGtest g d gauge t s
  | .garm g slot gauge t h => Sys2Proof.Machine.execGarm g slot gauge t h s
  | .gdis g slot d => Sys2Proof.Machine.execGdis g slot d s
  | .cpyq g d k => Sys2Proof.Machine.execCpyq g d k s
  | .cpyqCancel g d k => Sys2Proof.Machine.execCpyqCancel g d k s
  | .tshape g t x => Sys2Proof.Machine.execTshape g t x s
  | .tld g t r => Sys2Proof.Machine.execTld g t r s
  | .tst g t r => Sys2Proof.Machine.execTst g t r s
  | .mma g pair set blk acc ta tb => Sys2Proof.Machine.execMma g pair set blk acc ta tb s
  | .sacc g f32 ad ap sa sb => Sys2Proof.Machine.execSacc g f32 ad ap sa sb s
  | .acq g acc => Sys2Proof.Machine.execAcq g acc s
  | .rel g acc => Sys2Proof.Machine.execRel g acc s
  | .accout g of rm acc off gauge desc => Sys2Proof.Machine.execAccout g of rm acc off gauge desc s
  | .accz g i32 acc => Sys2Proof.Machine.execAccz g i32 acc s
  | .mfence g d => Sys2Proof.Machine.execMfence g d s
  | .mwait g n => Sys2Proof.Machine.execMwait g n s
  | .cbld g off => Sys2Proof.Machine.execCbld g off s
  | .sret m => Sys2Proof.Machine.execSret m s
  | .sretHost m => Sys2Proof.Machine.execSretHost m s
  | .pmap g any d a b => Sys2Proof.Machine.execPmap g any d a b s
  | .pmapAttr g d a b => Sys2Proof.Machine.execPmapAttr g d a b s
  | .pmapUnmap g d a => Sys2Proof.Machine.execPmapUnmap g d a s
  | .pinv g sz a => Sys2Proof.Machine.execPinv g sz a s
  | .pinvAll g => Sys2Proof.Machine.execPinvAll g s
  | .pmigStart d a b => Sys2Proof.Machine.execPmigStart d a b s
  | .pmigStat d a => Sys2Proof.Machine.execPmigStat d a s
  | .icinvLine a => Sys2Proof.Machine.execIcinvLine a s
  | .icinvPage a => Sys2Proof.Machine.execIcinvPage a s
  | .icinvAsid => Sys2Proof.Machine.execIcinvAsid s
  | .rdctlShb w d => Sys2Proof.Machine.execRdctlShb w d s
  | .rdctlItab w d => Sys2Proof.Machine.execRdctlItab w d s
  | .rdctlRbase w d => Sys2Proof.Machine.execRdctlRbase w d s
  | .rdctlRsize w d => Sys2Proof.Machine.execRdctlRsize w d s
  | .rdctlCtl w d => Sys2Proof.Machine.execRdctlCtl w d s
  | .rdctlRhead w d => Sys2Proof.Machine.execRdctlRhead w d s
  | .rdctlRtail w d => Sys2Proof.Machine.execRdctlRtail w d s
  | .rdctlRdrop w d => Sys2Proof.Machine.execRdctlRdrop w d s
  | .sdeclCreate g d a b => Sys2Proof.Machine.execSdeclCreate g d a b s
  | .sdeclGrow g d a b => Sys2Proof.Machine.execSdeclGrow g d a b s
  | .sdeclRetire g d a => Sys2Proof.Machine.execSdeclRetire g d a s
  | .gtblSpill g d a b => Sys2Proof.Machine.execGtblSpill g d a b s
  | .gtblCont g d a b => Sys2Proof.Machine.execGtblCont g d a b s
  | .rep count ds as bs cs => Sys2Proof.Machine.execRep count ds as bs cs s
  | .unassignedOpcode w => Sys2Proof.Machine.execUnassignedOpcode w s
  | .comparatorBreakpoint w => Sys2Proof.Machine.execComparatorBreakpoint w s
  | .spawnBinTimeout die bin => Sys2Proof.Machine.execSpawnBinTimeout die bin s
  | .submissionLine die => Sys2Proof.Machine.execSubmissionLine die s
  | .warpDispatch die rec p slot => Sys2Proof.Machine.execWarpDispatch die rec p slot s
  | .warpRetirement w => Sys2Proof.Machine.execWarpRetirement w s
  | .loadCompletion w => Sys2Proof.Machine.execLoadCompletion w s
  | .rowGrant p quad => Sys2Proof.Machine.execRowGrant p quad s
  | .eviction p quad => Sys2Proof.Machine.execEviction p quad s
  | .gbarWaitYield w => Sys2Proof.Machine.execGbarWaitYield w s
  | .agingPromotion die rec => Sys2Proof.Machine.execAgingPromotion die rec s
  | .timeSliceExpiry p => Sys2Proof.Machine.execTimeSliceExpiry p s
  | .contextStreamOut p asid => Sys2Proof.Machine.execContextStreamOut p asid s
  | .contextRestore p asid => Sys2Proof.Machine.execContextRestore p asid s
  | .copyBegin p slot => Sys2Proof.Machine.execCopyBegin p slot s
  | .copyTransfer p slot n => Sys2Proof.Machine.execCopyTransfer p slot n s
  | .copyCompletion p slot => Sys2Proof.Machine.execCopyCompletion p slot s
  | .copyFaultDelivery w => Sys2Proof.Machine.execCopyFaultDelivery w s
  | .decoderOutput p job => Sys2Proof.Machine.execDecoderOutput p job s
  | .decoderJobEnd p job => Sys2Proof.Machine.execDecoderJobEnd p job s
  | .alarmDelivery w => Sys2Proof.Machine.execAlarmDelivery w s
  | .mmaExecution p => Sys2Proof.Machine.execMmaExecution p s
  | .saccExecution p => Sys2Proof.Machine.execSaccExecution p s
  | .acczExecution p => Sys2Proof.Machine.execAcczExecution p s
  | .accoutExecution p => Sys2Proof.Machine.execAccoutExecution p s
  | .matrixNanTrapDelivery w => Sys2Proof.Machine.execMatrixNanTrapDelivery w s
  | .nanTrapDelivery w => Sys2Proof.Machine.execNanTrapDelivery w s
  | .sparseEngineOperation eng => Sys2Proof.Machine.execSparseEngineOperation eng s
  | .nodeReclamation eng => Sys2Proof.Machine.execNodeReclamation eng s
  | .watchdogExpiry w => Sys2Proof.Machine.execWatchdogExpiry w s
  | .lostWriteMachineCheck w addr => Sys2Proof.Machine.execLostWriteMachineCheck w addr s
  | .migrationLineMove id => Sys2Proof.Machine.execMigrationLineMove id s
  | .migrationCompletion id => Sys2Proof.Machine.execMigrationCompletion id s
  | .hostCxlMemRead addr => Sys2Proof.Machine.execHostCxlMemRead addr s
  | .hostCxlMemWrite addr data => Sys2Proof.Machine.execHostCxlMemWrite addr data s
  | .hostSnoopResponse line => Sys2Proof.Machine.execHostSnoopResponse line s
  | .enqPortWrite fn q data => Sys2Proof.Machine.execEnqPortWrite fn q data s
  | .deqPortRead fn q => Sys2Proof.Machine.execDeqPortRead fn q s
  | .contextLive fn asid => Sys2Proof.Machine.execContextLive fn asid s
  | .contextEnd asid => Sys2Proof.Machine.execContextEnd asid s
  | .hostWaitResume asid id => Sys2Proof.Machine.execHostWaitResume asid id s
  | .hostWaitSkip asid id => Sys2Proof.Machine.execHostWaitSkip asid id s
  | .hostWaitExit asid id => Sys2Proof.Machine.execHostWaitExit asid id s
  | .hostWaitReenter asid id => Sys2Proof.Machine.execHostWaitReenter asid id s
  | .fpoolWrite die frame => Sys2Proof.Machine.execFpoolWrite die frame s
  | .fretWrite w => Sys2Proof.Machine.execFretWrite w s
  | .frameFillCompletion frame => Sys2Proof.Machine.execFrameFillCompletion frame s
  | .devnumWrite n => Sys2Proof.Machine.execDevnumWrite n s
  | .scrivenerMailboxRequest fn asid addr size base => Sys2Proof.Machine.execScrivenerMailboxRequest fn asid addr size base s
  | .hubRegisterWrite fn addr acc => Sys2Proof.Machine.execHubRegisterWrite fn addr acc s
  | .bltctlWrite w => Sys2Proof.Machine.execBltctlWrite w s
  | .blotiRisingEdge => Sys2Proof.Machine.execBlotiRisingEdge s
  | .bltcmpMatch => Sys2Proof.Machine.execBltcmpMatch s
  | .lockInterfaceRequest vf => Sys2Proof.Machine.execLockInterfaceRequest vf s
  | .startInterfaceRequest vf => Sys2Proof.Machine.execStartInterfaceRequest vf s
  | .stopInterfaceRequest vf => Sys2Proof.Machine.execStopInterfaceRequest vf s
  | .interfaceBreach vf => Sys2Proof.Machine.execInterfaceBreach vf s
  | .coldReset => Sys2Proof.Machine.execColdReset s
  | .warmReset => Sys2Proof.Machine.execWarmReset s
  | .functionLevelReset vf => Sys2Proof.Machine.execFunctionLevelReset vf s
  | .dvfsPointSelect die point => Sys2Proof.Machine.execDvfsPointSelect die point s
  | .powerTrip => Sys2Proof.Machine.execPowerTrip s
  | .thermalLimit die => Sys2Proof.Machine.execThermalLimit die s
  | .thermtrip => Sys2Proof.Machine.execThermtrip s
  | .dieLinkRetrain link => Sys2Proof.Machine.execDieLinkRetrain link s
  | .scaleupRequestTimeout w => Sys2Proof.Machine.execScaleupRequestTimeout w s
  | .deviceUnreachable dev => Sys2Proof.Machine.execDeviceUnreachable dev s
  | .linkRecalibration link => Sys2Proof.Machine.execLinkRecalibration link s
  | .patrolScrub line => Sys2Proof.Machine.execPatrolScrub line s
  | .dramRefresh die bank => Sys2Proof.Machine.execDramRefresh die bank s
  | .telemetrySample => Sys2Proof.Machine.execTelemetrySample s
  | .remoteDeviceRequest dev op => Sys2Proof.Machine.execRemoteDeviceRequest dev op s
  | .flitResend link => Sys2Proof.Machine.execFlitResend link s
  | .dieLinkRetrainComplete link => Sys2Proof.Machine.execDieLinkRetrainComplete link s
  | .scaleUpRouteTrained dev => Sys2Proof.Machine.execScaleUpRouteTrained dev s
  | .firmwareCoreAccess core acc => Sys2Proof.Machine.execFirmwareCoreAccess core acc s
  | .blotoPulseEnd => Sys2Proof.Machine.execBlotoPulseEnd s

end Sys2Proof.Machine
end

