-- ==== Sys2Proof/Machine/Turn.lean ====
section
/-! DEFINITION. Whose turn it is: the choice of a quadrant's warp (spec/07 R202, R203), what comes before its
instruction (R194, R449, R474, R198), and the device's own steps (log 1). -/

namespace Sys2Proof.Machine

/-! ### The device's own steps -/

/-- Rows of the opcode table that are steps of the device or of its surroundings. -/
def isEvent : Instr → Bool
  | .comparatorBreakpoint _ | .spawnBinTimeout _ _ | .submissionLine _ | .warpDispatch _ _ _ _
  | .warpRetirement _ | .loadCompletion _ | .rowGrant _ _ | .eviction _ _ | .gbarWaitYield _
  | .agingPromotion _ _ | .timeSliceExpiry _ | .contextStreamOut _ _ | .contextRestore _ _ | .copyBegin _ _
  | .copyTransfer _ _ _ | .copyCompletion _ _ | .copyFaultDelivery _ | .decoderOutput _ _ | .decoderJobEnd _ _
  | .alarmDelivery _ | .mmaExecution _ | .saccExecution _ | .acczExecution _ | .accoutExecution _
  | .matrixNanTrapDelivery _ | .nanTrapDelivery _ | .sparseEngineOperation _ | .nodeReclamation _
  | .watchdogExpiry _ | .lostWriteMachineCheck _ _ | .migrationLineMove _ | .migrationCompletion _
  | .hostCxlMemRead _ | .hostCxlMemWrite _ _ | .hostSnoopResponse _ | .enqPortWrite _ _ _ | .deqPortRead _ _
  | .contextLive _ _ | .contextEnd _ | .hostWaitResume _ _ | .hostWaitSkip _ _ | .hostWaitExit _ _
  | .hostWaitReenter _ _ | .fpoolWrite _ _ | .fretWrite _ | .frameFillCompletion _ | .devnumWrite _
  | .scrivenerMailboxRequest _ _ _ _ _ | .hubRegisterWrite _ _ _ | .bltctlWrite _ | .blotiRisingEdge | .bltcmpMatch
  | .lockInterfaceRequest _ | .startInterfaceRequest _ | .stopInterfaceRequest _ | .interfaceBreach _ | .coldReset
  | .warmReset | .functionLevelReset _ | .dvfsPointSelect _ _ | .powerTrip | .thermalLimit _ | .thermtrip
  | .dieLinkRetrain _ | .scaleupRequestTimeout _ | .deviceUnreachable _ | .linkRecalibration _ | .patrolScrub _
  | .dramRefresh _ _ | .telemetrySample | .remoteDeviceRequest _ _ | .flitResend _ | .dieLinkRetrainComplete _
  | .scaleUpRouteTrained _ | .firmwareCoreAccess _ _ | .blotoPulseEnd => true
  | _ => false

/-- Steps that a device in reset, or one that the thermal trip has stopped, takes (R527, R528). -/
def resetEvent : Instr → Bool
  | .coldReset | .warmReset => true
  | _ => false

/-- The matrix unit's next step: work whose context has streamed out asks for it once. -/
def unitStep (c : Core) : Option Instr :=
  match c.mq with
  | m :: _ =>
    if m.halted || (workAway c m && c.wanted.contains m.asid) then none
    else match m.op with
      | .mma .. => some (.mmaExecution c.pos)
      | .sacc .. => some (.saccExecution c.pos)
      | .accz .. => some (.acczExecution c.pos)
      | .accout .. => some (.accoutExecution c.pos)
  | [] => none

/-- A copy's next step. -/
def copyStep (p : Pos) (j : CopyJob) : Option Instr :=
  match j.st with
  | .queued => some (.copyBegin p j.slot)
  | .running => some (if j.done < j.n then .copyTransfer p j.slot j.n else .copyCompletion p j.slot)
  | _ => none

/-- A decoder job's next step. -/
def decStep (p : Pos) (j : DecJob) : Option Instr :=
  if j.st == .suspended || j.ended then none
  else if j.st == .running && jobNel j.words ≤ j.prod then some (.decoderJobEnd p j.slot)
  else some (.decoderOutput p j.slot)

/-- A quadrant whose oldest request for rows can be met (R253). -/
def grantStep (s : State) (c : Core) : Option Instr :=
  if c.requests.isEmpty then none
  else ((List.range 4).find? fun k => (quadReqs s c.pos k).head?.any fun w =>
    decide (quadRows s c.pos k + growth w ≤ 512)).map fun k => .rowGrant c.pos k

/-- What a core does of itself. -/
def coreStep (s : State) (c : Core) : Option Instr :=
  ((unitStep c).or (c.copies.findSome? (copyStep c.pos))).or ((c.decs.findSome? (decStep c.pos)).or
    ((grantStep s c).or
      (if urgentAt s c.pos then some (.timeSliceExpiry c.pos) else none)))

/-- What a die does of itself. -/
def dieStep (d : Die) : Option Instr :=
  ((List.range 4).find? fun k => !((d.engines.getD k []).isEmpty)).elim
    (d.filling.head?.map fun f => .frameFillCompletion f) fun k => some (.sparseEngineOperation (4 * d.num + k))

/-- An engine of another device that holds operations sent to it. -/
def farStep (s : State) : Option Instr :=
  (s.hub.farEng.find? fun e => !(e.2.isEmpty)).map fun e => .sparseEngineOperation e.1

/-- A node that an idle engine of a die reclaims (R373). -/
def reclaimStep (s : State) (d : Die) : Option Instr :=
  if d.retired.isEmpty then none
  else ((List.range 4).find? fun k => (reclaimable s (4 * d.num + k)).isSome).map fun k =>
    .nodeReclamation (4 * d.num + k)

/-- What a warp needs of the device. -/
def warpStep (w : Warp) : Option Instr :=
  if !w.isResident then none
  else if !w.outstanding.isEmpty then some (.loadCompletion w.uid)
  else if retiring w then some (.warpRetirement w.uid)
  else none

/-- What a migration does. -/
def migStep (s : State) (m : Migration) : Instr :=
  if (nextLine s m).isSome then .migrationLineMove m.id else .migrationCompletion m.id

/-- The device's next step of its own, when its surroundings name none (log 1). -/
def internal (s : State) : Option Instr :=
  ((s.warps.findSome? warpStep).or (s.cores.findSome? (coreStep s))).or
    (((s.dies.findSome? dieStep).or (farStep s)).or ((s.migs.head?.map (migStep s)).or (s.dies.findSome? (reclaimStep s))))

/-! ### Issuing -/

/-- The warp was its quadrant's last issuer, and does not issue in this cycle (R203). -/
def noIssue (s : State) (w : Warp) : State :=
  updCore s w.pos fun c => { c with last := modifyAt c.last (w.slot / 16) fun q => if q.1 == some w.uid then (none, 0) else q }

/-- The warp has the turn in its quadrant; `n` issue cycles of it are still to be counted. -/
def takesTurn (s : State) (w : Warp) (n : Nat) : State :=
  let s := { s with cur := w.uid, uncounted := n }
  if n == 0 then noIssue s w else s

/-- Count the cycles of the last turn's instruction, unless its warp was held: no cycle is lost to a held warp (R203). -/
def countIssue (s : State) : State :=
  if s.uncounted == 0 then s
  else
    let n := s.uncounted
    let s := { s with uncounted := 0 }
    match findWarp s s.cur with
    | none => s
    | some w =>
      if w.held.isSome then noIssue s w
      else
        let next := fun (q : Option Nat × Nat) => (some w.uid, if q.1 == some w.uid then q.2 + n else n)
        updCore s w.pos fun c => { c with last := modifyAt c.last (w.slot / 16) next }

/-- The fetched instruction, or what its fetch gives. SUPP covers the next issue; a prefix is none (R77, R474). -/
def fetchTurn (s : State) (w : Warp) : State × Option Instr :=
  let s := { takesTurn s w 1 with suppUsed := false }
  match fetchNext s w with
  | (s, .hold h l) => (holdAt s w.uid h l, none)
  | (s, .fault f m n) =>
    if skipped w then (skipWord s w, none) else (faultAll s w f m n, none)
  | (s, .run (.rep n a b c d)) => (s, some (.rep n a b c d))
  | (s, .run i) =>
    (updWarp { s with uncounted := issueCycles s w i, suppUsed := w.supp } w.uid fun w => { w with supp := false }, some i)

/-- A word is about to issue: a comparator fires (R474), or it is fetched. -/
def wordTurn (s : State) (w : Warp) : State × Option Instr :=
  if (comparatorDue s w).isSome then (takesTurn s w 0, some (.comparatorBreakpoint w.uid)) else fetchTurn s w

/-- The prefix occupies no issue cycle: once it has begun the sequence, repetition 0 issues in the same turn, with no
delivery between them (R77, R81). The arrival rule has been applied at the prefix and is not applied again at the
repeated word: DESIGN CHOICE (log 55). -/
def afterPrefix (s : State) (i : Instr) : State × Option Instr :=
  match i with
  | .rep .. => match s.issuer with
    | some w => if w.repc == 0 || w.held.isSome then (s, none) else wordTurn s w
    | none => (s, none)
  | _ => (s, none)

/-- An instruction that a sparse operation in flight holds back: it enters a handler, leaves the slot, ends, releases, or
gives up registers (R320, R442, R460, R464; log 56). -/
def waitsForSparse (a b : Warp) : Bool :=
  a.sup != b.sup || a.sframe != b.sframe || a.hframes.length != b.hframes.length || a.status != b.status
    || a.intv != b.intv || a.allot != b.allot || retiring b

/-- A warp with sparse operations in flight issues only what they do not hold back. -/
def unlessSparse (s : State) (w : Warp) (r : State × Option Instr) : State × Option Instr :=
  if !w.inFlight then r
  else
    let after := match r.2 with
      | some i => (match exec i r.1 with
        | .next t => t
        | _ => r.1)
      | none => r.1
    match findWarp after w.uid with
    | some b => if waitsForSparse w b then (holdAt { takesTurn s w 1 with suppUsed := false } w.uid .operands 0, none) else r
    | none => r

/-- What a warp's sparse instructions make it do first: operations that are to be sent again go out; it waits at one behind
which it does not go on, behind a fault of one, and while an asynchronous cause is due (R363, R449). -/
def sparseTurn (s : State) (w : Warp) : Option State :=
  match spBack w with
  | some p => some (spResend (takesTurn s w 0) w.uid p)
  | none =>
    if (w.sparse.any fun p => p.block || !p.faults.isEmpty) || (w.inFlight && (nextDue s { w with sparse := [] }).isSome) then
      some (holdAt (takesTurn s w 0) w.uid .operands 0)
    else none

/-- The warp takes the machine check of a spilled block that cannot be read, once; it is due again where no path is left but
that of the block (R198, R461; log 45). -/
def refillFault (s : State) (w : Warp) : State :=
  takeFault (updWarp (takesTurn s w 0) w.uid fun w => { w with refillErr := true }) w.uid
    (asyncReport w (flt .machineCheck 3) (liveLanes w))

/-- A warp's turn: what its sparse instructions make it do first, what is due at the boundary (R449), a spilled block (R198,
R461), the arrival rule (R194), a comparator (R474), then its instruction. -/
def issueTurn (s : State) (w : Warp) : State × Option Instr :=
  match sparseTurn s w with
  | some t => (t, none)
  | none => match nextDue s w with
    | some i => (takesTurn s w 0, some i)
    | none =>
      let s' := spillReady s w
      let (w2, ok) := atWord s' w
      let w2 := { w2 with refillErr := w2.refillErr && !ok }
      let t := putWarp s' w2
      unlessSparse s w (if !ok && !w.sup && (!w2.refillErr || w2.em == 0#32) then (refillFault t w2, none) else wordTurn t w2)

/-! ### The choice of a warp (R202, R203) -/

/-- The turn that a warp would take: the state after it, if it can be taken. -/
def tryTurn (s : State) (w : Warp) : Option State :=
  let (t, oi) := issueTurn s w
  match oi with
    | some i => (match exec i t with | .next t => some t | _ => none)
    | none => some t

/-- A warp found held at issue would be held again, and the attempt would ask for nothing new (R202, R511, R414, R296). -/
def stillHeld (s : State) (w : Warp) : Bool :=
  if w.held.isNone then false
  else match tryTurn s w with
    | some t => (findWarp t w.uid).any (fun x => x.held == w.held) && t.hub.snoops.length == s.hub.snoops.length
        && t.warps.map (fun x => x.opn) == s.warps.map (fun x => x.opn)
        && t.cores.map (fun c => c.wanted) == s.cores.map (fun c => c.wanted)
    | none => false

/-- The warp a quadrant issues from: the preferred one of its ready warps. -/
def pickWarp (s : State) (p : Pos) (quad : Nat) : Option Warp :=
  (byPreference s p quad).find? fun w => !(stillHeld s w)

/-- Quadrants that hold resident warps, in the order of the warp list. -/
def quadrants (s : State) : List (Pos × Nat) :=
  (s.warps.filter Warp.isResident).foldl (fun l w =>
    if l.contains (w.pos, w.slot / 16) then l else l ++ [(w.pos, w.slot / 16)]) []

/-- Them, those after the issuer's first. -/
def turnOrder (s : State) : List (Pos × Nat) :=
  let l := quadrants s
  match findWarp s s.cur with
  | some w =>
    let k := l.idxOf (w.pos, w.slot / 16)
    l.drop (k + 1) ++ l.take (k + 1)
  | none => l

/-- The warp that issues when the surroundings name no quadrant (log 1). -/
def nextIssuer (s : State) : Option Warp := (turnOrder s).findSome? fun q => pickWarp s q.1 q.2

/-! ### Fetching ahead (R285) -/

/-- Instructions that may change the PC as branches. -/
def isBranch : Instr → Bool
  | .jmp _ _ | .br _ _ _ _ | .call _ _ _ | .callr _ _ _ | .ret _ _ | .loopd _ _ _ | .brd _ _ _ _ _ => true
  | _ => false

/-- The warp is to issue a branch. -/
def branchNext (s : State) (w : Warp) : Bool :=
  match (fetchNext s w).2 with
  | .run i => isBranch i
  | _ => false

/-- Instruction fetch beyond an unresolved branch: it fills the caches, or is dropped and counted. -/
def fetchAhead (s : State) (w : Warp) (va : Nat) : State :=
  if !w.isResident || !(branchNext s w) || (icacheFind s w va).isSome then s
  else match specAccess s w va 1 pteX fun s t =>
      (clusterLine s w t.da).bind fun s ws => .ok s (fillL1 s w va t ws) with
    | .ok s (some _) => s
    | .ok s none => dropPref s w
    | _ => s

/-! ### A turn -/

/-- The warps of a quadrant that can issue: what the next instruction needs is there (R202). -/
def readyWarps (s : State) (p : Pos) (quad : Nat) : Nat :=
  ((candidates s p quad).filter fun w => (tryTurn s w).any fun t => (findWarp t w.uid).any fun x => x.held.isNone).length

/-- The cores latch the snapshot of a Blotter that has fired (R480). -/
def latchSnaps (s : State) : State :=
  if s.hub.blot.latch then
    { s with
      cores := s.cores.map fun c => { c with snap := coreSnap s c (readyWarps s c.pos) }
      hub := { s.hub with blot := { s.hub.blot with latch := false } } }
  else s

/-- The turn begins: the last issue counted, a snapshot latched, the cycles counted with the match that they bring, and the
waiting lines written, of the hub and of the channels. -/
def beginTurn (s0 : State) : State :=
  let s0 := latchSnaps (countIssue s0)
  sendLines (drainLines (cycleMatch { s0 with
    cycle := s0.cycle + 1 + Config.stepCycles s0.tick, tick := s0.tick + 1 } s0.cycle))

/-- A device that is in reset, or that the thermal trip has stopped. -/
def standsStill (s : State) : Bool := s.hub.stopped || s.hub.inReset

/-- One turn: what the agenda names; with an empty agenda the device's own steps and the warps' instructions by
turns. The answer is the instruction that this step carries out. -/
def turn (s0 : State) : State × Option Instr :=
  match s0.agenda with
  | .event i :: l =>
    let s := { beginTurn s0 with agenda := l }
    if isEvent i && (!standsStill s || resetEvent i) then (s, some i) else (s, none)
  | .issue p q :: l =>
    let s := { beginTurn s0 with agenda := l }
    if standsStill s then (s, none)
    else match pickWarp s p q with
      | some w => issueTurn s w
      | none => (s, none)
  | .ahead u va :: l =>
    let s := { beginTurn s0 with agenda := l }
    (match findWarp s u with
      | some w => if standsStill s then s else fetchAhead s w va
      | none => s, none)
  | [] =>
    let s := beginTurn s0
    if standsStill s then (s, none)
    else
      let warp := (nextIssuer s).map (issueTurn s)
      let own := (internal s).map fun i => (s, some i)
      ((if s0.tick % 2 == 0 then own.or warp else warp.or own)).getD (s, none)

end Sys2Proof.Machine
end

