-- ==== Sys2Proof/Machine/Step.lean ====
section
/-! DEFINITION. One step of the device, and the placing of an instruction where the next step fetches it. -/

namespace Sys2Proof.Machine

/-- One step: whose turn it is, and what that turn carries out; after a repeat prefix its repetition 0 (R77). -/
def step (s : State) : Host.Outcome State Fault Refusal :=
  match turn s with
  | (t, none) => .next t
  | (t, some i) => match exec i t with
    | .next t => (match afterPrefix t i with
      | (t, some j) => exec j t
      | (t, none) => .next t)
    | o => o

/-- `s` with an instruction placed for the next step (log 1): one resident warp of a live context stands at its
address, and the agenda gives the warp's quadrant the turn. -/
def State.withFetchWord (s : State) (nbits w : Nat) : State := placeCode s (w % 2 ^ nbits)

end Sys2Proof.Machine
end

