-- ==== Sys2Proof/Safety.lean ====
section
/-! DEFINITION. The terms in which statements speak: safe runs, an instruction that passes its checks, and the
results that the rules of spec/04, spec/05 and spec/08 give the lane instructions. -/

namespace Sys2Proof.Machine

/-! ### Safe runs -/

/-- The memory is in its canonical form. -/
def Inv (s : State) : Prop := s.mem.wf = true

/-- `n` steps go by, none a fault or a refusal, and memory keeps its form. -/
def SafeRun : Nat → State → Prop
  | 0, s => Inv s
  | n + 1, s => Inv s ∧ ∃ t, step s = .next t ∧ SafeRun n t

/-! ### An instruction that is carried out (R85) -/

/-- Channel values that a replay does not pop again (R450). -/
def replayPopped (w : Warp) : List Opd :=
  match w.replay with
  | some r => r.popped
  | none => []

/-- Values of lanes that completed before a replay and that no register holds (R442; log 54). -/
def replayPart (w : Warp) : List (Nat × Val) :=
  match w.replay with
  | some r => r.part
  | none => []

/-- They are results of the instruction too. -/
def earlier (w : Warp) : List (Nat × LaneRes) := (replayPart w).map fun p => (p.1, .ok [p.2] 0#7 false)

/-- A destination channel can take a push (R69); any other destination is ready. -/
def dstReady (s : State) (w : Warp) (i : Ins) (vec : Bool) : Res Unit :=
  match i.dsts with
  | .chan n :: _ => chanReady s w n vec
  | _ => .ok s ()

/-- No outstanding load keeps the issuing warp from the word `i` (R202), it passes checks 2 to 5 of R85, some lane is
active, and its sources read as `r`. `t` is what the reading leaves: `s` itself unless a channel is popped or flushed
(R69). -/
structure Accepts (s : State) (i : Ins) (t : State) (r : Ready) : Prop where
  issuer : s.issuer = some r.w
  arrived : awaits r.w i = false
  defined : i.bad r.w = false
  comb : r.whole = i.whole
  lanes : r.eff = effLanes r.w i.g
  active : r.eff ≠ 0#32
  vec : r.vec = insVec r.w i
  mode : i.priv = true → r.w.sup = true
  operands : insOk r.w i r.vec = true
  channels : (i.srcs.all (srcChanOk r.w) && i.dsts.all (dstChanOk r.w r.vec)) = true
  use : i.pre r.w = none
  reads : ((dstReady s r.w i r.vec).bind fun s _ => readSrcs s r.w i.srcs (replayPopped r.w)) =
    .ok t (r.ops, r.popped)

/-! ### Lane instructions: what the rules give each lane -/

/-- An instruction that computes its lanes' results from its operands: `res` is none for a lane that faults or
diverts. -/
structure LaneSpec where
  ins : Ins
  traps : Bool              -- it computes or converts a floating-point result (R57)
  on : Ready → List Nat
  res : Ready → Nat → Option LaneRes

/-- The lanes' results. -/
def LaneSpec.out (L : LaneSpec) (r : Ready) : List (Nat × LaneRes) :=
  (L.on r).map fun k => (k, (L.res r k).getD (.bad typeFlt))

/-- Every lane has a result. -/
def LaneSpec.ok (L : LaneSpec) (r : Ready) : Prop :=
  ∀ k ∈ L.on r, ∃ vs fl n, L.res r k = some (.ok vs fl n)

/-- The lanes in which a NaN result is reported (R57): a scalar instruction reports its effective lane set. -/
def nanReport (r : Ready) (traps : Bool) (l : List (Nat × LaneRes)) : Mask :=
  if !traps || nanLanes l == 0#32 then 0#32 else if r.vec then nanLanes l else r.eff

/-- The state after an instruction whose lanes gave the results `l`: results written, flags gathered (R56), a NaN
trap made due (R57), one latch entry pushed (R72) with the lanes an earlier execution completed, the next word (R61,
R81). -/
def lanesDone (t : State) (r : Ready) (i : Ins) (traps : Bool) (l : List (Nat × LaneRes)) : State :=
  complete (updWarp t r.w.uid fun w =>
    raiseNan (orFlags (writeRes w i.dsts l r.vec) (allFlags l)) (nanReport r traps l) r.w.pc) i r (l ++ earlier r.w)

/-- The state after a lane instruction of a table. -/
def laneDone (t : State) (r : Ready) (L : LaneSpec) : State := lanesDone t r L.ins L.traps (L.out r)

/-- Every instruction of the table `spec` completes with the results the table gives. -/
def CompletesAs (spec : State → Instr → Option LaneSpec) : Prop :=
  ∀ (s t : State) (i : Instr) (L : LaneSpec) (r : Ready), spec s i = some L → Accepts s L.ins t r → L.ok r →
    exec i s = .next (laneDone t r L)

/-- A result and nothing else. -/
def plain (v : Val) : Option LaneRes := some (.ok [v] 0#7 false)

/-- A rounded floating-point result, binary64 when `dbl` (R39, R56, R99, R145). -/
def rounded (dbl : Bool) (m : Rnd) (x : Fp × Flags) (pre : Flags) : Option LaneRes :=
  let fm : FpFmt := if dbl then .f64 else .f32
  let z := fm.round noSat m x.1
  some (.ok [⟨if dbl then .f64 else .f32, wordN z.1⟩] (z.2 ||| x.2 ||| pre) (fm.isNan z.1))

def lane1 (i : Ins) (n : Bool) (f : Ready → Val → Option LaneRes) : LaneSpec :=
  ⟨i, n, execLanes, fun r k => f r (r.val 0 k)⟩

def lane2 (i : Ins) (n : Bool) (f : Ready → Val → Val → Option LaneRes) : LaneSpec :=
  ⟨i, n, execLanes, fun r k => f r (r.val 0 k) (r.val 1 k)⟩

def lane3 (i : Ins) (n : Bool) (f : Ready → Val → Val → Val → Option LaneRes) : LaneSpec :=
  ⟨i, n, execLanes, fun r k => f r (r.val 0 k) (r.val 1 k) (r.val 2 k)⟩

/-! #### Typed integers (R131-R142) -/

/-- The tags of R131's "Int". -/
def intLike (v : Val) : Bool := v.tag == .int || v.tag == .raw || v.tag == .ts

/-- A result under OV (R133): `n` reads a payload as a number. -/
def underOv (ov : Ov) (t : Tag) (wrapped : Word) (exactS exactU : Int) : Option LaneRes :=
  match ov with
  | .wrap => plain ⟨t, wrapped⟩
  | .ss =>
    if exactS < -(2 ^ 63) then some (.ok [⟨t, 0x8000000000000000#64⟩] fSA false)
    else if 2 ^ 63 ≤ exactS then some (.ok [⟨t, 0x7FFFFFFFFFFFFFFF#64⟩] fSA false)
    else plain ⟨t, wrapped⟩
  | .us =>
    if exactU < 0 then some (.ok [⟨t, 0#64⟩] fSA false)
    else if 2 ^ 64 ≤ exactU then some (.ok [⟨t, 0xFFFFFFFFFFFFFFFF#64⟩] fSA false)
    else plain ⟨t, wrapped⟩

/-- The tag of a bitwise or shifting result (R132): that of a RAW operand `v`, else INT. -/
def bitTag (v : Val) : Tag := if v.tag = .raw then .raw else .int

def int1 (g : Guard) (d : Dst) (a : Src) (f : Val → Val) : LaneSpec :=
  lane1 (insOf g d [a]) false fun _ x => if intLike x then plain (f x) else none

def int2 (g : Guard) (d : Dst) (a b : Src) (f : Val → Val → Option LaneRes) : LaneSpec :=
  lane2 (insOf g d [a, b]) false fun _ x y => if intLike x && intLike y then f x y else none

def int3 (g : Guard) (d : Dst) (a b c : Src) (f : Val → Val → Val → Option LaneRes) : LaneSpec :=
  lane3 (insOf g d [a, b, c]) false fun _ x y z => if intLike x && intLike y && intLike z then f x y z else none

/-- The bits that BFI replaces (R138). -/
def fieldMask (y : Val) : Word := wordN ((2 ^ fieldLen y - 1) <<< fieldPos y)

/-- The relation of R140. -/
def cndHolds (c : Cnd) (x y : Word) : Bool :=
  match c with
  | .eq => x == y
  | .ne => !(x == y)
  | .lt => x.slt y
  | .le => x.sle y
  | .gt => y.slt x
  | .ge => y.sle x
  | .ltu => x.ult y
  | .leu => x.ule y

/-- The typed integer arithmetic, comparisons and selections (R132-R134, R139-R142). -/
def intSpec (_ : State) (i : Instr) : Option LaneSpec :=
  match i with
  | .iadd g ov d a b => some (int2 g d a b fun x y =>
      underOv ov (if (x.tag = .ts) ≠ (y.tag = .ts) then .ts else .int) (x.pl + y.pl) (x.i + y.i) (x.n + y.n))
  | .isub g ov d a b => some (int2 g d a b fun x y =>
      underOv ov (if x.tag = .ts ∧ y.tag ≠ .ts then .ts else .int) (x.pl - y.pl) (x.i - y.i) ((x.n : Int) - y.n))
  | .imul g ov d a b => some (int2 g d a b fun x y =>
      underOv ov .int (x.pl * y.pl) (x.i * y.i) ((x.n : Int) * y.n))
  | .imulh g u d a b => some (int2 g d a b fun x y =>
      plain ⟨.int, if u then ((x.pl.setWidth 128) * (y.pl.setWidth 128)).extractLsb' 64 64
        else ((x.pl.signExtend 128) * (y.pl.signExtend 128)).extractLsb' 64 64⟩)
  | .idivt g u d a b => some (int2 g d a b fun x y =>
      if y.pl = 0#64 then none else plain ⟨.int, if u then x.pl / y.pl else x.pl.sdiv y.pl⟩)
  | .iremt g u d a b => some (int2 g d a b fun x y =>
      if y.pl = 0#64 then none else plain ⟨.int, if u then x.pl % y.pl else x.pl.srem y.pl⟩)
  | .imad g ov d a b c => some (int3 g d a b c fun x y z =>
      underOv ov .int (x.pl * y.pl + z.pl) (x.i * y.i + z.i) ((x.n : Int) * y.n + z.n))
  | .imin g d a b => some (int2 g d a b fun x y => plain (if y.pl.slt x.pl then y else x))
  | .imax g d a b => some (int2 g d a b fun x y => plain (if x.pl.slt y.pl then y else x))
  | .nmin g d a b => some (int2 g d a b fun x y => plain (if y.pl.ult x.pl then y else x))
  | .nmax g d a b => some (int2 g d a b fun x y => plain (if x.pl.ult y.pl then y else x))
  | .icmp g c d a b => some (int2 g d a b fun x y => plain (vBool (cndHolds c x.pl y.pl)))
  | .sel g m d a b c => some ⟨insOf g d [a, b, c], false, execLanes, fun r k =>
      let z := r.val 2 k
      if z.tag = (if m then .raw else .bool) then
        plain (if z.pl.getLsbD (if m && r.vec then k else 0) then r.val 0 k else r.val 1 k)
      else none⟩
  | .lea g sc d a b c => some (lane3 (insOf g d [a, b, c]) false fun _ x y z =>
      if (x.tag = .int ∨ x.tag = .raw ∨ x.tag = .ref ∨ x.tag = .code) ∧ intLike y ∧ intLike z then
        plain ⟨.int, x.pl + (y.pl <<< sc.toNat) + z.pl⟩
      else none)
  | _ => none

/-- The shift count of R136: the whole payload in a wide instance, and 64 or more empties the word. -/
def shiftBy (wide : Bool) (y : Val) : Nat := if wide then min y.n 64 else y.n % 64

/-- The typed bitwise operations, shifts and bit fields (R135-R138). -/
def bitSpec (_ : State) (i : Instr) : Option LaneSpec :=
  match i with
  | .and g d a b => some (int2 g d a b fun x y => plain ⟨bitTag x, x.pl &&& y.pl⟩)
  | .or g d a b => some (int2 g d a b fun x y => plain ⟨bitTag x, x.pl ||| y.pl⟩)
  | .xor g d a b => some (int2 g d a b fun x y => plain ⟨bitTag x, x.pl ^^^ y.pl⟩)
  | .andn g d a b => some (int2 g d a b fun x y => plain ⟨bitTag x, x.pl &&& ~~~y.pl⟩)
  | .not g d a => some (int1 g d a fun x => ⟨bitTag x, ~~~x.pl⟩)
  | .shl g w d a b => some (int2 g d a b fun x y =>
      plain ⟨bitTag x, x.pl <<< shiftBy w y⟩)
  | .shr g w d a b => some (int2 g d a b fun x y =>
      plain ⟨bitTag x, x.pl >>> shiftBy w y⟩)
  | .sar g w d a b => some (int2 g d a b fun x y =>
      plain ⟨bitTag x, x.pl.sshiftRight (shiftBy w y)⟩)
  | .rol g d a b => some (int2 g d a b fun x y => plain ⟨bitTag x, x.pl.rotateLeft (y.n % 64)⟩)
  | .popc g d a => some (int1 g d a fun x =>
      vNat ((List.range 64).filter fun k => x.pl.getLsbD k).length)
  | .clz g d a => some (int1 g d a fun x =>
      vNat (((List.range 64).find? fun k => x.pl.getLsbD (63 - k)).getD 64))
  | .ctz g d a => some (int1 g d a fun x => vNat (((List.range 64).find? fun k => x.pl.getLsbD k).getD 64))
  | .brev g d a => some (int1 g d a fun x => ⟨bitTag x, x.pl.reverse⟩)
  | .bfx g sx d a b => some (int2 g d a b fun x y =>
      let f := x.n >>> fieldPos y % 2 ^ fieldLen y
      plain ⟨.int, if sx ∧ 0 < fieldLen y ∧ 2 ^ (fieldLen y - 1) ≤ f then wordN f - wordN (2 ^ fieldLen y)
        else wordN f⟩)
  | .bfi g d a b c => some (int3 g d a b c fun x y z =>
      plain ⟨bitTag z, (z.pl &&& ~~~(fieldMask y)) ||| ((x.pl <<< fieldPos y) &&& fieldMask y)⟩)
  | _ => none

/-! #### Generic operations (R96-R126): the pairs that hardware completes -/

/-- An exact integer that a word holds; otherwise the pair diverts with OVF (R99). -/
def fitting (t : Tag) (x : Int) : Option LaneRes :=
  if -(2 ^ 63) ≤ x ∧ x < 2 ^ 63 then plain ⟨t, wordOf x⟩ else none

/-- A number (R98). -/
def isNumber (v : Val) : Bool := v.tag == .int || v.tag == .f32 || v.tag == .f64

/-- A pair of numbers of which one at least is floating (R98, R99): both F32 give class S, any other class D. -/
def mixed (r : Ready) (x y : Val) (f : Fp → Fp → Fp × Flags) : Option LaneRes :=
  if isNumber x && isNumber y then
    (if x.tag = .f32 ∧ y.tag = .f32 then
      rounded false (dynRnd r.w) (f (FpFmt.f32.decode x.n) (FpFmt.f32.decode y.n)) 0#7
    else rounded true (dynRnd r.w) (f (asF64 x).1 (asF64 y).1) ((asF64 x).2 ||| (asF64 y).2))
  else none

/-- The same where class D takes every pair but INT, INT (R101). -/
def doubled (r : Ready) (x y : Val) (f : Fp → Fp → Fp × Flags) : Option LaneRes :=
  if isNumber x && isNumber y then
    rounded true (dynRnd r.w) (f (asF64 x).1 (asF64 y).1) ((asF64 x).2 ||| (asF64 y).2)
  else none

def gen1 (traps : Bool) (g : Guard) (d : Dst) (a : Src) (f : Ready → Val → Option LaneRes) : LaneSpec :=
  lane1 (insOf g d [a]) traps f

def gen2 (traps : Bool) (g : Guard) (d : Dst) (a b : Src) (f : Ready → Val → Val → Option LaneRes) : LaneSpec :=
  lane2 (insOf g d [a, b]) traps f

/-- The canonical NaN of a precision (R39). -/
def nanOut (dbl : Bool) : Option LaneRes :=
  some (.ok [if dbl then ⟨.f64, 0x7FF8000000000000#64⟩ else ⟨.f32, 0x7FC00000#64⟩] 0#7 true)

/-- A floating value with its sign bit as `neg` says (R102, R146). -/
def signed (neg : Bool → Bool) (x : Val) : Option LaneRes :=
  if x.tag = .f64 then
    (if x.isNan then nanOut true
    else plain ⟨.f64, if neg (x.pl.getLsbD 63) then x.pl ||| 0x8000000000000000#64
      else x.pl &&& 0x7FFFFFFFFFFFFFFF#64⟩)
  else if x.isNan then nanOut false
  else plain ⟨.f32, if neg (x.pl.getLsbD 31) then wordN (x.n % 2 ^ 31 + 2 ^ 31) else wordN (x.n % 2 ^ 31)⟩

/-- One number is below another, −0 below +0 (R104, R146). -/
def under (x y : Fp) : Bool := Fp.cmp x y == some .lt || (x.isZero && y.isZero && x.isNeg && !y.isNeg)

/-- MIN or MAX of two numbers or two TS values (R104): `up` for MAX. -/
def pickOne (up : Bool) (x y : Val) : Option LaneRes :=
  if isNumber x && isNumber y then
    (if x.isNan || y.isNan then nanOut ((x.tag = .f64 && x.isNan) || (y.tag = .f64 && y.isNan))
    else plain (if (if up then under (numOf x) (numOf y) else under (numOf y) (numOf x)) then y else x))
  else if x.tag = .ts ∧ y.tag = .ts then plain (if (if up then x.i < y.i else y.i < x.i) then y else x)
  else none

/-- Equality of a pair that hardware completes (R103). -/
def sameVal (x y : Val) : Option Bool :=
  if isNumber x && isNumber y then some (Fp.cmp (numOf x) (numOf y) == some .eq)
  else if x.tag ≠ y.tag then some false
  else if x.tag = .raw ∨ x.tag = .fwd ∨ x.tag = .tile ∨ x.tag = .hdr then none
  else some (x.pl == y.pl)

/-- The order of R103. -/
def ordered (rel : Ordering → Bool) (x y : Val) : Option LaneRes :=
  if isNumber x && isNumber y then plain (vBool ((Fp.cmp (numOf x) (numOf y)).any rel))
  else if x.tag = .ts ∧ y.tag = .ts then plain (vBool (rel (compare x.i y.i)))
  else none

/-- A value under tag code `t` (R13, R14, R124). -/
def taggedAs (t : Nat) (x : Val) : Option LaneRes :=
  match Tag.ofNat? t with
  | some t => (canon t x.pl).bind plain
  | none => none

/-- The generic and tag instructions' results (R99-R105, R123-R126). -/
def genSpec (_ : State) (i : Instr) : Option LaneSpec :=
  match i with
  | .add g d a b => some (gen2 true g d a b fun r x y =>
      if x.tag = .int ∧ y.tag = .int then fitting .int (x.i + y.i)
      else if (x.tag = .ts ∧ y.tag = .int) ∨ (x.tag = .int ∧ y.tag = .ts) then fitting .ts (x.i + y.i)
      else mixed r x y (Fp.add (dynRnd r.w)))
  | .sub g d a b => some (gen2 true g d a b fun r x y =>
      if x.tag = .int ∧ y.tag = .int then fitting .int (x.i - y.i)
      else if x.tag = .ts ∧ y.tag = .int then fitting .ts (x.i - y.i)
      else if x.tag = .ts ∧ y.tag = .ts then fitting .int (x.i - y.i)
      else mixed r x y fun p q => Fp.add (dynRnd r.w) p q.negate)
  | .mul g d a b => some (gen2 true g d a b fun r x y =>
      if x.tag = .int ∧ y.tag = .int then fitting .int (x.i * y.i) else mixed r x y Fp.mul)
  | .div g d a b => some (gen2 true g d a b fun r x y =>
      if x.tag = .int ∧ y.tag = .int ∧ y.i = 0 then none else mixed r x y Fp.div)
  | .idiv g d a b => some (gen2 true g d a b fun r x y =>
      if x.tag = .int ∧ y.tag = .int then (if y.i = 0 then none else fitting .int (Int.fdiv x.i y.i))
      else doubled r x y fpFloorDiv)
  | .mod g d a b => some (gen2 true g d a b fun r x y =>
      if x.tag = .int ∧ y.tag = .int then (if y.i = 0 then none else fitting .int (Int.fmod x.i y.i))
      else doubled r x y fpFloorMod)
  | .neg g d a => some (gen1 true g d a fun _ x =>
      if x.tag = .int then fitting .int (-x.i)
      else if x.tag = .f32 ∨ x.tag = .f64 then signed (fun b => !b) x else none)
  | .abs g d a => some (gen1 true g d a fun _ x =>
      if x.tag = .int then fitting .int (max x.i (-x.i))
      else if x.tag = .f32 ∨ x.tag = .f64 then signed (fun _ => false) x else none)
  | .min g d a b => some (gen2 true g d a b fun _ x y => pickOne false x y)
  | .max g d a b => some (gen2 true g d a b fun _ x y => pickOne true x y)
  | .ceq g d a b => some (gen2 false g d a b fun _ x y => (sameVal x y).bind fun e => plain (vBool e))
  | .cne g d a b => some (gen2 false g d a b fun _ x y => (sameVal x y).bind fun e => plain (vBool (!e)))
  | .clt g d a b => some (gen2 false g d a b fun _ x y => ordered (fun o => o == .lt) x y)
  | .cle g d a b => some (gen2 false g d a b fun _ x y => ordered (fun o => o != .gt) x y)
  | .truth g d a => some (gen1 false g d a fun _ x => plain (vBool (truthOf x)))
  | .tagof g d a => some (gen1 false g d a fun _ x => plain (vNat x.tag.toNat))
  | .tagset g t d a => some (lane1 { insOf g d [a] with
      pre := fun _ => if 12 < t.toNat then some (flt .instruction 0) else none } false
      fun _ x => taggedAs t.toNat x)
  | .tagsetDyn g d a b => some (gen2 false g d a b fun _ x t => if t.tag = .int then taggedAs t.n x else none)
  | .tagis g d a b => some (gen2 false g d a b fun _ x t =>
      if t.tag = .int then plain (vBool (t.pl.getLsbD x.tag.toNat)) else none)
  | .mov g d a => some (gen1 false g d a fun _ x => plain x)
  | _ => none

/-! #### Floating point (R143-R151) -/

/-- A source of precision P (R144). -/
def fpSource (dbl : Bool) (x : Val) : Bool := x.tag == .f32 || (dbl && x.tag == .f64)

/-- Its exact value. -/
def fpVal (x : Val) : Fp := if x.tag = .f64 then FpFmt.f64.decode x.n else FpFmt.f32.decode x.n

/-- An operation of one source rounded once. -/
def fp1 (g : Guard) (dbl : Bool) (d : Dst) (a : Src) (f : Ready → Val → Option LaneRes) : LaneSpec :=
  gen1 true g d a fun r x => if fpSource dbl x then f r x else none

def fp2 (g : Guard) (dbl : Bool) (d : Dst) (a b : Src) (f : Ready → Val → Val → Option LaneRes) : LaneSpec :=
  gen2 true g d a b fun r x y => if fpSource dbl x && fpSource dbl y then f r x y else none

/-- FMIN or FMAX (R146): a source of F32 counts as the widened value in a .d instance. -/
def fpPick (up dbl : Bool) (x y : Val) : Option LaneRes :=
  if x.isNan || y.isNan then nanOut dbl
  else plain (fpWiden dbl (if (if up then under (fpVal x) (fpVal y) else under (fpVal y) (fpVal x)) then y else x))

/-- The relation of R147. -/
def fcmpRel (c : FCnd) (o : Option Ordering) : Bool :=
  match c with
  | .eq => o == some .eq
  | .ne => o != some .eq
  | .lt => o == some .lt
  | .le => o == some .lt || o == some .eq
  | .gt => o == some .gt
  | .ge => o == some .gt || o == some .eq
  | .un => o.isNone
  | .ord => o.isSome

/-- The floating-point instructions' results (R145-R151). -/
def floatSpec (_ : State) (i : Instr) : Option LaneSpec :=
  match i with
  | .fadd g dbl rm d a b => some (fp2 g dbl d a b fun r x y =>
      rounded dbl (rmRnd r.w rm) (Fp.add (rmRnd r.w rm) (fpVal x) (fpVal y)) 0#7)
  | .fsub g dbl rm d a b => some (fp2 g dbl d a b fun r x y =>
      rounded dbl (rmRnd r.w rm) (Fp.add (rmRnd r.w rm) (fpVal x) (fpVal y).negate) 0#7)
  | .fmul g dbl rm d a b => some (fp2 g dbl d a b fun r x y =>
      rounded dbl (rmRnd r.w rm) (Fp.mul (fpVal x) (fpVal y)) 0#7)
  | .ffma g dbl rm d a b c => some (lane3 (insOf g d [a, b, c]) true fun r x y z =>
      if fpSource dbl x && fpSource dbl y && fpSource dbl z then
        rounded dbl (rmRnd r.w rm) (Fp.fma (rmRnd r.w rm) (fpVal x) (fpVal y) (fpVal z)) 0#7
      else none)
  | .fdiv g dbl rm d a b => some (fp2 g dbl d a b fun r x y =>
      rounded dbl (rmRnd r.w rm) (Fp.div (fpVal x) (fpVal y)) 0#7)
  | .fsqrt g dbl rm d a => some (fp1 g dbl d a fun r x =>
      rounded dbl (rmRnd r.w rm) (Fp.sqrt (fpVal x)) 0#7)
  | .fmin g dbl d a b => some (fp2 g dbl d a b fun _ x y => fpPick false dbl x y)
  | .fmax g dbl d a b => some (fp2 g dbl d a b fun _ x y => fpPick true dbl x y)
  | .fcmp g dbl c d a b => some (fp2 g dbl d a b fun _ x y =>
      plain (vBool (fcmpRel c (Fp.cmp (fpVal x) (fpVal y)))))
  | .frnd g dbl rm d a => some (fp1 g dbl d a fun r x =>
      let z := (if dbl then FpFmt.f64 else FpFmt.f32).round noSat .rne (Fp.integral (rmRnd r.w rm) (fpVal x))
      some (.ok [⟨if dbl then .f64 else .f32, wordN z.1⟩] 0#7 ((if dbl then FpFmt.f64 else FpFmt.f32).isNan z.1)))
  | .fabs g dbl d a => some (fp1 g dbl d a fun _ x => signed (fun _ => false) (fpWiden dbl x))
  | .fneg g dbl d a => some (fp1 g dbl d a fun _ x => signed (fun b => !b) (fpWiden dbl x))
  | .log2 g dbl d a => some (fp1 g dbl d a fun _ x => rounded dbl .rne (fpLog2 (fpVal x)) 0#7)
  | .exp2 g dbl d a => some (fp1 g dbl d a fun _ x => rounded dbl .rne (fpExp2 (fpVal x)) 0#7)
  | .rcp g dbl d a => some (fp1 g dbl d a fun _ x => rounded dbl .rne (fpRcp (fpVal x)) 0#7)
  | .rsq g dbl d a => some (fp1 g dbl d a fun _ x => rounded dbl .rne (fpRsq (fpVal x)) 0#7)
  | .sin g dbl d a => some (fp1 g dbl d a fun _ x => rounded dbl .rne (fpSin (fpVal x)) 0#7)
  | .cos g dbl d a => some (fp1 g dbl d a fun _ x => rounded dbl .rne (fpCos (fpVal x)) 0#7)
  | _ => none

/-! #### Conversions (R152-R158) -/

/-- The rounding of element `k` of a conversion to `f`: the mode, or the decision that stochastic rounding takes
over the instruction's elements (R49, R53). -/
def convRnd (r : Ready) (f : Fmt) (rm : Rm) (arg : Nat → Option Num) (k : Nat) : Rnd :=
  if rmIsSr r.w rm then .sr (srDecide (srElems r f arg) (if r.vec then k else 0)) else rmRnd r.w rm

/-- Elements of a format in a word (R37, R154). -/
def perWord (f : Fmt) : Nat := 64 / fmtBits f

/-- The conversions' results (R45, R59, R60, R152-R158). -/
def convSpec (s : State) (i : Instr) : Option LaneSpec :=
  match i with
  | .cvt g f rm d a => some
      ⟨insOf g d [a], true, execLanes, fun r k => (numArg (r.val 0 k)).bind fun x =>
        let z := convElem f (warpSat r.w) (convRnd r f rm (fun j => numArg (r.val 0 j)) k) x
        some (.ok [cvtVal f z.1] z.2 (elemIsNan f z.1))⟩
  | .pack g f md d a => some
      { ins := { insOf g d [runSrc a] with
          reads := runRegs a (perWord f), chk := fun w => runOk w a (perWord f) }, traps := true, on := execLanes
        res := fun r k =>
          let one := fun (j : Nat) =>
            if f.isInt ∧ md = 1#3 then (wrapNat (fmtBits f) (runLane r.w a j k).i, (0#7 : Flags))
            else convElem f (warpSat r.w)
              (if f.isInt then rmRnd r.w (rmOfBits md)
                else convRnd r f (rmOfBits md) (fun l => numArg (runLane r.w a j l)) k)
              ((numArg (runLane r.w a j k)).getD (.int 0))
          let es := (List.range (perWord f)).map one
          if (List.range (perWord f)).all fun j => packTagOk f (runLane r.w a j k).tag then
            some (.ok [vRaw (packElems (fmtBits f) (es.map Prod.fst))] (es.foldl (fun z e => z ||| e.2) 0#7)
              (es.any fun e => elemIsNan f e.1))
          else none }
  | .unpk g f wide d a => some
      { ins := { insOf g .nowb [a] with dsts := runDsts d (perWord f), chk := fun w => runOk w d (perWord f) }
        traps := true, on := execLanes
        res := fun r k =>
          let v := r.val 0 k
          let es := (List.range (perWord f)).map fun j => bitsAt v.n (j * fmtBits f) (fmtBits f)
          let up := fun b => if f.isInt then vInt (elemInt f b) else
            ⟨if wide then .f64 else .f32,
              wordN ((if wide then FpFmt.f64 else FpFmt.f32).round noSat .rne (elemDecode f b)).1⟩
          if v.tag = .raw ∨ v.tag = .int then
            some (.ok (es.map up) 0#7 (!f.isInt && es.any fun b => elemIsNan f b))
          else none }
  | .k8dec g f16 j d a => some
      { ins := { insOf g .nowb [a] with dsts := runDsts d 2, chk := fun w => runOk w d 2 }
        traps := false, on := execLanes
        res := fun r k =>
          let v := r.val 0 k
          let code := bitsAt v.n (16 * j.toNat) 16
          let row := (coreCtx s r.w.pos r.w.asid).k8.getD (code / 256) 0
          let fm : FpFmt := if f16 then .f16 else .bf16
          let e := fun i => (fm.round noSat .rne (k8Fp row code i)).1
          if v.tag = .raw ∨ v.tag = .int then
            some (.ok [vRaw (packElems 16 ((List.range 4).map e)),
              vRaw (packElems 16 ((List.range 4).map fun i => e (i + 4)))] 0#7 false)
          else none }
  | .hash g d a b => some (gen2 false g d a b fun _ x y => plain ⟨.int, hash64 x.pl y.pl⟩)
  | .rndu g d a b => some (gen2 false g d a b fun _ x y =>
      plain (vF32 (FpFmt.f32.round noSat .rtz (.num false (2 * ((hash64 x.pl y.pl).toNat / 2 ^ 40) + 1) (-25))).1))
  | _ => none

/-! #### Masks and lanes (R206-R221) -/

/-- A mask operand (R207). -/
def maskOf (v : Val) : Option Mask := if v.tag = .raw ∨ v.tag = .int then some (v.pl.setWidth 32) else none

/-- A result of the scalar unit. -/
def once (i : Ins) (f : Ready → Option Val) : LaneSpec := ⟨i, false, execLanes, fun r _ => (f r).bind plain⟩

/-- Two masks combined. -/
def mask2 (g : Guard) (d : Dst) (a b : Src) (f : Mask → Mask → Mask) : LaneSpec :=
  once (scalarIns g d [a, b] false) fun r =>
    (maskOf (r.val 0 0)).bind fun x => (maskOf (r.val 1 0)).map fun y => vRaw (f x y).toNat

/-- The active lanes whose operand `j` is true. -/
def trueOf (r : Ready) (j : Nat) : Mask := maskWhere fun k => r.eff.getLsbD k && truthOf (r.val j k)

/-- Number of one bits. -/
def countOnes (m : Mask) : Nat := ((List.range 32).filter fun k => m.getLsbD k).length

/-- The mask and lane instructions' results (R210-R216). -/
def crossSpec (_ : State) (i : Instr) : Option LaneSpec :=
  match i with
  | .mand g d a b => some (mask2 g d a b (· &&& ·))
  | .mor g d a b => some (mask2 g d a b (· ||| ·))
  | .mxor g d a b => some (mask2 g d a b (· ^^^ ·))
  | .mnot g d a => some (once (scalarIns g d [a] false) fun r => (maskOf (r.val 0 0)).map fun x => vRaw (~~~x).toNat)
  | .mpopc g d a => some (once (scalarIns g d [a] true) fun r =>
      if r.isVec 0 then some (vNat (countOnes (trueOf r 0)))
      else (maskOf (r.val 0 0)).map fun x => vNat (countOnes x))
  | .mffs g hi d a => some (once (scalarIns g d [a] false) fun r => (maskOf (r.val 0 0)).map fun x =>
      match (if hi then (List.range 32).reverse else List.range 32).find? fun k => x.getLsbD k with
      | some k => vNat k
      | none => vInt (-1))
  | .mset g mrg d a => some (once { scalarIns g d [a] true with
        reads := if mrg then (match d with
          | .reg x => [x]
          | _ => []) else [] } fun r =>
      some (vRaw (trueOf r 0 ||| (if mrg then dstMask r.w d &&& ~~~r.eff else 0#32)).toNat))
  | .mget g d a => some
      ⟨{ insOf g d [a] with shape := some true, chk := fun w => !srcVec w a }, false, execLanes, fun r k =>
        (maskOf (r.val 0 k)).bind fun x => plain (vBool (x.getLsbD k))⟩
  | .vote g md d a => some (once (scalarIns g d [a] true) fun r => some (vBool (match md with
      | .some => trueOf r 0 != 0#32
      | .every => trueOf r 0 == r.eff
      | .same => (maskLanes r.eff).all fun k => r.val 0 k == r.val 0 (lowLane r.eff)
      | .none => trueOf r 0 == 0#32)))
  | .shfl g md fill d a b => some
      ⟨{ insOf g d (a :: b :: fill.toList) with shape := some true }, false, execLanes, fun r k =>
        let j := shflLane md k (r.val 1 k)
        if (r.val 1 k).tag = .int then
          plain (if 0 ≤ j ∧ j < 32 ∧ r.eff.getLsbD j.toNat then r.val 0 j.toNat
            else if fill.isSome then r.val 2 k else r.val 0 k)
        else none⟩
  | .lgather g n d a b => some
      ⟨{ insOf g d [b] with
          shape := some true, reads := runRegs (.v a) (n.toNat + 1), chk := fun w => runOk w (.v a) (n.toNat + 1) },
        false, execLanes, fun r k =>
          let x := r.val 0 k
          if x.tag = .int then
            plain (if x.n < 32 * (n.toNat + 1) then rowAt (rowVal r.w (a.toNat + x.n / 32)) (x.n % 32) else vNil)
          else none⟩
  | .bcast g lane d a => some (once { scalarIns g d (a :: lane.toList) true with
        chk := fun w => !(lane.toList.any (srcVec w)) } fun r =>
      if lane.isSome then
        (if (r.val 1 0).tag = .int ∧ (r.val 1 0).n < 32 then some (r.val 0 (r.val 1 0).n) else none)
      else some (r.val 0 (lowLane r.eff)))
  | _ => none

/-- The lanes' values under reduction (R217). -/
def redInputs (r : Ready) (op : ROp) (ty : Ty) (b : Src) : List (Option RedVal) :=
  lanes.map fun k => if r.eff.getLsbD k then
    some (redStart op ty (r.val 0 k) (if op.isArg then redIdx r b k else 0)) else none

/-- All 32 lanes of the destination rows (R208). -/
def rowsOut (f : Nat → List Val) : Nat → Option LaneRes := fun k => some (.ok (f k) 0#7 false)

/-- Every active lane of the listed registers holds a key of the type (R209). -/
def keysOk (ty : Ty) (r : Ready) (regs : List Nat) : Bool :=
  (maskLanes r.eff).all fun k => regs.all fun v => tyOk ty (rowAt (rowVal r.w v) k).tag

/-- The combining instructions' results (R205, R217-R221, R530). -/
def rowSpec (_ : State) (i : Instr) : Option LaneSpec :=
  match i with
  | .redw g op ty d a b => some
      { ins := { scalarIns g d (if op.isArg then [a, b] else [a]) true with
          dsts := if op.isArg then argDsts d else [d]
          whole := true }
        traps := true, on := execLanes
        res := fun r _ =>
          if (maskLanes r.eff).all fun k => tyOk ty (r.val 0 k).tag && (!op.isArg || (r.val 1 k).tag == .int) then
            (redTree (redCombine op ty (dynRnd r.w)) (redInputs r op ty b)).map fun z =>
              .ok (if op.isArg then [z.v, vInt z.idx] else [z.v]) z.fl z.v.isNan
          else none }
  | .scanw g op ty ex d a => some
      { ins := { insOf g d [a] with shape := some true, whole := true }, traps := true, on := execLanes
        res := fun r k =>
          let ys := scanAll (redCombine op ty (dynRnd r.w))
            (lanes.map fun k => if r.eff.getLsbD k then some (redStart op ty (r.val 0 k) 0) else none)
          let fl := ys.foldl (fun f y => f ||| (y.map RedVal.fl).getD 0#7) 0#7
          let src := if ex then ((maskLanes r.eff).filter fun p => p < k).getLast? else some k
          let v := match src with
            | some p => ((ys.getD p none).map RedVal.v).getD vNil
            | none => scanIdent op ty
          if (maskLanes r.eff).all fun k => tyOk ty (r.val 0 k).tag then some (.ok [v] fl v.isNan) else none }
  | .topk g n ty nf nz d a b => some
      { ins := { insOf g .nowb [b] with
          dsts := runDsts (.v d) 2, shape := some true, whole := true, reads := runRegs (.v a) (n.toNat + 1)
          chk := fun w => !srcVec w b && runOk w (.v d) 2 && runOk w (.v a) (n.toNat + 1) }
        traps := false, on := fun _ => lanes
        res := fun r l =>
          let els := (List.range (n.toNat + 1)).flatMap fun j => (maskLanes r.eff).map fun k =>
            RankEl.mk (rowAt (rowVal r.w (a.toNat + j)) k) (vNat (32 * j + k))
          let kept := els.filter fun e => !(nz && isZeroVal e.key)
          let top := (rankSort (fun e x => rankLess ty (!nf) x e) kept).take (r.val 0 0).n
          if (r.val 0 0).tag = .int ∧ 1 ≤ (r.val 0 0).n ∧ (r.val 0 0).n ≤ 32
              ∧ keysOk ty r ((List.range (n.toNat + 1)).map fun j => a.toNat + j) then
            rowsOut (fun l => ((top[l]?).map fun e => [e.key, e.pay]).getD [vNil, vInt (-1)]) l
          else none }
  | .merge g ty d a b => some
      { ins := { insOf g .nowb [] with
          dsts := runDsts (.v d) 4, shape := some true, whole := true, reads := runRegs (.v a) 2 ++ runRegs (.v b) 2
          chk := fun w => runOk w (.v d) 4 && runOk w (.v a) 2 && runOk w (.v b) 2 }
        traps := false, on := fun _ => lanes
        res := fun r l =>
          let out := mergeRuns ty 64 (keyRun r a) (keyRun r b)
          let pos : Nat → RankEl := fun q => (out[q]?).getD ⟨vNil, vNil⟩
          if keysOk ty r [a.toNat, b.toNat] then
            rowsOut (fun k => [(pos k).key, (pos (32 + k)).key, (pos k).pay, (pos (32 + k)).pay]) l
          else none }
  | .sortw g ty desc d a => some
      { ins := { insOf g .nowb [] with
          dsts := runDsts (.v d) 2, shape := some true, whole := true, reads := runRegs (.v a) 2
          chk := fun w => runOk w (.v d) 2 && runOk w (.v a) 2 }
        traps := false, on := fun _ => lanes
        res := fun r l =>
          let out := rankSort (fun e x => if desc then rankLess ty true x e else rankLess ty false e x) (keyRun r a)
          if keysOk ty r [a.toNat] then
            rowsOut (fun k => ((out[k]?).map fun e => [e.key, e.pay]).getD [vNil, vNil]) l
          else none }
  | _ => none

end Sys2Proof.Machine
end

