-- ==== Sys2Proof/Safety/Effects.lean ====
section
/-! DEFINITION. The terms of statements about instructions that change more than registers: effects, the handler a
fault enters, and where an access lands. -/

namespace Sys2Proof.Machine

/-- What an accepted instruction does: the next state from the state and the operands its checks leave; none where
the rules give another outcome (a fault, a wait, a diversion). -/
structure Effect where
  ins : Ins
  post : State → Ready → Option State

/-- Every instruction of the table completes with the state the table gives. -/
def CarriesOut (tbl : State → Instr → Option Effect) : Prop :=
  ∀ (s t t' : State) (i : Instr) (e : Effect) (r : Ready), tbl s i = some e → Accepts s e.ins t r →
    e.post t r = some t' → exec i s = .next t'

/-- The issuing warp as the reading of its sources leaves it. -/
def now (t : State) (r : Ready) : Warp := (findWarp t r.w.uid).getD r.w

/-- The issuing warp goes on at its next word, or its next repetition, changed by `f` (R61, R81). -/
def onward (t : State) (r : Ready) (size : Nat) (f : Warp → Warp := id) : State :=
  updWarp t r.w.uid fun w => advance (f w) size

/-- The issuing warp goes on at `pc`, changed by `f`. -/
def goTo (t : State) (r : Ready) (pc : Addr) (f : Warp → Warp := id) : State :=
  updWarp t r.w.uid fun w => jumpTo (f w) pc

/-! ### Where an access lands -/

/-- Nothing stands between the place and an access to domain address `a` (R279, R461, R495, R497, R500, R508, R511): no
migration names its frame, no line error, its device answers, no link on the way retrains, the host does not hold its
line. -/
def open_ (s : State) (who : Who) (a : Nat) : Bool :=
  (migOf s a).isNone && !(s.bad.contains (lineOf a)) && !(s.soft.contains (lineOf a)) &&
    (if domDev a = s.dev then
      !((hopLinks who.pos.die (homeDie a)).any fun l => s.hub.linkDown.contains l)
        && !(s.hub.hostLines.contains (lineOf a))
    else reachable s (domDev a) && !(s.hub.lapsed.contains who.warp) &&
      !((portLinks who.pos.die (devHub (domDev a))).any fun l => s.hub.linkDown.contains l))

/-- The word an aligned access of `n` bytes reaches through an entry of the cluster's translation buffer that has
the rights and the class it needs (R166, R270-R277, R280, R287). -/
def reach (s : State) (who : Who) (k : AKind) (va n : Nat) : Option Tr :=
  match tlbFind s who va with
  | some e =>
    let p := e.pte.toNat
    let t : Tr := ⟨pteFrame p + va % e.size, p, e.size⟩
    if va < 2 ^ 56 ∧ va % n = 0 ∧ (k.writes = true → pteW p = true ∧ pteD p = true) ∧ dramOk (domPa t.da) = true
        ∧ permOk k who.sup p = true ∧ k.classOk (pteCls p) = true ∧ open_ s who t.da = true then some t
    else none
  | none => none

/-- The race detector does not watch the page (R327). -/
def unwatched (s : State) (asid : Nat) (t : Tr) : Bool := !(pteRD t.pte && (getCtx s asid).en)

/-- The value in the word an access landed on: tagged as stored, RAW on a raw page (R22). -/
def valueAt (s : State) (t : Tr) : Option Val :=
  let x := wordN (memLoad s.mem t.da 8)
  if pteCls t.pte = 1 then some ⟨.raw, x⟩ else (Tag.ofNat? (memTag s.mem t.da).toNat).map fun g => ⟨g, x⟩

/-- No continuation waits on the word of a domain address (R250). -/
def noneParked (s : State) (a : Nat) : Bool := s.dies.all fun d => d.joins.all fun j => j.addr != a / 8 * 8

/-- A value stored as ST stores it (R22, R171). -/
def putWord (s : State) (t : Tr) (v : Val) : State :=
  { s with mem := memPut s.mem t.da 8 v.n (if pteCls t.pte = 1 then none else some (BitVec.ofNat 4 v.tag.toNat)) }

/-! ### The handler of a fault (R447) -/

/-- The address in the SVTB table's entry for a fault class, for a warp that may take the fault. -/
def handlerOf (s : State) (w : Warp) (c : FClass) : Option Addr :=
  let base := (getCtx s w.asid).svtb.toNat
  if w.sup = true ∨ base = 0 then none
  else (reach s w.who .load (base + 8 * c.code) 8).bind fun t => (valueAt s t).bind fun v =>
    if v.tag = .code then some (v.pl.setWidth 56) else none

/-- The Blotter does not watch faults of the class (R479). -/
def unblotted (s : State) (c : FClass) : Bool := !(s.hub.blot.fen && s.hub.blot.fcls.getLsbD (c.code - 1))

/-- The state in which the warp stands at the handler of a fault. -/
def atHandler (t : State) (w : Warp) (p : Report) : Option State :=
  if unblotted t p.cls then
    (handlerOf t w p.cls).map fun pc => updWarp t w.uid fun w => supEntry w p pc
  else none

end Sys2Proof.Machine
end

