-- ==== Sys2Proof/Safety/Flow.lean ====
section
/-! DEFINITION. The effects of control flow, traps, HRET and special registers (spec/06, spec/07 R195, R196,
spec/01 R24-R30). -/

namespace Sys2Proof.Machine

/-! ### Control flow (R160-R164, R195) -/

/-- The address of a format-B target (R66). -/
def there (r : Ready) (off : BitVec 33) : Addr := r.w.pc + off.signExtend 56 * 8#56

/-- The link of a call (R162). -/
def linkOf (r : Ready) (size : Nat) : Val := ⟨.code, (r.w.pc + BitVec.ofNat 56 size).setWidth 64⟩

/-- The warp when the lanes `m` have left it (R164, R196): on its path, else on the path of the top entry, else
with no lane. -/
def without (w : Warp) (m : Mask) : Warp :=
  let left := (w.stack.filterMap fun e =>
    if e.mask &&& ~~~m = 0#32 then none else some { e with mask := e.mask &&& ~~~m })
  let w1 := { w with em := w.em &&& ~~~m, exited := w.exited ||| m, stack := left }
  if w.em &&& ~~~m ≠ 0#32 then advance w1 8
  else match left with
    | e :: es => jumpTo { w1 with stack := es, em := e.mask } e.pc
    | [] => advance w1 8

/-- The join counter behind an address as JADD, SPAWN and EXIT reach it (R226): a tagged word holding an INT. -/
def counterAt (s : State) (w : Warp) (va : Nat) : Option (Tr × Int) :=
  (reach s w.who .store va 8).bind fun t =>
    if pteCls t.pte = 0 ∧ memTag s.mem t.da = 0#4 ∧ unwatched s w.asid t = true ∧ noneParked s t.da = true then
      some (t, (wordN (memLoad s.mem t.da 8)).toInt)
    else none

/-- A release at a scope wider than the warp, with the detector off (R326). -/
def releasing (scope : Nat) (w : Warp) : Warp :=
  if scope ≤ 1 then w else { w with intv := w.intv + 1#28, lscp := scope }

/-- A release at scope system for each of `n` lanes, with the detector off (R310, R326). -/
def releasingLanes (n : Nat) (w : Warp) : Warp :=
  if n = 0 then w else { w with intv := w.intv + BitVec.ofNat 28 n, lscp := 6 }

/-- A branch of the lanes whose condition holds (R195): both halves non-empty and room for two entries on chip. -/
def diverged (t : State) (r : Ready) (taken : Mask) (off join : BitVec 33) : State :=
  updWarp t r.w.uid fun w => { jumpTo w (there r off) with
    em := taken
    stack := ⟨.path, false, r.w.pc + 16#56, r.w.hframes.length, 0, r.w.em &&& ~~~taken⟩ ::
      ⟨.join, false, there r join, r.w.hframes.length, 0, r.w.em⟩ :: w.stack }

/-- Control flow. -/
def flowSpec (_ : State) (i : Instr) : Option Effect :=
  match i with
  | .jmp g off => some ⟨scalarNo g [], fun t r => some (goTo t r (there r off))⟩
  | .br g n c off => some ⟨scalarNo g [c], fun t r =>
      if (r.val 0 0).tag = .bool then
        some (if ((r.val 0 0).pl = 1#64) ≠ (n = true) then goTo t r (there r off) else onward t r 8)
      else none⟩
  | .call g l off => some ⟨{ scalarNo g [] with dsts := [l] }, fun t r =>
      some (goTo t r (there r off) fun w => writeDst w l r.eff (.sca (linkOf r 8)))⟩
  | .callr g l x =>
      let i : Ins := { insOf g l [x] with shape := some false }
      some ⟨i, fun t r =>
        if (r.val 0 0).tag = .code then
          some (goTo t r ((r.val 0 0).pl.setWidth 56) fun w =>
            pushLatch (writeDst w l r.eff (.sca (linkOf r i.size))) (.sca (linkOf r i.size)))
        else none⟩
  | .ret g x => some ⟨scalarNo g [x], fun t r =>
      if (r.val 0 0).tag = .code then some (goTo t r ((r.val 0 0).pl.setWidth 56)) else none⟩
  | .loopd g c off => some ⟨{ scalarNo g [] with reads := [.s c] }, fun t r =>
      let v := sregVal r.w c.toNat
      if v.tag = .int then
        some (if v.pl.toInt ≤ 0 then onward t r 8
          else if v.pl.toInt = 1 then onward t r 8 fun w => setS w c.toNat ⟨.int, v.pl - 1⟩
          else goTo t r (there r off) fun w => setS w c.toNat ⟨.int, v.pl - 1⟩)
      else none⟩
  | .nop g => some ⟨insNo g [], fun t r => some (onward t r 8)⟩
  | .exit g => some ⟨{ scalarNo g [] with pre := fun w => if w.hnd then some (flt .instruction 28) else none },
      fun t r =>
        if (now t r).spill ≠ [] then none
        else if !r.w.packed then some (updWarp t r.w.uid fun w => without w r.eff)
        else if (getCtx t r.w.asid).en then none
        else (counterAt t r.w r.w.jca).bind fun c =>
          if ((maskLanes r.eff).length : Int) ≤ c.2 then
            some (updWarp (putWord t c.1 (vInt (c.2 - ((maskLanes r.eff).length : Int)))) r.w.uid fun w =>
              without (releasingLanes (maskLanes r.eff).length w) r.eff)
          else none⟩
  | .brd g n c off join => some ⟨{ scalarNo g [c] with size := 16, vecOk := true }, fun t r =>
      let taken := maskWhere fun k => r.eff.getLsbD k && decide (((r.val 0 k).pl = 1#64) ≠ (n = true))
      if (maskLanes r.eff).all fun k => (r.val 0 k).tag == .bool then
        (if taken = 0#32 then some (onward t r 16)
        else if r.w.em &&& ~~~taken = 0#32 then some (goTo t r (there r off))
        else if (now t r).stack.length ≤ 30 ∧ depthOk r.w 2 = true then some (diverged t r taken off join)
        else none)
      else none⟩
  | _ => none

/-! ### Traps, HRET, special registers (R180-R185, R117) -/

/-- The report of a trap taken after its instruction (R444, R448). -/
def trapReport (r : Ready) (c : FClass) (det info size : Nat) : Report :=
  { cls := c, det := det, info := info, flm := r.eff, rlm := 0#32
    fva := lanes.map fun _ => 0#64, async := 0, kind := .after, repPc := r.w.pc
    resPc := r.w.pc + BitVec.ofNat 56 size, ticket := 0, lanes := r.eff, whole := false
    popped := replayPopped r.w, part := replayPart r.w }

/-- The warp with the top entry gone and what HRET wrote (R117). -/
def hretBase (r : Ready) (f : HFrame) (v : Opd) (w : Warp) : Warp :=
  let x := match f.div with
    | some dv => ((hretWrite r.w dv r.w.em v).1, some (hretWrite r.w dv r.w.em v).2)
    | none => (r.w, none)
  { w with v := x.1.v, sreg := x.1.sreg, m := x.1.m, stack := w.stack.drop 1
           hframes := { f with div := x.2 } :: r.w.hframes.drop 1 }

/-- The warp behind the handler entry `e` of frame `f` (R74, R117, R118). -/
def hretPast (r : Ready) (e : Rejoin) (f : HFrame) (v : Opd) (w : Warp) : Warp :=
  let b := { frameBack (hretBase r f v w) f with em := e.mask, pc := e.pc, replay := none, held := none }
  match f.div with
  | none => b
  | some dv0 =>
    let dv := (hretWrite r.w dv0 r.w.em v).2
    match dv.redo with
    | some m => { b with replay := some ⟨m, dv.popped, [], false, e.pc⟩ }
    | none => if dv.pushes then pushLatch b (divLatch b dv) else b

/-- HRET, for a diverted destination that is no channel. -/
def hretTo (t : State) (r : Ready) : Option State :=
  let v : Opd := .vec (rowWith fun k => r.val 0 k)
  match r.w.stack, r.w.hframes with
  | e :: _, f :: _ =>
    if (now t r).spill = [] ∧ (f.div.all fun dv => match dv.dst with
        | .chan _ => false
        | _ => true) = true then
      (match e.kind, f.div with
      | .pending, some dv => some (updWarp t r.w.uid fun w =>
          handlerEntry (hretBase r f v w) (hretWrite r.w dv r.w.em v).2 e.pc e.mask e.rsn)
      | .handler, _ => some (updWarp t r.w.uid (hretPast r e f v))
      | _, _ => none)
    else none
  | _, _ => none

/-- Traps, HRET, MTS and SNAP. -/
def systemSpec (_ : State) (i : Instr) : Option Effect :=
  match i with
  | .trap g a => some ⟨scalarNo g [a], fun t r =>
      if (r.val 0 0).tag = .int ∧ (r.val 0 0).n ≤ 65535 then
        atHandler t (now t r) (trapReport r .instruction 1 (r.val 0 0).n (srcsSize [a]))
      else none⟩
  | .sysc g a => some ⟨{ scalarNo g [a] with
        pre := fun w => if w.sup then some (flt .instruction 0) else none }, fun t r =>
      if (r.val 0 0).tag = .int ∧ (r.val 0 0).n ≤ 4095 then
        atHandler t (now t r) (trapReport r .systemCall 0 (r.val 0 0).n (srcsSize [a]))
      else none⟩
  | .bkpt g => some ⟨scalarNo g [], fun t r =>
      if (getCtx t r.w.asid).dbg = true ∧ r.w.sup = false then
        some (debugEvent t r.w.uid 25 0xFF (trapReport r .instruction 25 0 8) (.breakpoint false false))
      else atHandler t (now t r) (trapReport r .instruction 25 0 8)⟩
  | .hret a => some ⟨{ insNo Guard.always [a] with
        shape := some true
        pre := fun w => if w.hnd && (hretTop w).isSome then none else some (flt .instruction 27) }, hretTo⟩
  | .mts g a sr => some ⟨{ insNo g [a] with shape := some (srLane sr.toNat), pre := mtsPre sr.toNat }, fun t r =>
      if sr.toNat = 16 then some (onward t r (srcsSize [a]) fun w =>
        { w with ha := rowWith fun k => if r.eff.getLsbD k then r.val 0 k else rowAt w.ha k })
      else if sr.toNat = 17 then some (onward t r (srcsSize [a]) fun w =>
        { w with hb := rowWith fun k => if r.eff.getLsbD k then r.val 0 k else rowAt w.hb k })
      else (srWrite t r.w sr.toNat (r.val 0 0).pl).map fun t => onward t r (srcsSize [a])⟩
  | .snap g a => some ⟨scalarNo g [a], fun t r =>
      if (r.val 0 0).tag = .int then
        some (onward (if t.hub.blot.sen && (getCtx t r.w.asid).snp then
          blotFire t 0 r.w.asid r.w.wnum ((r.val 0 0).n % 65536) else t) r (srcsSize [a]))
      else none⟩
  | _ => none

/-- MFS: what a register of R24 reads, in every lane or once (R184). TIME, whose value the specification leaves
open (log 6), has a statement of its own. -/
def mfsSpec (s : State) (i : Instr) : Option LaneSpec :=
  match i with
  | .mfs g d sr =>
    if sr.toNat = 29 then none
    else some ⟨{ insOf g d [] with
      shape := some (mfsVec d sr.toNat), chk := fun _ => !(srLane sr.toNat && dstScalar d) }, false, execLanes,
      fun r k => plain (srRead s r.w sr.toNat k)⟩
  | _ => none

end Sys2Proof.Machine
end

