-- ==== Sys2Proof/Safety/Memory.lean ====
section
/-! DEFINITION. The effects of lane loads and stores, atomics, hints, windows, queues and channels (spec/06
R166-R179, spec/14 R331-R350). -/

namespace Sys2Proof.Machine

/-! ### Loads (R169, R170, R173, R175, R179) -/

/-- The address of format M in lane `k` (R65, R166): BASE and IDX are operands `j` and `j + 1`. -/
def eaOf (r : Ready) (j : Nat) (m : MemOp) (n : Nat) (ln : Bool) (k : Nat) : Option Nat :=
  let b := r.val j k
  let x := r.val (j + 1) k
  if (b.tag = .int ∨ b.tag = .raw ∨ b.tag = .ref ∨ b.tag = .code) ∧ (x.tag = .int ∨ x.tag = .raw) then
    some (b.pl + (x.pl <<< m.sc.toNat) + m.disp.signExtend 64 * BitVec.ofNat 64 n
      + (if ln then BitVec.ofNat 64 (8 * k) else 0#64)).toNat
  else none

/-- Values for the lanes that execute, as results. -/
def laneVals (r : Ready) (f : Nat → Option (List Val)) : Option (List (Nat × LaneRes)) :=
  (execLanes r).mapM fun k => (f k).map fun vs => (k, .ok vs 0#7 false)

/-- Registers among the first `n` destinations. -/
def marked (i : Ins) (n : Nat) : List Reg :=
  (i.dsts.take n).filterMap fun d => match d with
    | .reg x => some x
    | _ => none

/-- A load whose lanes found `n` values each completes; the registers it wrote and its latch entry are outstanding,
so that nothing reads them yet (R169, R202). -/
def loading (t : State) (r : Ready) (i : Ins) (n : Nat) (l : List (Nat × LaneRes)) : State :=
  updWarp (lanesDone t r i false l) r.w.uid fun w => { w with outstanding := w.outstanding ++ [⟨marked i n, some 0⟩] }

/-- A word reached by a load that nothing watches. -/
def loadedAt (t : State) (w : Warp) (k : AKind) (va : Nat) : Option Val :=
  (reach t w.who k va 8).bind fun p => if unwatched t w.asid p then valueAt t p else none

/-- The read barrier lets the value pass (R172): no reference, or one to a page that does not move. -/
def settled (t : State) (w : Warp) (v : Val) : Bool :=
  v.tag != .ref || (tlbFind t w.who v.n).any fun e =>
    dramOk (domPa (pteFrame e.pte.toNat + v.n % e.size)) && !(pteMV e.pte.toNat)

def settledAt (t : State) (w : Warp) (va : Nat) : Option Val :=
  (loadedAt t w .load va).bind fun v => if settled t w v then some v else none

/-- Bytes of an element inside a word with no reserved tag (R14, R173). -/
def bytesAt (t : State) (w : Warp) (va n : Nat) : Option Nat :=
  (reach t w.who .load va n).bind fun p =>
    if unwatched t w.asid p = true ∧ (pteCls p.pte = 1 ∨ (memTag t.mem p.da).toNat ≤ 12) then
      some (memLoad t.mem p.da n)
    else none

/-- The loads. -/
def loadSpec (_ : State) (i : Instr) : Option Effect :=
  match i with
  | .ld g ln _ d m =>
      let i := insOf g d m.srcs
      some ⟨{ i with bad := fun w => ln && !insVec w i }, fun t r =>
        (laneVals r fun k => (eaOf r 0 m 8 ln k).bind fun va => (settledAt t r.w va).map fun v => [v]).map
          (loading t r i 1)⟩
  | .ldt g f d m => some ⟨insOf g d m.srcs, fun t r =>
      (laneVals r fun k => (eaOf r 0 m (fmtBytes f) false k).bind fun va =>
        (bytesAt t r.w va (fmtBytes f)).map fun b => [ldtVal f b]).map (loading t r (insOf g d m.srcs) 1)⟩
  | .hld g d m => some ⟨insOf g d m.srcs, fun t r =>
      (laneVals r fun k => (eaOf r 0 m 8 false k).bind fun va =>
        (loadedAt t r.w .header va).map fun v => [v]).map (loading t r (insOf g d m.srcs) 1)⟩
  | .ldl g n _ d m =>
      let i := { insOf g .nowb m.srcs with
        dsts := runDsts (.v d) (n.toNat + 1)
        chk := fun w => runOk w (.v d) (n.toNat + 1) && !(m.srcs.any (srcVec w)) }
      some ⟨i, fun t r =>
        (laneVals r fun k => (eaOf r 0 m 256 false k).bind fun va =>
          if va % 64 = 0 then
            (List.range (n.toNat + 1)).mapM fun j => settledAt t r.w (va + 8 * (32 * j + k))
          else none).map (loading t r i (n.toNat + 1))⟩
  | _ => none

/-! ### Stores (R171, R173-R175, R177) -/

/-- `n` bytes written inside a word; a tagged word partly written becomes RAW (R22). -/
def partStored (s : State) (t : Tr) (n x : Nat) : State :=
  { s with mem := memPut s.mem t.da n x (if pteCls t.pte = 1 then none else some 3#4) }

/-- The word a store reaches, unwatched and with no continuation on it. -/
def storeTo (s : State) (w : Warp) (k : AKind) (va n : Nat) : Option Tr :=
  (reach s w.who k va n).bind fun t =>
    if unwatched s w.asid t = true ∧ noneParked s t.da = true then some t else none

/-- The card byte, written when a reference is stored to a page with cards (R174). -/
def carded (s : State) (w : Warp) (va : Nat) (t : Tr) (refs : Bool) : Option State :=
  let base := (getCtx s w.asid).cardb.toNat
  if refs = true ∧ pteCRD t.pte = true ∧ base ≠ 0 then
    (storeTo s w .store (base + va / 512) 1).map fun c => partStored s c 1 1
  else some s

/-- One lane's store of a value (R171). -/
def stored (s : State) (w : Warp) (va : Nat) (v : Val) : Option State :=
  (storeTo s w .store va 8).bind fun t => (carded s w va t (v.tag == .ref)).map fun s => putWord s t v

/-- Lanes act in ascending order, each on the state the one before left. -/
def inTurn (r : Ready) (t : State) (f : State → Nat → Option State) : Option State := (execLanes r).foldlM f t

/-- Lanes that write no register. -/
def silent (r : Ready) : List (Nat × LaneRes) := (execLanes r).map fun k => (k, noVal)

/-- One lane's typed store (R173): an element of 8 bytes is a word under its view's tag. -/
def storedElem (s : State) (w : Warp) (f : Fmt) (va b : Nat) : Option State :=
  (storeTo s w .store va (fmtBytes f)).map fun t =>
    if fmtBytes f = 8 then putWord s t ⟨sttTag f, wordN b⟩ else partStored s t (fmtBytes f) b

/-- The elements a converting store writes, with flags and NaN (R49, R53, R173). -/
def elems (r : Ready) (f : Fmt) (md : BitVec 3) (k : Nat) : Option (Nat × Flags × Bool) :=
  storeElem r f md (storeElems r f md) k (r.val 0 k)

/-- The lanes' flags as results. -/
def elemRes (r : Ready) (f : Fmt) (md : BitVec 3) : List (Nat × LaneRes) :=
  (execLanes r).map fun k => (k, match elems r f md k with
    | some e => .ok [] e.2.1 e.2.2
    | none => noVal)

/-- ALLOC's objects in lane order from the bump pointer `p` (R177). -/
def objects (r : Ready) : List Nat → State → Nat → Option (State × Nat × List (Nat × LaneRes))
  | [], s, p => some (s, p, [])
  | k :: l, s, p =>
    let n := (r.val 0 k).n
    let c := (r.val 1 k).n
    if (r.val 0 k).tag = .int ∧ (r.val 1 k).tag = .int ∧ 1 ≤ n ∧ n < 2 ^ 24 ∧ c < 2 ^ 24
        ∧ p + 16 * ((n + 1) / 2) ≤ r.w.nlim then
      (storeTo s r.w .headerStore p 8).bind fun t =>
        (objects r l (putWord s t ⟨.hdr, wordN (n * 2 ^ 24 + c)⟩) (p + 16 * ((n + 1) / 2))).map fun q =>
          (q.1, q.2.1, (k, .ok [⟨.ref, wordN p⟩] 0#7 false) :: q.2.2)
    else none

/-- The stores. -/
def storeSpec (_ : State) (i : Instr) : Option Effect :=
  match i with
  | .st g ln d m =>
      let i := { storeInsOf g d m with
        bad := fun w => ln && srcOk w d && !srcVec w d }
      some ⟨i, fun t r =>
        (inTurn r t fun s k => (eaOf r 1 m 8 ln k).bind fun va => stored s r.w va (r.val 0 k)).map fun s =>
          lanesDone s r i false (silent r)⟩
  | .stt g f md d m => some ⟨storeInsOf g d m, fun t r =>
      (inTurn r t fun s k => (elems r f md k).bind fun e => (eaOf r 1 m (fmtBytes f) false k).bind fun va =>
        storedElem s r.w f va e.1).map fun s => lanesDone s r (storeInsOf g d m) true (elemRes r f md)⟩
  | .hst g d m => some ⟨storeInsOf g d m, fun t r =>
      (inTurn r t fun s k => (eaOf r 1 m 8 false k).bind fun va => (storeTo s r.w .headerStore va 8).map fun p =>
        putWord s p (r.val 0 k)).map fun s => lanesDone s r (storeInsOf g d m) false (silent r)⟩
  | .alloc g d a b => some ⟨insOf g d [a, b], fun t r =>
      (objects r (execLanes r) t r.w.ncur).map fun q =>
        lanesDone (updWarp q.1 r.w.uid fun w => { w with ncur := q.2.1 }) r (insOf g d [a, b]) false q.2.2⟩
  | _ => none

/-! ### Atomics and ordering (R331-R337) -/

/-- The address of an atomic (R331). -/
def atomEa (r : Ready) (j : Nat) (m : ScopeOp) (n k : Nat) : Option Nat :=
  let b := r.val j k
  if b.tag = .int ∨ b.tag = .raw ∨ b.tag = .ref ∨ b.tag = .code then
    some (b.pl + m.disp.signExtend 64 * BitVec.ofNat 64 n).toNat
  else none

/-- The release of an instruction, with the race detector off (R326, R332). -/
def releasedBy (t : State) (r : Ready) (rel : Bool) (scope : BitVec 4) : Option State :=
  if !rel then some t
  else if (getCtx t r.w.asid).en then none
  else some (updWarp t r.w.uid (releasing scope.toNat))

def isRelease (o : AOrd) : Bool := o == .rel || o == .ar

/-- Lanes in order, each with the values it returns. -/
def eachLane (f : State → Nat → Option (State × List Val)) :
    List Nat → State → Option (State × List (Nat × LaneRes))
  | [], s => some (s, [])
  | k :: l, s => (f s k).bind fun q => (eachLane f l q.1).map fun z => (z.1, (k, .ok q.2 0#7 false) :: z.2)

/-- The word of an atomic and whether its page is raw. -/
def atomWord (s : State) (w : Warp) (va n : Nat) : Option (Tr × Val) :=
  (storeTo s w .store va n).bind fun t => (valueAt s t).map fun v => (t, v)

/-- Atomics, LDA, STL and PHASE. -/
def atomSpec (_ : State) (i : Instr) : Option Effect :=
  match i with
  | .atom g op ord d m => some ⟨insOf g (.reg d) [.reg d, m.base], fun t r =>
      (releasedBy t r (isRelease ord) m.scope).bind fun t => (eachLane (fun s k =>
        (atomEa r 1 m 8 k).bind fun va => (atomWord s r.w va 8).bind fun q =>
          (atomNew op (pteCls q.1.pte == 1) q.2 (r.val 0 k)).bind fun v =>
            (carded s r.w va q.1 (v.tag == .ref)).map fun s => (putWord s q.1 v, [q.2])) (execLanes r) t).map fun z =>
          lanesDone z.1 r (insOf g (.reg d) [.reg d, m.base]) false z.2⟩
  | .cas g ord d m =>
      let i := { insOf g .nowb [m.base] with dsts := runDsts d 2, reads := runRegs d 2, chk := fun w => runOk w d 2 }
      some ⟨i, fun t r => (releasedBy t r (isRelease ord) m.scope).bind fun t => (eachLane (fun s k =>
        (atomEa r 0 m 8 k).bind fun va => (atomWord s r.w va 8).bind fun q =>
          let same := if pteCls q.1.pte = 1 then q.2.pl == (runLane r.w d 0 k).pl else q.2 == runLane r.w d 0 k
          let v := runLane r.w d 1 k
          (if same then (carded s r.w va q.1 (v.tag == .ref)).map fun s => putWord s q.1 v else some s).map fun s =>
            (s, [q.2, vBool same])) (execLanes r) t).map fun z => lanesDone z.1 r i false z.2⟩
  | .cas2 g ord d m =>
      let i := { insOf g .nowb [m.base] with dsts := runDsts d 3, reads := runRegs d 4, chk := fun w => runOk w d 4 }
      some ⟨i, fun t r => (releasedBy t r (isRelease ord) m.scope).bind fun t => (eachLane (fun s k =>
        (atomEa r 0 m 16 k).bind fun va => (atomWord s r.w va 16).bind fun q =>
          let hiAt : Tr := { q.1 with da := q.1.da + 8 }
          (valueAt s hiAt).bind fun hi =>
            let eq := fun (a b : Val) => if pteCls q.1.pte = 1 then a.pl == b.pl else a == b
            let same := eq q.2 (runLane r.w d 0 k) && eq hi (runLane r.w d 1 k)
            let u := runLane r.w d 2 k
            let v := runLane r.w d 3 k
            if noneParked s hiAt.da then
              (if same then (carded s r.w va q.1 (u.tag == .ref || v.tag == .ref)).map fun s =>
                putWord (putWord s q.1 u) hiAt v else some s).map fun s => (s, [q.2, hi, vBool same])
            else none) (execLanes r) t).map fun z => lanesDone z.1 r i false z.2⟩
  | .lda g d m => some ⟨insOf g d [m.base], fun t r =>
      (laneVals r fun k => (atomEa r 0 m 8 k).bind fun va => (loadedAt t r.w .load va).map fun v => [v]).map
        (lanesDone t r (insOf g d [m.base]) false)⟩
  | .stl g d m => some ⟨insNo g [d, m.base], fun t r => (releasedBy t r true m.scope).bind fun t =>
      (inTurn r t fun s k => (atomEa r 1 m 8 k).bind fun va => stored s r.w va (r.val 0 k)).map fun s =>
        lanesDone s r (insNo g [d, m.base]) false (silent r)⟩
  | .phase g kind scope => some ⟨insNo g [], fun t r =>
      (releasedBy t r (kind != .acq) scope).map fun t => onward t r 8⟩
  | _ => none

/-! ### Hints (R285, R338) -/

/-- A hint with a translation at hand that its warp may not use, or that has no address, is dropped: whether lane
`k`'s is; none where a walk decides. `fits` is what the hint asks of the leaf. -/
def hintDropped (t : State) (r : Ready) (m : MemOp) (fits : TlbE → Nat → Option Bool) (k : Nat) : Option Bool :=
  match eaOf r 0 m 64 false k with
  | none => some true
  | some va =>
    if 2 ^ 56 ≤ va then some true
    else (tlbFind t r.w.who va).bind fun e => (fits e (pteFrame e.pte.toNat + va % e.size)).map fun b => !b

/-- Dropped lanes are counted in PFDROP; the others leave no trace. -/
def hinted (t : State) (r : Ready) (i : Ins) (drops : Option (List Bool)) : Option State :=
  drops.map fun l => lanesDone ((l.filter id).foldl (fun s _ => dropPref s r.w) t) r i false (silent r)

/-- What CFLUSH and CINVL ask: a page the warp may read that is not sparse. -/
def flushable (w : Warp) (e : TlbE) (da : Nat) : Option Bool :=
  some (dramOk (domPa da) && (w.sup || pteU e.pte.toNat) && pteCls e.pte.toNat != 2)

/-- What PREF asks: a cached tagged page the warp may read, its line within reach. -/
def prefetchable (t : State) (w : Warp) (e : TlbE) (da : Nat) : Option Bool :=
  if dramOk (domPa da) = true ∧ (w.sup = true ∨ pteU e.pte.toNat = true) ∧ pteCls e.pte.toNat = 0
      ∧ pteCI e.pte.toNat = false then
    (if open_ t w.who (da / 64 * 64) then some true else none)
  else some false

/-- The hints. -/
def hintSpec (_ : State) (i : Instr) : Option Effect :=
  match i with
  | .cflush g _ m => some ⟨insNo g m.srcs, fun t r =>
      hinted t r (insNo g m.srcs) ((execLanes r).mapM (hintDropped t r m (flushable r.w)))⟩
  | .cinvl g _ m => some ⟨insNo g m.srcs, fun t r =>
      hinted t r (insNo g m.srcs) ((execLanes r).mapM (hintDropped t r m (flushable r.w)))⟩
  | .pref g _ m => some ⟨insNo g m.srcs, fun t r =>
      hinted t r (insNo g m.srcs) ((execLanes r).mapM (hintDropped t r m (prefetchable t r.w)))⟩
  | _ => none

/-! ### Scratchpad and windows (R291-R296, R339-R341) -/

/-- The offset of LDS and STS (R339). -/
def padOff (r : Ready) (j : Nat) (m : MemOp) (n k : Nat) : Option Nat :=
  let b := r.val j k
  let x := r.val (j + 1) k
  let a := (b.pl + (x.pl <<< m.sc.toNat) + m.disp.signExtend 64 * BitVec.ofNat 64 n).toNat
  if (b.tag = .int ∨ b.tag = .raw) ∧ (x.tag = .int ∨ x.tag = .raw) ∧ a < 0x80000 ∧ a % n = 0 then some a else none

/-- The window, core and offset of a lane whose access is in range and open to it (R293, R295, R296, R340). -/
def winFor (t : State) (r : Ready) (j : Nat) (m : MemOp) (n k : Nat) : Option (Pos × Nat × Nat) :=
  let b := r.val j k
  let x := r.val (j + 1) k
  let off := ((b.pl &&& 0x7FFFFF#64) + (x.pl <<< m.sc.toNat) + m.disp.signExtend 64 * BitVec.ofNat 64 n).toNat
  let sp := bitsAt b.n 48 2
  if b.tag = .int ∧ (x.tag = .int ∨ x.tag = .raw) ∧ bitsAt b.n 23 25 = 0 ∧ (sp = 1 → n = 8)
      ∧ off + n ≤ winSize sp ∧ off % n = 0 then
    match placeOf t r.w.asid r.w.pos (bitsAt b.n 50 14) with
    | .ok p =>
      if ctxHere t p r.w.asid = true ∧ (sp = 3 → holdsToken t p r.w.asid r.w.uid (off / 0x4000) = true) then
        some (p, sp, off)
      else none
    | .error _ => none
  else none

/-- What a window reads (R293-R295, R341). -/
def winVal (t : State) (asid : Nat) (p : Pos) (sp off n : Nat) : Option Val :=
  let c := coreCtx t p asid
  match sp with
  | 0 => some (vRaw (cellsGet c.spad off n))
  | 1 => (winWarp t p asid off).map fun w => rowAt (rowVal w (off / 0x100 % 0x100)) (off / 8 % 32)
  | 2 => some (vRaw (cellsGet c.tiles off n))
  | _ => some (vRaw (cellsGet c.acc off n))

/-- What a window write leaves; a tile that an MMA reads is not written (R295, R414). -/
def winPut (t : State) (asid : Nat) (p : Pos) (sp off n : Nat) (v : Val) : Option State :=
  match sp with
  | 0 => some (updCoreCtx t p asid fun c => { c with spad := cellsSet c.spad off n v.n })
  | 1 => (winWarp t p asid off).map fun w => updWarp t w.uid fun w =>
      let row := off / 0x100 % 0x100
      { w with v := setAt w.v row (setAt (rowVal w row) (off / 8 % 32) v) }
  | 2 =>
    if tileLocked t p asid (off / 0x2000) then none
    else some (updCoreCtx t p asid fun c => { c with tiles := cellsSet c.tiles off n v.n })
  | _ => some (updCoreCtx t p asid fun c => { c with acc := cellsSet c.acc off n v.n })

/-- The scratchpad and window instructions. -/
def windowSpec (_ : State) (i : Instr) : Option Effect :=
  match i with
  | .lds g f d m => some ⟨insOf g d m.srcs, fun t r =>
      ((execLanes r).mapM fun k => padOff r 0 m (fmtBytes f) k).bind fun offs =>
        (laneVals r fun k => (padOff r 0 m (fmtBytes f) k).map fun a =>
          [ldtVal f (cellsGet (coreCtx t r.w.pos r.w.asid).spad a (fmtBytes f))]).map fun l =>
            lanesDone (bankGroup t r.w.pos offs) r (insOf g d m.srcs) false l⟩
  | .sts g f md d m => some ⟨storeInsOf g d m, fun t r =>
      ((execLanes r).mapM fun k => padOff r 1 m (fmtBytes f) k).bind fun offs =>
        (inTurn r t fun s k => (elems r f md k).bind fun e => (padOff r 1 m (fmtBytes f) k).map fun a =>
          updCoreCtx s r.w.pos r.w.asid fun c => { c with spad := cellsSet c.spad a (fmtBytes f) e.1 }).map fun s =>
            lanesDone (bankGroup s r.w.pos offs) r (storeInsOf g d m) true (elemRes r f md)⟩
  | .ldw g sz d m => some ⟨insOf g d m.srcs, fun t r =>
      (laneVals r fun k => (winFor t r 0 m (2 ^ sz.toNat) k).bind fun q =>
        (winVal t r.w.asid q.1 q.2.1 q.2.2 (2 ^ sz.toNat)).map fun v => [v]).map
          (lanesDone (winGroups t r 0 m (2 ^ sz.toNat)) r (insOf g d m.srcs) false)⟩
  | .stw g sz d m => some ⟨storeInsOf g d m, fun t r =>
      (inTurn r t fun s k => (winFor s r 1 m (2 ^ sz.toNat) k).bind fun q =>
        winPut s r.w.asid q.1 q.2.1 q.2.2 (2 ^ sz.toNat) (r.val 0 k)).map fun s =>
          lanesDone (winGroups s r 1 m (2 ^ sz.toNat)) r (storeInsOf g d m) false (silent r)⟩
  | _ => none

/-! ### Queues and channels (R342-R350) -/

/-- A queue's descriptor within reach (R342, R344). -/
def ringAt (t : State) (w : Warp) (va : Nat) : Option QDesc :=
  if va % 64 = 0 ∧ (reach t w.who .store va 8).isSome = true then
    ((List.range 8).mapM fun k => (reach t w.who .load (va + 8 * k) 8).map fun p => memLoad t.mem p.da 8).bind fun ws =>
      if qdescOk ws then some (qdescOf ws) else none
  else none

/-- Successive words of a line stored as ST does, with nothing parked on them. -/
def lineStored (w : Warp) (a : Nat) (vs : List Val) (t : State) : Option State :=
  (reach t w.who .store a 8).bind fun q => vs.zipIdx.foldlM (fun s p =>
    let at_ : Tr := { q with da := q.da + 8 * p.2 }
    if noneParked s at_.da then some (putWord s at_ p.1) else none) t

/-- A descriptor's payload word rewritten under its tag. -/
def putField (w : Warp) (va x : Nat) (t : State) : Option State :=
  (reach t w.who .store va 8).bind fun p =>
    if noneParked t p.da then some { t with mem := memPut t.mem p.da 8 x none } else none

/-- A line of words put at the tail of a queue that has room, as ENQ does (R344). -/
def enqueued (w : Warp) (va : Nat) (q : QDesc) (words : List Val) (type : Nat) (t : State) : Option State :=
  if q.count < 2 ^ q.lsz then
    (lineStored w (q.ring + 64 * (q.tail % 2 ^ q.lsz)) (words.take 7 ++ [vRaw (lineWord q.tail type)]) t).bind fun t =>
      (putField w (va + 24) ((q.tail + 1) % 2 ^ 64) t).map fun t => signalCore t q
  else none

/-- What the old binding of an entry leaves when it ends (R348, R349, R395): a partial line is padded and enqueued, a FIFO
loses the reader that held it through this entry alone, or the row reserved in it, a decoder loses the job. -/
def unbound (t : State) (r : Ready) (ch : BitVec 4) : Option State :=
  let c := getChan r.w ch
  match c.kind with
  | .free | .deq => some t
  | .enq =>
    if c.buf = [] then some t
    else (releasedBy t r true 8#4).bind fun t => (ringAt t r.w c.desc).bind fun q =>
      enqueued r.w c.desc q (c.buf ++ List.replicate (7 - c.buf.length) vNil) 0 t
  | .fin =>
    let again := (List.range r.w.chans.length).any fun k =>
      let x := r.w.chans.getD k Chan.freed
      decide (k ≠ ch.toNat ∧ x.kind = .fin ∧ x.pos = c.pos ∧ x.desc = c.desc)
    some (if again then t
      else setFifo t c.pos r.w.asid (c.desc % 4) { getFifo t c.pos r.w.asid (c.desc % 4) with reader := none })
  | .fout =>
    let f := getFifo t c.pos r.w.asid (bitsAt c.desc 16 2)
    some (if c.resv then setFifo t c.pos r.w.asid (bitsAt c.desc 16 2) { f with resv := f.resv - 1 } else t)
  | .dec => some (updCore t c.pos fun x => { x with decs := x.decs.filter fun j => !(j.chan && j.seq == c.job) })

/-- ENQ and DEQ (R344), CHBIND (R347-R350). -/
def queueSpec (_ : State) (i : Instr) : Option Effect :=
  match i with
  | .enq g try_ d m => some ⟨queueIns g [] d m, fun t r =>
      let row := rowVal r.w d.toNat
      let ends := fun (ok : Bool) s => onward s r (srcsSize m.srcs) fun w => setV w d.toNat (setAt row 8 (vBool ok))
      (eaOf r 0 m 8 false 0).bind fun va => (releasedBy t r true 8#4).bind fun t => (ringAt t r.w va).bind fun q =>
        if q.count < 2 ^ q.lsz then
          (enqueued r.w va q ((List.range 7).map (rowAt row)) (bitsAt (rowAt row 7).n 8 8) t).map (ends true)
        else if try_ then some (ends false t) else none⟩
  | .deq g try_ d m => some ⟨queueIns g [.reg (.v d)] d m, fun t r =>
      let ends := fun (l : List Val) (ok : Bool) s => onward s r (srcsSize m.srcs) fun w =>
        let row := l ++ [vBool ok] ++ (rowVal w d.toNat).drop 9
        pushLatch (setV w d.toNat row) (.vec row)
      (eaOf r 0 m 8 false 0).bind fun va => (ringAt t r.w va).bind fun q =>
        let at_ := q.ring + 64 * (q.head % 2 ^ q.lsz)
        if q.count ≠ 0 ∧ (getCtx t r.w.asid).en = false ∧ (reach t r.w.who .store at_ 8).isSome = true then
          ((List.range 8).mapM fun k => (reach t r.w.who .load (at_ + 8 * k) 8).bind (valueAt t)).bind fun l =>
            (lineStored r.w (at_ + 56) [⟨.raw, 0#64⟩] t).bind fun t =>
              (putField r.w (va + 16) ((q.head + 1) % 2 ^ 64) t).map fun t => ends l true t
        else if q.count = 0 ∧ try_ = true then some (ends (List.replicate 8 vNil) false t) else none⟩
  | .chbind g kind ch a =>
      let i : Ins := { insNo g [a] with shape := some false }
      some ⟨i, fun t r =>
        let v := r.val 0 0
        let x := v.n
        let c : Chan := ⟨kind, x, r.w.pos, [], false, 0, false, v.tag == .raw⟩
        let ends := fun (c : Chan) s => some (onward (putChan s r.w.uid ch c) r i.size)
        if (v.tag ≠ .int ∧ v.tag ≠ .raw) ∨ chanDescOk kind x = false ∨ (findWarp t r.w.uid).isNone = true then none
        else (unbound t r ch).bind fun t => match kind with
          | .free | .deq | .enq => ends c t
          | .fin =>
            let f := getFifo t r.w.pos r.w.asid x
            if f.reader = none ∨ f.reader = some r.w.uid then
              ends c (setFifo t r.w.pos r.w.asid x { f with reader := some r.w.uid })
            else none
          | .fout =>
            if bitsAt x 10 4 = 0 then
              (match placeOf t r.w.asid r.w.pos (bitsAt x 0 14) with
              | .ok p => ends { c with pos := p } t
              | .error _ => none)
            else none
          | .dec =>
            let core := getCore t r.w.pos
            let ws := spadWords t r.w.pos r.w.asid x
            if jobOk ws true then
              (freeDec core).bind fun slot => ends { c with job := core.seq } (putCore t { core with
                seq := core.seq + 1, decs := core.decs ++ [newDec core (now t r) slot x ws true .none] })
            else none⟩
  | _ => none

end Sys2Proof.Machine
end

