-- ==== Sys2Proof/Safety/Engines.lean ====
section
/-! DEFINITION. The effects of groups, spawning, launches, sparse instructions, copies, gauges and the matrix
instructions as a warp issues them (spec/08 R222-R231, spec/15, spec/16, spec/17). -/

namespace Sys2Proof.Machine

/-- What an access that goes through gives. -/
def got {α : Type} (r : Res α) : Option (State × α) :=
  match r with
  | .ok s x => some (s, x)
  | _ => none

/-- An instruction that acts once completes with the values `vs`. -/
def oneDone (t : State) (r : Ready) (i : Ins) (vs : List Val) : State :=
  lanesDone t r i false [(lowLane r.eff, .ok vs 0#7 false)]

/-! ### Groups, spawning, launches (R222-R231) -/

/-- Result of a barrier for a member (R222). -/
def barDone (s : State) (r : Ready) (i : Ins) (arg : Bool) (z : BarRes) : State :=
  lanesDone (updWarp s r.w.uid fun w => { w with barRes := none }) { r with vec := false, ops := [], popped := [] } i true
    [(lowLane r.eff, .ok (if arg then [z.acc, z.idx] else [z.acc]) z.fl z.nan)]

/-- The arrival of a member at its group's round (R222, R223). -/
def barArrives (t : State) (r : Ready) (op : ROp) (ty : Ty) (k : Nat) (l : Launch) (v : Val) (x : Option Val) :
    Option State :=
  let rank := ((l.group k).rank r.w.wnum).getD 0
  let a : Arrival := ⟨rank, r.w.uid, v, x.getD (vNat rank)⟩
  if (arriveRound l k op ty a).isSome then
    some (endRounds (updWarp (updLaunch (noteRelease t r.w.uid 2) r.w.asid r.w.launch fun l =>
        (arriveRound l k op ty a).getD l) r.w.uid fun w =>
      { w with barWait := some ⟨r.w.launch, k⟩, held := some .barrier }) r.w.asid r.w.launch)
  else none

/-- The class a SPAWN names. -/
def classOf_ (t : State) (r : Ready) (k : Nat) : SClass :=
  match findLaunch t r.w.asid r.w.launch with
  | some l => l.cls k
  | none => ⟨0, 0, 0, 0, false, false, vNil⟩

/-- Rows that join an allotment at once (R230, R253): no request of the quadrant waits and the rows are free. -/
def grownNow (t : State) (r : Ready) (n size : Nat) : Option State :=
  let q := r.w.slot / 16
  if n ≤ 256 ∧ quadReqs t r.w.pos q = [] ∧ ((getCore t r.w.pos).requests.contains r.w.uid) = false
      ∧ (now t r).isResident = true ∧ (now t r).pos = r.w.pos ∧ (now t r).slot / 16 = q ∧ (now t r).allot < n
      ∧ quadRows t r.w.pos q + (n - (now t r).allot) ≤ 512 then
    some (onward (updCore (updWarp t r.w.uid fun w => { resize w n with regsReq := none }) r.w.pos fun c =>
      { c with requests := c.requests.filter fun u => u != r.w.uid }) r size)
  else none

/-- GBAR, SPAWN, JOIN, JADD, REGS, LAUNCH. -/
def workSpec (s : State) (i : Instr) : Option Effect :=
  match i with
  | .gbar g op ty slot d a b =>
      let i : Ins := { insOf g d (if op.isArg then [a, b] else [a]) with
        dsts := if op.isArg then argDsts d else [d], shape := some false, chk := fun w => (gselAt w slot).isSome }
      some ⟨i, fun t r =>
        match r.w.barRes with
        | some z => some (barDone s r i op.isArg z)
        | none =>
          let x := if op.isArg then (if b = .reg .zr then none else some (r.val 1 0)) else some vZero
          if r.w.barWait.isSome || !(tyOk ty (r.val 0 0).tag) || x.any (fun x => x.tag != .int) then none
          else (findLaunch t r.w.asid r.w.launch).bind fun l => (gselAt r.w slot).bind fun k =>
            barArrives t r op ty k l (r.val 0 0) x⟩
  | .spawn g cls k flush a =>
      let i : Ins := { insNo g [] with
        shape := some true, reads := runRegs (.v a) (k.toNat + 1), chk := fun w => runOk w (.v a) (k.toNat + 1) }
      some ⟨i, fun t r =>
        let c := classOf_ t r cls.toNat
        if c.entry = 0 then none
        else (counterAt t r.w c.jca).bind fun q =>
          let z := spawnLanes r.w c cls.toNat a (k.toNat + 1) (maskLanes r.eff) t
          let n := (maskLanes r.eff).length
          let went := z.2.all fun p => match p.2 with
            | .ok _ _ _ => true
            | _ => false
          if q.2 ≤ 2 ^ 63 - 33 ∧ went = true ∧ z.1.mem = t.mem ∧ (getCtx t r.w.asid).en = false then
            let t1 := putWord (updWarp z.1 r.w.uid (releasingLanes n)) q.1 (vInt (q.2 + n))
            some (lanesDone (if flush then closeBins t1 r.w.pos.die fun b =>
              b.asid == r.w.asid && b.launch == r.w.launch && b.cls == cls.toNat else t1) r i false z.2)
          else none⟩
  | .join g a b =>
      let i : Ins := { insNo g [a, b] with shape := some false, pre := joinBad s }
      some ⟨i, fun t r =>
        let v := r.val 1 0
        let p := r.val 0 0
        if (v.tag ≠ .int ∧ v.tag ≠ .raw) ∨ carryOk r.w v.n = false ∨ (p.tag ≠ .int ∧ p.tag ≠ .raw ∧ p.tag ≠ .ref) then
          none
        else
          let t := joinClose t r.w p.n
          if pendingBatches t r.w.uid ≠ [] then none
          else (counterAt t r.w p.n).bind fun q =>
            let n := contSize (carryOf v.n).scnt (carryOf v.n).vcnt
            if q.2 = 0 then some (onward t r (srcsSize [a, b]))
            else if q.2 < 0 then none
            else (contFind (getCtx t r.w.asid) n).bind fun at_ => (got (chansDrop t r.w.uid)).bind fun z =>
              (findWarp z.1 r.w.uid).map fun w => parkWarp (noteRelease z.1 w.uid 6) w at_ p.n q.1.da v.n n
                (w.pc + BitVec.ofNat 56 (srcsSize [a, b]))⟩
  | .jadd g d a b => some ⟨onceOf g d [a, b], fun t r =>
      let p := r.val 0 0
      if (p.tag = .int ∨ p.tag = .raw ∨ p.tag = .ref) ∧ (r.val 1 0).tag = .int ∧ (getCtx t r.w.asid).en = false then
        (counterAt t r.w p.n).bind fun q =>
          let n := q.2 + (r.val 1 0).i
          if 0 ≤ n ∧ n < 2 ^ 63 then
            some (oneDone (putWord (updWarp t r.w.uid (releasing 6)) q.1 (vInt n)) r (onceOf g d [a, b]) [vInt q.2])
          else none
      else none⟩
  | .regs g a =>
      let i : Ins := { insNo g [a] with
        shape := some false
        pre := fun w => if w.hnd then some (flt .instruction 28) else none }
      some ⟨i, fun t r =>
        let v := r.val 0 0
        if v.tag ≠ .int ∨ v.n % 8 ≠ 0 ∨ v.n < 8 ∨ 256 < v.n then none
        else if v.n = r.w.allot then some (onward t r (srcsSize [a]))
        else if v.n < r.w.allot then
          (if (shrinkBad t r.w v.n).isSome then none
          else
            let keep : Warp → List Row := fun w => w.v.take v.n ++ List.replicate (v.n - w.v.length) nilRow
            some (onward t r (srcsSize [a]) fun w => { w with allot := v.n, v := keep w }))
        else grownNow t r v.n (srcsSize [a])⟩
  | .launch g d a => some ⟨onceOf g d [a], fun t r =>
      let p := r.val 0 0
      let b : Submitter := ⟨if r.w.sup then none else some r.w.asid, some r.w.ceil, r.w.sup⟩
      if (p.tag = .int ∨ p.tag = .raw ∨ p.tag = .ref) ∧ (p.n % 64 = 0 ∨ 2 ^ 56 ≤ p.n) then
        (got (submit t r.w.who r.w.pos.die b p.n)).bind fun z => match z.2 with
          | .ok n => some (oneDone (noteRelease z.1 r.w.uid 6) r (onceOf g d [a]) [vNat n])
          | .error _ => none
      else none⟩
  | _ => none

/-! ### Sparse instructions (R361-R370) -/

/-- The operations of an instruction that has just been sent, under number `n` (R363). -/
def asked (i : Ins) (r : Ready) (rows stays : Bool) (n : Nat) (ops : List SpOp) : SpPend :=
  { id := n, pc := r.w.pc, lanes := r.eff, dsts := i.dsts, pushes := i.pushes, size := i.size, vec := r.vec, rows := rows
    left := ops.length, res := [], faults := [], popped := r.popped, block := stays, ops := ops, back := []
    wait := { regs := i.dsts.filterMap fun d => match d with
                | .reg x => some x
                | _ => none
              latch := if i.pushes && !stays then some 0 else none } }

/-- The operations join their engines' queues. The warp goes on, its results to come; at a channel's push and at a replay it
stays until they have come (log 56). -/
def sentTo (s : State) (i : Ins) (r : Ready) (rows : Bool) (ops : List SpOp) : State :=
  let n := s.nextRec
  let ops := ops.map fun o => { o with ins := n }
  let s := spQueue { s with nextRec := n + 1 } ops
  let went : Warp → Warp := fun w =>
    advance (if i.pushes then pushLatch w (oldOf w (i.dsts.headD .nowb) r.vec) else w) i.size
  let keeps : Bool → Warp → Warp := fun stays w => { w with sparse := w.sparse ++ [asked i r rows stays n ops] }
  match i.dsts with
  | .chan c :: _ => spDone (updWarp (chanReserve s r.w.uid c) r.w.uid fun w => keeps true { w with held := none }) r.w.uid
  | _ =>
    if r.w.replay.isSome then spDone (updWarp s r.w.uid fun w => keeps true { w with held := none }) r.w.uid
    else spDone (updWarp s r.w.uid fun w => keeps false (went w)) r.w.uid

/-- A sparse instruction whose lanes pass their checks and whose engines have room (R362, R363, R374). -/
def sent (i : Ins) (rows : Bool) (mk : Ready → State → Nat → Res SpOp) : Effect :=
  ⟨i, fun t r => (got (spBuild (mk r) (execLanes r) t)).bind fun z =>
    if z.2.2 = [] ∧ spRoom z.1 z.2.1 = true then some (sentTo z.1 i r rows z.2.1) else none⟩

/-- A lane's operation on the key of operands 0 and 1. -/
def onKey (f : Ready → Nat → Region → Except LFault SpKind) (r : Ready) (s : State) (l : Nat) : Res SpOp :=
  spOpOf s r.w l (r.val 0 l) (r.val 1 l) (f r l)

/-- The sparse instructions. -/
def sparseSpec (_ : State) (i : Instr) : Option Effect :=
  match i with
  | .sld g d h k => some (sent (insOf g d [h, k]) false (onKey fun _ _ _ => .ok .sld))
  | .sst g h k v => some (sent (insNo g [h, k, v]) false (onKey fun r l q => (spVal q (r.val 2 l)).map .sst))
  | .sxch g d h k v => some (sent (insOf g d [h, k, v]) false (onKey fun r l q => (spVal q (r.val 2 l)).map .sxch))
  | .sadd g op d h k v => some (sent (insOf g d [h, k, v]) false (onKey fun r l q =>
      if saddOk q.etag op (r.val 2 l) then .ok (.sadd op (r.val 2 l)) else .error typeFlt))
  | .scas g d h k c => some (sent { insOf g .nowb [h, k, runSrc c] with
      dsts := runDsts d 2, reads := runRegs c 2, chk := fun w => runOk w d 2 && runOk w c 2 } false (onKey fun r l q =>
        match spVal q (runLane r.w c 0 l), spVal q (runLane r.w c 1 l) with
        | .ok e, .ok n => .ok (.scas e n)
        | .error f, _ => .error f
        | .ok _, .error f => .error f))
  | .snext g ge d h k => some (sent { insOf g .nowb [h, k] with
      dsts := runDsts d 2, chk := fun w => runOk w d 2 } false (onKey fun _ _ _ => .ok (.snext ge)))
  | .sscan g n ge lim d h k => some (sent { insOf g .nowb (h :: k :: lim.toList) with
      dsts := runDsts (.v d) 2, shape := some false, chk := fun w => runOk w (.v d) 2 } true (onKey fun r l _ =>
        if lim.isNone then .ok (.sscan (n.toNat + 1) ge none)
        else if (r.val 2 l).tag = .int ∨ (r.val 2 l).tag = .raw then
          .ok (.sscan (n.toNat + 1) ge (some (r.val 2 l).n))
        else .error typeFlt))
  | .sstat g what all d h x => some (sent (insOf g d (if all then [h] else [h, x])) false fun r s l =>
      (spRegion s r.w (r.val 0 l)).bind fun s q =>
        let v := if all then vNat 0 else r.val 1 l
        if v.tag ≠ .int then .bad s typeFlt
        else if q.nstr < v.n then .bad s (flt .arithmetic 4)
        else (spEng s r.w (r.val 0 l).n v.n).map fun e =>
          ⟨e, r.w.uid, l, (r.val 0 l).n, r.w.asid, 0, v.n, .sstat what all, 0⟩)
  | _ => none

/-! ### Gauges and alarms (R377-R379, R401-R404) -/

/-- The count of a gauge within reach (R378). -/
def countNow (t : State) (who : Who) (g : Gauge) : Option Nat :=
  match g with
  | .none => none
  | .mem _ va => (reach t who .store va 8).bind fun p =>
      let x := memLoad t.mem p.da 8
      if x < 2 ^ 63 ∧ (pteCls p.pte = 1 ∨ memTag t.mem p.da = 0#4) then some x else none
  | .spad p a off =>
      let x := cellsGet (coreCtx t p a).spad off 8
      if ctxHere t p a = true ∧ x < 2 ^ 63 then some x else none

/-- The race detector does not watch the gauge's page (R327). -/
def gaugeUnwatched (t : State) (who : Who) (g : Gauge) : Bool :=
  match g with
  | .mem _ va => (reach t who .store va 8).any (unwatched t who.asid)
  | _ => true

/-- WATCH one up or one down, modulo 2^16 (R378). -/
def watched (t : State) (who : Who) (g : Gauge) (up : Bool) : Option State :=
  let f := fun (x : Nat) => x / 65536 * 65536 + (if up then x + 1 else x + 65535) % 65536
  match g with
  | .none => none
  | .mem _ va => (reach t who .store va 8).bind fun p =>
      if noneParked t (p.da + 8) ∧ unwatched t who.asid p then
        some { t with mem := memPut t.mem (p.da + 8) 8 (f (memLoad t.mem (p.da + 8) 8)) none }
      else none
  | .spad p a off =>
      if ctxHere t p a then some (updCoreCtx t p a fun c =>
        { c with spad := cellsSet c.spad (off + 8) 8 (f (cellsGet c.spad (off + 8) 8)) })
      else none

/-- The gauge of an operand and a target. -/
def gaugeTarget (r : Ready) : Option (Gauge × Nat) :=
  match gaugeOf r.w (r.val 0 0) with
  | .ok g => if (r.val 1 0).tag = .int ∧ (r.val 1 0).n < 2 ^ 63 then some (g, (r.val 1 0).n) else none
  | .error _ => none

/-- Gauges and alarms. -/
def gaugeSpec (_ : State) (i : Instr) : Option Effect :=
  match i with
  | .gwait g d ga x => some ⟨onceOf g d [ga, x], fun t r =>
      (gaugeTarget r).bind fun q => (countNow t r.w.who q.1).bind fun c =>
        if q.2 ≤ c ∧ gaugeUnwatched t r.w.who q.1 = true then some (oneDone t r (onceOf g d [ga, x]) [vNat c]) else none⟩
  | .gtest g d ga x => some ⟨onceOf g d [ga, x], fun t r =>
      (gaugeTarget r).bind fun q => (countNow t r.w.who q.1).bind fun c =>
        if gaugeUnwatched t r.w.who q.1 then some (oneDone t r (onceOf g d [ga, x]) [vBool (decide (q.2 ≤ c))])
        else none⟩
  | .garm g slot ga x h =>
      let i : Ins := { insNo g [ga, x, h] with shape := some false }
      some ⟨i, fun t r =>
        (gaugeTarget r).bind fun q => (countNow t r.w.who q.1).bind fun _ =>
          if (r.val 2 0).tag = .code ∧ anyAlarm t r.w.uid slot.toNat = none
              ∧ (getDie t r.w.pos.die).alarms.length < 16384 then
            (watched t r.w.who q.1 true).map fun t => oneDone (updDie t r.w.pos.die fun d => { d with
              alarms := d.alarms ++ [⟨r.w.uid, slot.toNat, q.1, q.2, (r.val 2 0).pl.setWidth 56⟩] }) r i []
          else none⟩
  | .gdis g slot d => some ⟨onceOf g d [], fun t r =>
      match anyAlarm t r.w.uid slot.toNat with
      | none => some (oneDone t r (onceOf g d []) [vNat 0])
      | some a => (countNow t (alarmWho r.w) a.gauge).bind fun c =>
        (watched (dropAlarm t r.w.uid a.slot) (alarmWho r.w) a.gauge false).map fun s =>
          oneDone s r (onceOf g d []) [vNat (if a.target ≤ c then 2 else 1)]⟩
  | _ => none

/-! ### Copies as a warp issues them (R380-R400) -/

/-- A copy takes the lowest free slot of its core's unit and gives a ticket (R380, R381): the release to the engine
first. -/
def copyTaken (t : State) (r : Ready) (i : Ins) (kind : CopyKind) (n esz : Nat) (g : Gauge) : Option State :=
  (freeSlot (getCore t r.w.pos)).map fun k =>
    let t := noteRelease t r.w.uid 5
    let c := getCore t r.w.pos
    let scan := match kind with
      | .cpyd _ _ _ _ => some (0, 0)
      | _ => none
    let j : CopyJob := ⟨k, c.seq, r.w.asid, r.w.uid, r.w.wnum, .queued, kind, n, esz, 0, scan, [], g, r.w.sup, none, 0⟩
    oneDone (putCore t { c with seq := c.seq + 1, copies := c.copies ++ [j] }) r i
      [vNat (posBits r.w.pos + c.seq % 2 ^ 26 * 64 + k)]

/-- The gauge of an operand, checked at issue (R377). -/
def gaugeAtIssue (t : State) (w : Warp) (v : Val) : Option Gauge :=
  match gaugeOf w v with
  | .ok (.mem a va) => (reach t w.who .store va 8).map fun _ => .mem a va
  | .ok g => some g
  | .error _ => none

/-- A collective copy joins the round of its group, which starts when the last member has come (R388). -/
def roundJoined (t : State) (r : Ready) (i : Ins) (l : Option (Layout × Layout)) (tg : Bool) (id : Nat) :
    Option State :=
  (freeSlot (getCore t r.w.pos)).map fun k =>
    let t := noteRelease t r.w.uid 5
    let c := getCore t r.w.pos
    let n := (l.map fun p => p.1.count).getD 0
    let esz := (l.map fun p => p.1.esz).getD 0
    let j : CopyJob := ⟨k, c.seq, r.w.asid, r.w.uid, r.w.wnum, .waiting, .slice l tg id, n, esz, 0, none, [], .none, r.w.sup,
      none, 0⟩
    let t := updRound (putCore t { c with seq := c.seq + 1, copies := c.copies ++ [j] }) id fun q => { q with
      arr := q.arr ++ [r.w.wnum], bytes := q.bytes + n * 2 ^ esz, left := if l.isSome then q.left + 1 else q.left }
    oneDone (startRounds t r.w.asid r.w.launch) r i [vNat (posBits r.w.pos + c.seq % 2 ^ 26 * 64 + k)]

/-- What a ticket names (R380, R400): a core of the mesh in an INT below 2^45. -/
def ticketCore (v : Val) : Option Pos :=
  if v.tag = .int ∧ v.n < 2 ^ 45 ∧ tilePosOk v.pl = true then
    some ⟨bitsAt v.n 32 4, bitsAt v.n 36 5, bitsAt v.n 41 4⟩
  else none

/-- Copies. -/
def copySpec (_ : State) (i : Instr) : Option Effect :=
  match i with
  | .cpy g tg d x y ga => some ⟨onceOf g d [x, y, ga], fun t r =>
      (got (copyLayouts t r.w (r.val 0 0) (r.val 1 0) tg)).bind fun z =>
        (gaugeAtIssue z.1 r.w (r.val 2 0)).bind fun q =>
          copyTaken z.1 r (onceOf g d [x, y, ga]) (.cpy z.2.1 z.2.2 tg) z.2.1.count z.2.1.esz q⟩
  | .cpyg g slot tg d x y ga =>
      let i : Ins := { onceOf g d [x, y, ga] with chk := fun w => (gselAt w slot).isSome }
      some ⟨i, fun t r =>
        (got (sliceLayouts t r.w x y (r.val 0 0) (r.val 1 0) tg)).bind fun z =>
          (gaugeAtIssue z.1 r.w (r.val 2 0)).bind fun q =>
            let k := (gselAt r.w slot).getD 0
            match q with
            | .spad _ _ _ => none
            | q => match openRound z.1 r.w.asid r.w.launch k r.w.wnum with
              | some c => if c.gauge = q ∧ c.tg = tg then roundJoined z.1 r i z.2 tg c.id else none
              | none => roundJoined { z.1 with
                  crounds := z.1.crounds ++ [⟨z.1.nextRec, r.w.asid, r.w.launch, k, q, tg, [], 0, false, 0⟩]
                  nextRec := z.1.nextRec + 1 } r i z.2 tg z.1.nextRec⟩
  | .cpym g tg d x y ga f =>
      let i : Ins := { onceOf g d [x, y, ga] with size := 16 }
      some ⟨i, fun t r =>
        (got (copyLayouts t r.w (r.val 0 0) (r.val 1 0) tg)).bind fun z =>
          if followDst z.2.1 then
            (if ga = .reg .zr then some .none else gaugeAtIssue z.1 r.w (r.val 2 0)).bind fun q =>
              copyTaken z.1 r i (.cpym z.2.1 z.2.2 tg f r.w.nt r.w.opn) z.2.1.count z.2.1.esz q
          else none⟩
  | .cpyd g d cd ga => some ⟨onceOf g d [cd, ga], fun t r =>
      (got (convCheck t r.w (r.val 0 0) false)).bind fun z => (gaugeAtIssue z.1 r.w (r.val 1 0)).bind fun q =>
        let x := z.2.1
        copyTaken z.1 r (onceOf g d [cd, ga]) (.cpyd (x.getD 0 0) (x.getD 1 0) (bitAt (x.getD 2 0) 1) z.2.2)
          z.2.2.count z.2.2.esz q⟩
  | .cpys g d cd ga => some ⟨onceOf g d [cd, ga], fun t r =>
      (got (convCheck t r.w (r.val 0 0) true)).bind fun z => (gaugeAtIssue z.1 r.w (r.val 1 0)).bind fun q =>
        let x := z.2.1
        copyTaken z.1 r (onceOf g d [cd, ga]) (.cpys (x.getD 0 0) (x.getD 1 0) (bitAt (x.getD 2 0) 0) z.2.2)
          z.2.2.count z.2.2.esz q⟩
  | .cpyx g d job ga => some ⟨onceOf g d [job, ga], fun t r =>
      let v := r.val 0 0
      let ws := spadWords t r.w.pos r.w.asid v.n
      if (v.tag = .int ∨ v.tag = .raw) ∧ v.n % 64 = 0 ∧ v.n < 0x80000 ∧ jobOk ws false = true then
        (gaugeAtIssue t r.w (r.val 1 0)).bind fun q => (freeDec (getCore t r.w.pos)).map fun k =>
          let t := noteRelease t r.w.uid 5
          let c := getCore t r.w.pos
          oneDone (putCore t { c with seq := c.seq + 1, decs := c.decs ++ [newDec c r.w k v.n ws false q] }) r
            (onceOf g d [job, ga]) [vNat (posBits r.w.pos + c.seq % 2 ^ 26 * 64 + k)]
      else none⟩
  | .cpyq g d k =>
      let i : Ins := { onceOf g d [k] with dsts := argDsts d }
      some ⟨i, fun t r => (ticketCore (r.val 0 0)).map fun p =>
        oneDone t r i (copyStatus t r.w.asid p (r.val 0 0).n)⟩
  | .cpyqCancel g d k =>
      let i : Ins := { onceOf g d [k] with dsts := argDsts d }
      some ⟨i, fun t r => (ticketCore (r.val 0 0)).map fun p =>
        oneDone (onTicket t r.w.asid p (r.val 0 0).n copyCancel decCancel) r i
          (copyStatus t r.w.asid p (r.val 0 0).n)⟩
  | _ => none

/-! ### Matrix instructions as a warp issues them (R407-R427) -/

/-- The tile of the executing core that a TILE operand names (R12, R409). -/
def tileNamed (r : Ready) (j : Nat) : Option Nat :=
  if (r.val j 0).tag = .tile ∧ (r.val j 0).n / 2 ^ 32 * 2 ^ 32 = posBits r.w.pos then some ((r.val j 0).n % 32)
  else none

/-- The unit takes an instruction of the warp into its open batch (R413). -/
def unitTakes (t : State) (r : Ready) (op : MOp) : Option State :=
  if (getCore t r.w.pos).mq.length < 16 then
    some (updCore t r.w.pos fun c => { c with
      mq := c.mq ++ [⟨r.w.uid, r.w.asid, r.w.opn, op, r.w.nt, false, 0, false, false⟩] })
  else none

def isInt (v : Val) : Bool := v.tag == .int || v.tag == .raw

/-- Matrix instructions. -/
def matrixSpec (_ : State) (i : Instr) : Option Effect :=
  match i with
  | .tshape g x sh => some ⟨mxIns g [x, sh], fun t r =>
      (tileNamed r 0).bind fun k => (shapeWord (r.val 1 0).n).bind fun z =>
        if isInt (r.val 1 0) = true ∧ tileLocked t r.w.pos r.w.asid k = false then
          some (oneDone (updCoreCtx t r.w.pos r.w.asid fun c => { c with shapes := setAt c.shapes k z }) r
            (mxIns g [x, sh]) [])
        else none⟩
  | .tld g x rc => some ⟨mxIns g [x, rc], fun t r =>
      (tileNamed r 0).bind fun k =>
        let sh := shapeOf (coreCtx t r.w.pos r.w.asid) k
        (got (tileRecord t r.w (r.val 1 0) sh)).bind fun z =>
          if tileLocked z.1 r.w.pos r.w.asid k then none
          else (got (tldLoop r.w k (tileSize sh.fmt) z.2 z.2.count 0 z.1)).map fun q =>
            oneDone (layGroups q.1 r.w.who z.2 0 z.2.count) r (mxIns g [x, rc]) []⟩
  | .tst g x rc => some ⟨mxIns g [x, rc], fun t r =>
      (tileNamed r 0).bind fun k =>
        let sh := shapeOf (coreCtx t r.w.pos r.w.asid) k
        (got (tileRecord t r.w (r.val 1 0) sh)).bind fun z =>
          (got (tstLoop r.w k (tileSize sh.fmt) z.2 z.2.count 0 z.1)).map fun q =>
            oneDone (layGroups q.1 r.w.who z.2 0 z.2.count) r (mxIns g [x, rc]) []⟩
  | .mma g pair set blk acc ta tb => some ⟨mxIns g [ta, tb], fun t r =>
      (tileNamed r 0).bind fun a => (tileNamed r 1).bind fun b =>
        if (mmaFault t r.w.pos r.w.asid pair set blk acc.toNat a b).isSome then none
        else (unitTakes t r (.mma pair set acc.toNat a b)).map fun t =>
          oneDone (updCore t r.w.pos fun c => { c with
            locks := c.locks ++ [⟨a, r.w.asid, r.w.uid, r.w.opn⟩, ⟨b, r.w.asid, r.w.uid, r.w.opn⟩] }) r
            (mxIns g [ta, tb]) []⟩
  | .sacc g f32 ad ap sa sb => some ⟨mxIns g [sa, sb], fun t r =>
      let c := coreCtx t r.w.pos r.w.asid
      let fits := fun (v : Val) => isInt v &&
        (if f32 then decide (v.n + 256 ≤ 0x80000 ∧ v.n % 4 = 0) else decide (v.n + 64 ≤ 0x80000))
      if fits (r.val 0 0) = true ∧ fits (r.val 1 0) = true
          ∧ c.token.getD ad.toNat none = none ∧ c.token.getD ap.toNat none = none
          ∧ c.accTy.getD ad.toNat .f32 = .f32 ∧ c.accTy.getD ap.toNat .f32 = .f32 then
        (unitTakes t r (.sacc f32 ad.toNat ap.toNat (r.val 0 0).n (r.val 1 0).n)).map fun t =>
          oneDone t r (mxIns g [sa, sb]) []
      else none⟩
  | .acq g acc => some ⟨mxIns g [], fun t r =>
      match (coreCtx t r.w.pos r.w.asid).token.getD acc.toNat none with
      | some u => if u = r.w.uid then some (oneDone t r (mxIns g []) []) else none
      | none =>
        if accIdle t r.w.pos r.w.asid acc.toNat then
          some (oneDone (updCoreCtx t r.w.pos r.w.asid fun c =>
            { c with token := setAt c.token acc.toNat (some r.w.uid) }) r (mxIns g []) [])
        else none⟩
  | .rel g acc => some ⟨mxIns g [], fun t r =>
      if (coreCtx t r.w.pos r.w.asid).token.getD acc.toNat none = some r.w.uid then
        some (oneDone (updCoreCtx (noteRelease t r.w.uid 3) r.w.pos r.w.asid fun c =>
          { c with token := setAt c.token acc.toNat none }) r (mxIns g []) [])
      else none⟩
  | .accout g f rm acc off ga desc => some ⟨mxIns g [off, ga, desc], fun t r =>
      let o := r.val 0 0
      let c := coreCtx t r.w.pos r.w.asid
      (outDesc f (r.val 2 0).n).bind fun q =>
        if isInt o = true ∧ isInt (r.val 2 0) = true ∧ c.accTy.getD acc.toNat .f32 = outTy f
            ∧ o.n + (q.2.2 - 1) * q.1 + q.2.1 * outSize f ≤ 0x80000 ∧ c.token.getD acc.toNat none = none then
          (if ga = .reg .zr then some .none else gaugeAtIssue t r.w (r.val 1 0)).bind fun z =>
            (unitTakes t r (.accout f (if rm = 7#3 then r.w.rm else rm) acc.toNat o.n z q.1 q.2.1 q.2.2 r.w.s43
              r.w.s52)).map fun t => oneDone t r (mxIns g [off, ga, desc]) []
        else none⟩
  | .accz g i32 acc => some ⟨mxIns g [], fun t r =>
      if (coreCtx t r.w.pos r.w.asid).token.getD acc.toNat none = none then
        (unitTakes t r (.accz i32 acc.toNat)).map fun t => oneDone t r (mxIns g []) []
      else none⟩
  | .mfence g d =>
      let i : Ins := { insOf g d [] with shape := some false }
      some ⟨i, fun t r => some (oneDone (closeBatch t r.w.uid) r i [vNat r.w.opn.toNat])⟩
  | .mwait g n => some ⟨mxIns g [n], fun t r =>
      let v := r.val 0 0
      let dist := (r.w.opn - BitVec.ofNat 31 v.n).toNat
      let t1 := if dist = 0 then closeBatch t r.w.uid else t
      if v.tag = .int ∧ v.n < 2 ^ 31 ∧ dist < 2 ^ 30 ∧ batchDoneAt t1 r.w.uid (max dist 1) = true then
        some (onward t1 r (srcsSize [n]))
      else none⟩
  | .cbld g off => some ⟨mxIns g [off], fun t r =>
      let v := r.val 0 0
      let rows := (List.range 256).map fun m => cellsGet (coreCtx t r.w.pos r.w.asid).spad (v.n + 8 * m) 8
      if isInt v = true ∧ v.n % 8 = 0 ∧ v.n ≤ 0x7F800 ∧ (rows.all fun x => decide (x < 2 ^ 33)) = true
          ∧ k8Busy t r.w.pos r.w.asid = false then
        some (oneDone (updCoreCtx t r.w.pos r.w.asid fun c => { c with k8 := rows }) r (mxIns g [off]) [])
      else none⟩
  | _ => none

end Sys2Proof.Machine
end

