-- ==== Sys2Proof/Safety/Supervisor.lean ====
section
/-! DEFINITION. The effects of the supervisor's instructions, of the read of TIME and of the repeat prefix
(spec/01 R24, spec/03 R77-R82, spec/20 R450-R459, spec/21 R477-R478, spec/24 R498-R503). -/

namespace Sys2Proof.Machine

/-! ### Page tables (R271-R275, R455, R456) -/

/-- A table entry that the walk can read: its domain address and its payload. -/
def tableEntry (s : State) (who : Who) (t va lvl : Nat) : Option (Nat × Nat) :=
  let pa := t + 8 * (va / 2 ^ (16 + 10 * lvl) % 1024)
  let da := s.dev * 2 ^ 52 + pa
  if dramOk pa = true ∧ open_ s who da = true then some (da, memLoad s.mem da 8) else none

/-- The table that a well-formed entry names. -/
def nextTable (p : Nat) : Option Nat :=
  if p % 2 = 1 ∧ p / 2 % 4096 = 0 ∧ p / 2 ^ 52 = 0 then some (p / 2 ^ 13 % 2 ^ 39 * 2 ^ 13) else none

/-- The root table of an address space (R272). -/
def rootTable (s : State) (asid : Nat) : Option Nat :=
  let e := (spGet 0#64 s.hub.asidTab asid).toNat
  if e % 2 = 1 then some (e / 2 ^ 13 % 2 ^ 39 * 2 ^ 13) else none

/-- A leaf found for an address: its place, its payload, its level, and the entries of the levels above on the way to it. -/
structure Leaf where
  da : Nat
  pte : Nat
  lvl : Nat
  path : List (Nat × Nat)

/-- The well-formed leaf for an address, searched from the levels listed. -/
def leafFor (s : State) (who : Who) (va : Nat) : List Nat → Nat → Option Leaf
  | [], _ => none
  | lvl :: ls, t => (tableEntry s who t va lvl).bind fun e =>
    let p := e.2
    if p / 2 % 2 = 1 then
      (if p % 2 = 1 ∧ p / 4 % 8 = 0 ∧ lvl ≠ 3 ∧ pteFrame p % pageSize lvl = 0 ∧ pteCls p ≠ 3
          ∧ dramOk (domPa (pteFrame p)) = true then some ⟨e.1, p, lvl, []⟩ else none)
    else if lvl = 0 then none
    else (nextTable p).bind fun t => (leafFor s who va ls t).map fun k => { k with path := (lvl, p) :: k.path }

/-- Where a walk begins: at the table that the deepest entry of the die's walk cache names, else at the root (R275, R283). -/
def walkFrom (s : State) (who : Who) (va : Nat) : Option (List Nat × Nat) :=
  match walkFind s who va with
  | some e => some (([3, 2, 1, 0] : List Nat).drop (4 - e.lvl), e.pte / 2 ^ 13 % 2 ^ 39 * 2 ^ 13)
  | none => (rootTable s who.asid).map fun t => ([3, 2, 1, 0], t)

/-- The leaf for an address, and the state whose walk cache the walk has filled. -/
def leafIn (s : State) (who : Who) (va : Nat) : Option (Leaf × State) :=
  (walkFrom s who va).bind fun q => (leafFor s who va q.1 q.2).map fun k =>
    (k, walkFill s who va ⟨k.pte, k.da, k.lvl, k.path⟩)

/-- The level-0 entry for an address under tables that hold no leaf. -/
def smallFor (s : State) (who : Who) (va : Nat) : List Nat → Nat → Option (Nat × Nat)
  | [], t => tableEntry s who t va 0
  | lvl :: ls, t => (tableEntry s who t va lvl).bind fun e => (nextTable e.2).bind fun t => smallFor s who va ls t

/-- PMAP maps a page (R455): a frame of the first of the dies that has one, filled, then the leaf, then the count. -/
def pageMapped (s : State) (who : Who) (va attrs : Nat) (dies : List Nat) : Option State :=
  ((walkFrom s who va).bind fun q => smallFor s who va q.1.dropLast q.2).bind fun e =>
    let c := getCtx s who.asid
    if e.2 % 2 = 0 ∧ c.used < c.quota then
      (poolAny s dies).bind fun f =>
        let t := noteRelease (fillFrame f.2 (s.dev * 2 ^ 52 + f.1)) who.warp 6
        if noneParked t e.1 = true ∧ heldIn s (s.dev * 2 ^ 52 + f.1) 65536 = none then
          some (updCtx { t with mem := memPut t.mem e.1 8 (s.dev * 2 ^ 52 + f.1 + attrs + 3) none } who.asid fun c =>
            { c with used := c.used + 1 })
        else none
    else none

/-- The leaf of a page is rewritten (R456). -/
def leafRewritten (s : State) (w : Warp) (va : Nat) (f : Nat → Nat) : Option State :=
  (leafIn s w.who va).bind fun e =>
    let t := noteRelease e.2 w.uid 6
    if noneParked t e.1.da = true then some { t with mem := memPut t.mem e.1.da 8 (f e.1.pte) none } else none

/-- Address and attributes of a lane of PMAP. -/
def pageArgs (r : Ready) (k : Nat) (ok : Nat → Bool) : Option (Nat × Nat) :=
  let v := r.val 0 k
  let b := r.val 1 k
  if (v.tag = .int ∨ v.tag = .raw) ∧ b.tag = .int ∧ ok b.n = true ∧ v.n < 2 ^ 56 then some (v.n, b.n) else none

/-! ### Returning from the supervisor (R450) -/

/-- The warp with what its supervisor frame holds. -/
def unframed (w : Warp) (f : SFrame) : Warp :=
  { w with
    latches := f.latches, outstanding := [], sparse := f.sp
    sreg := setAt (setAt (setAt (setAt w.sreg 20 (f.s20.getD 0 vNil)) 21 (f.s20.getD 1 vNil)) 22 (f.s20.getD 2 vNil))
      23 (f.s20.getD 3 vNil)
    ha := f.ha, hb := f.hb, repc := f.repc, em := f.em, hnd := f.hnd, sup := false, sframe := none, held := none }

/-- The lanes that SRET replays: those of FLM and RLM that it keeps, or all or none of a combining instruction. -/
def keptLanes (f : SFrame) (keep : Mask) : Mask :=
  let all := f.flm ||| f.fcause.setWidth 32
  if f.whole then (if all &&& ~~~keep = 0#32 then f.lanes else 0#32) else all &&& keep

/-- The fault of the frame was a race, whose replay is not checked again (R328). -/
def wasRace (f : SFrame) : Bool := f.fcause.extractLsb' 57 5 == 3#5 && f.fcause.extractLsb' 49 8 == 26#8

/-- The warp after SRET. -/
def sretWarp (w : Warp) (f : SFrame) (keep : Mask) : Warp :=
  match f.kind with
  | .replay => { unframed w f with
      pc := f.repPc, replay := some ⟨keptLanes f keep, f.popped, f.part, wasRace f, f.resPc⟩ }
  | _ => { unframed w f with pc := f.resPc, replay := none }

/-- SRET with a frame of four saved registers, at the depth the frame was saved at. -/
def sretTo (t : State) (r : Ready) (keep : Mask) : Option State :=
  (now t r).sframe.bind fun f =>
    if (now t r).depth = f.depth ∧ f.s20.length = 4 then
      let t := updWarp t r.w.uid fun w => sretWarp w f keep
      match f.kind with
      | .copy => some (ticketRestart t r.w.asid f.ticket)
      | .matrix => some (resumeMatrix t r.w.uid)
      | .sparse => some (spDone (updWarp t r.w.uid fun w => { w with
          sparse := modifyFirst (fun p => !p.faults.isEmpty) (spAgain f keep) w.sparse }) r.w.uid)
      | .replay | .after => some t
    else none

/-! ### Sparse regions and pools (R458, R459) -/

/-- Payloads of words read as loads from pages that the race detector does not watch. -/
def paysAt (t : State) (w : Warp) (va n : Nat) : Option (List Nat) :=
  (List.range n).mapM fun k => (reach t w.who .load (va + 8 * k) 8).bind fun p =>
    if unwatched t w.asid p then some (memLoad t.mem p.da 8) else none

/-- Words written one after the other, as a descriptor's. -/
def wordsPut (s : State) (da : Nat) (vs : List Val) : State :=
  vs.zipIdx.foldl (fun s p => { s with
    mem := memPut s.mem (da + 8 * p.2) 8 p.1.n (some (BitVec.ofNat 4 p.1.tag.toNat)) }) s

/-- The descriptor that an image gives, V still 0: its record, then the stripes with no node committed. -/
def declWords (img : List Nat) : List Val :=
  let stripe := fun (k : Nat) =>
    if k ≤ (regionOf img).nstr then stripeWords (freshStripe (stripeOf (imageStripe img k)))
    else List.replicate 8 (vRaw 0)
  (vRaw (img.getD 0 0 % 2 ^ 63) :: ((img.drop 1).take 7).map vRaw) ++ List.replicate 24 (vRaw 0)
    ++ (List.range 8).flatMap stripe

/-- The image meets R353, R354 and R458. -/
def declImageOk (img : List Nat) : Bool :=
  let ks := List.range ((regionOf img).nstr + 1)
  regionOk img && stripesOk (ks.map fun k => stripeOf (imageStripe img k)) (ks.map (imageStripe img))
    && (img.drop 96).all (· == 0)

/-- The descriptor is written, then V (R458). -/
def declared (s : State) (w : Warp) (va : Nat) (img : List Nat) : Option State :=
  (reach s w.who .sparseStore va 8).bind fun p =>
    let lines := (List.range 12).all fun k => open_ s w.who (p.da + 64 * k)
    let words := (List.range 96).all fun k => noneParked s (p.da + 8 * k)
    if va % 1024 = 0 ∧ lines = true ∧ words = true ∧ (memTag s.mem p.da).toNat ≤ 12
        ∧ memLoad s.mem p.da 8 < 2 ^ 63 ∧ (getCtx s w.asid).en = false then
      let t := wordsPut (updWarp s w.uid (releasing 6)) p.da (declWords img)
      some (wordsPut t p.da [vRaw (img.getD 0 0 % 2 ^ 63 + 2 ^ 63)])
    else none

/-- Frames of pages that are writable and tagged. -/
def framesAt (t : State) (w : Warp) (va n : Nat) : Option (List Nat) :=
  (List.range n).mapM fun k => (reach t w.who .headerStore (va + 65536 * k) 8).map fun p => p.da

/-- Base and size of GTBL in a lane. -/
def poolArgs (r : Ready) (k : Nat) : Option (Nat × Nat) :=
  let a := r.val 0 k
  let b := r.val 1 k
  if (a.tag = .int ∨ a.tag = .ref) ∧ b.tag = .int ∧ a.n < 2 ^ 56 then some (a.n, b.n) else none

/-! ### The table -/

/-- Instruction lines of an address space that meet a range are gone from every core, and the physical lines it maps there
from every cluster (R490, R491). -/
def linesSwept (s : State) (asid lo n : Nat) : State :=
  let t := syncPresent { s with cores := s.cores.map fun c => { c with
    icache := c.icache.filter fun l => decide (l.asid ≠ asid ∨ l.vline < lo / 64 ∨ lo + n ≤ l.vline * 64) } }
  { t with clusters := t.clusters.map fun c => { c with
    icache := c.icache.filter fun l => !(mapsLine s asid lo n l.dom) } }

/-- Translations of an address space that meet a range are gone too, from every translation buffer and walk cache (R284,
R457). -/
def swept (s : State) (asid lo n : Nat) : State :=
  linesSwept { s with
    clusters := s.clusters.map fun c => { c with
      tlb := c.tlb.filter fun e => decide (e.asid ≠ asid ∨ lo + n ≤ e.va ∨ e.va + e.size ≤ lo) }
    dies := s.dies.map fun d => { d with
      walks := d.walks.filter fun e => decide (e.asid ≠ asid ∨ lo + n ≤ e.idx * 2 ^ (16 + 10 * e.lvl)
        ∨ (e.idx + 1) * 2 ^ (16 + 10 * e.lvl) ≤ lo) } } asid lo n

/-- RDCTL: the old value, and the context that the new value leaves (R477, R478). -/
def rdEffect (w : Option Src) (d : Dst) (old : Ctx → Nat) (put : Ctx → Nat → Option Ctx) : Effect :=
  let i : Ins := { insOf Guard.always d w.toList with shape := some false, priv := true }
  ⟨i, fun t r =>
    let t := noteRelease t r.w.uid 6
    let c := getCtx t r.w.asid
    if w.isNone then some (oneDone t r i [vNat (old c)])
    else if (r.val 0 0).tag = .int ∨ (r.val 0 0).tag = .raw then
      (put c (r.val 0 0).n).map fun c' => oneDone (putCtx t c') r i [vNat (old c)]
    else none⟩

/-- A base below 2^56 with its low bits zero, written while the detector is off. -/
def rdBase (m : Nat) (f : Ctx → Word → Ctx) (c : Ctx) (x : Nat) : Option Ctx :=
  if c.en = false ∧ x % m = 0 ∧ x < 2 ^ 56 then some (f c (wordN x)) else none

/-- The supervisor's instructions. -/
def privSpec (_ : State) (i : Instr) : Option Effect :=
  match i with
  | .sret m => some ⟨privNo Guard.always [m], fun t r =>
      if (r.val 0 0).tag = .raw ∨ (r.val 0 0).tag = .int then sretTo t r ((r.val 0 0).pl.setWidth 32) else none⟩
  | .sretHost m => some ⟨privNo Guard.always [m], fun t r =>
      if (r.val 0 0).tag = .raw ∨ (r.val 0 0).tag = .int then
        (now t r).sframe.bind fun f =>
          if (now t r).depth = f.depth then
            some (escalate t r.w.uid 0 f.fcause f.flm (now t r).fva f.repPc 0#64)
          else none
      else none⟩
  | .pmap g any d a b => some ⟨pmapIns g d a (some b), fun t r =>
      (eachLane (fun s k => (pageArgs r k attrOk).bind fun x =>
        (pageMapped s r.w.who x.1 x.2 (if any then diesFrom r.w.pos.die else [r.w.pos.die])).map fun s =>
          (s, [vNat 0])) (execLanes r) t).map fun z => lanesDone z.1 r (pmapIns g d a (some b)) false z.2⟩
  | .pmapAttr g d a b => some ⟨pmapIns g d a (some b), fun t r =>
      (eachLane (fun s k => (pageArgs r k attrMasksOk).bind fun x =>
        (leafRewritten s r.w x.1 fun p =>
          (p ||| x.2 % 65536) - ((p ||| x.2 % 65536) &&& x.2 / 65536 % 65536)).map fun s =>
            (s, [vNat 0])) (execLanes r) t).map fun z => lanesDone z.1 r (pmapIns g d a (some b)) false z.2⟩
  | .pmapUnmap g d a => some ⟨pmapIns g d a none, fun t r =>
      (eachLane (fun s k =>
        let v := r.val 0 k
        if (v.tag = .int ∨ v.tag = .raw) ∧ v.n < 2 ^ 56 then
          (leafRewritten s r.w v.n fun _ => 0).map fun s => (s, [vNat 0])
        else none) (execLanes r) t).map fun z => lanesDone z.1 r (pmapIns g d a none) false z.2⟩
  | .pinv g sz a => some ⟨privNo g [a], fun t r =>
      let n := match sz with
        | .k64 => 2 ^ 16
        | .m64 => 2 ^ 26
        | .g64 => 2 ^ 36
      if (r.val 0 0).tag = .int then
        some (onward (swept (noteRelease t r.w.uid 6) r.w.asid ((r.val 0 0).n / n * n) n) r (srcsSize [a]))
      else none⟩
  | .pinvAll g => some ⟨privNo g [], fun t r =>
      some (onward (swept (noteRelease t r.w.uid 6) r.w.asid 0 (2 ^ 56)) r 8)⟩
  | .pmigStart d a b => some ⟨pmigIns d [a, b], fun t r =>
      let v := r.val 0 0
      let x := r.val 1 0
      let dev := x.n / 2 ^ 52
      let die := x.n % 8
      if (v.tag = .int ∨ v.tag = .raw) ∧ x.tag = .int ∧ v.n < 2 ^ 56 ∧ x.n % 2 ^ 52 < 8 then
        (leafIn (noteRelease t r.w.uid 6) r.w.who v.n).bind fun q =>
          let e := q.1
          let t := q.2
          let old := pteFrame e.pte
          if e.lvl = 0 ∧ pteCls e.pte ≠ 2 ∧ (migOf t old).isNone = true ∧ reachable t dev = true
              ∧ (domDev old = dev → homeDie old ≠ die)
              ∧ migsAt t (domDev old) (homeDie old) < 256 ∧ migsAt t dev die < 256 ∧ noneParked t e.da = true then
            match targetFrame t r.w.asid dev die with
            | .ok (new, t) => some (oneDone { t with
                mem := memPut t.mem e.da 8 (e.pte % 65536 + new) none
                migs := t.migs ++ [⟨t.nextRec, r.w.asid, v.n / 65536 * 65536, old, new, [], [], false⟩]
                nextRec := t.nextRec + 1
                hub := { t.hub with objects := t.hub.objects.map (moveShared old new) } } r (pmigIns d [a, b]) [vNat 0])
            | .error _ => none
          else none
      else none⟩
  | .pmigStat d a => some ⟨pmigIns d [a], fun t r =>
      let v := r.val 0 0
      if (v.tag = .int ∨ v.tag = .raw) ∧ v.n < 2 ^ 56 then
        (leafIn t r.w.who v.n).map fun q =>
          let t := q.2
          let fr := pteFrame q.1.pte + v.n % pageSize q.1.lvl / 65536 * 65536
          oneDone t r (pmigIns d [a]) [vRaw (match t.migs.find? fun m => m.new == fr with
            | some m =>
              let done := m.moved.length
              let bad := m.bad.length
              (if done = 1024 then 2 else if done + bad = 1024 then 3 else 1) * 2 ^ 62
                + domDev m.new * 2 ^ 36 + homeDie m.new * 2 ^ 30 + bad * 2 ^ 16 + done
            | none => 0)]
      else none⟩
  | .icinvLine a => some ⟨privNo Guard.always [a], fun t r =>
      let v := r.val 0 0
      if (v.tag = .int ∨ v.tag = .raw) ∧ v.n < 2 ^ 56 then
        some (onward (linesSwept (noteRelease t r.w.uid 6) r.w.asid (v.n / 64 * 64) 64) r (srcsSize [a]))
      else none⟩
  | .icinvPage a => some ⟨privNo Guard.always [a], fun t r =>
      let v := r.val 0 0
      if (v.tag = .int ∨ v.tag = .raw) ∧ v.n < 2 ^ 56 then
        some (onward (linesSwept (noteRelease t r.w.uid 6) r.w.asid (v.n / 65536 * 65536) 65536) r (srcsSize [a]))
      else none⟩
  | .icinvAsid => some ⟨privNo Guard.always [], fun t r =>
      some (onward (linesSwept (noteRelease t r.w.uid 6) r.w.asid 0 (2 ^ 56)) r 8)⟩
  | .rdctlShb w d => some (rdEffect w d (fun c => c.shb.toNat) (rdBase 8 fun c x => { c with shb := x }))
  | .rdctlItab w d => some (rdEffect w d (fun c => c.itab.toNat) (rdBase 8 fun c x => { c with itab := x }))
  | .rdctlRbase w d => some (rdEffect w d (fun c => c.rbase.toNat) (rdBase 32 fun c x => { c with rbase := x }))
  | .rdctlRsize w d => some (rdEffect w d (fun c => c.rsize) fun c x =>
      if c.en = false ∧ (List.range 21).any (fun k => x == 2 ^ (4 + k)) = true then
        some { c with rsize := x, rhead := 0, rtail := 0 }
      else none)
  | .rdctlCtl w d => some (rdEffect w d
      (fun c => (if c.dbg then 2 ^ 17 else 0) + (if c.snp then 2 ^ 16 else 0) + c.bpev.toNat * 256
        + (if c.smg then 2 else 0) + (if c.en then 1 else 0)) fun c x =>
      if x / 4 % 64 = 0 ∧ x < 2 ^ 18 then
        some { c with
          snp := x / 2 ^ 16 % 2 == 1, bpev := BitVec.ofNat 8 (x / 256), smg := x / 2 % 2 == 1, en := x % 2 == 1 }
      else none)
  | .rdctlRhead w d => some (rdEffect w d (fun c => c.rhead) fun _ _ => none)
  | .rdctlRtail w d => some (rdEffect w d (fun c => c.rtail) fun c x =>
      if c.rtail ≤ x ∧ x ≤ c.rhead then some { c with rtail := x } else none)
  | .rdctlRdrop w d => some (rdEffect w d (fun c => c.rdrop) fun c _ => some { c with rdrop := 0 })
  | .sdeclCreate g d a b =>
      let i : Ins := { insOf g d [a, b] with priv := true }
      some ⟨i, fun t r => (eachLane (fun s k =>
        let v := r.val 0 k
        let x := r.val 1 k
        if (v.tag = .int ∨ v.tag = .raw ∨ v.tag = .ref) ∧ (x.tag = .int ∨ x.tag = .raw ∨ x.tag = .ref) then
          (paysAt s r.w x.n 128).bind fun img =>
            if declImageOk img then (declared s r.w v.n img).map fun s => (s, [canonLit .ref v.pl]) else none
        else none) (execLanes r) t).map fun z => lanesDone z.1 r i false z.2⟩
  | .sdeclGrow g d a b =>
      let i : Ins := { insOf g d [a, b] with priv := true, chk := fun w => !srcVec w b }
      some ⟨i, fun t r => (eachLane (fun s k => (got (spRegion s r.w (r.val 0 k))).bind fun q =>
        let v := r.val 1 k
        if v.tag = .int ∧ v.n / 8 % 2 ^ 29 = 0 ∧ v.n < 2 ^ 56 ∧ 2 ^ 32 ≤ v.n ∧ v.n % 8 ≤ q.2.nstr then
          (got (growStripe q.1 r.w (r.val 0 k).n (v.n % 8) (v.n / 2 ^ 32))).map fun z => (z.1, [vNat z.2])
        else none) (execLanes r) t).map fun z => lanesDone z.1 r i false z.2⟩
  | .sdeclRetire g d a =>
      let i : Ins := { insOf g d [a] with priv := true }
      some ⟨i, fun t r => (eachLane (fun s k => (got (spRegion s r.w (r.val 0 k))).bind fun q =>
        let h := (r.val 0 k).n
        if regionBusy q.1 r.w.asid h then none
        else (got (sumPcap r.w.who.hw h (List.range (q.2.nstr + 1)) q.1)).bind fun z =>
          (got (spWords z.1 r.w.who.hw h 1)).bind fun x =>
            (got (spPut x.1 r.w.who.hw h [vRaw ((x.2.getD 0 vZero).n % 2 ^ 63)])).map fun y =>
              let keep := fun (e : Nat × Nat × Nat × Nat) => decide (e.1 ≠ r.w.asid ∨ e.2.1 ≠ h)
              ({ y.1 with
                dies := y.1.dies.map fun d => { d with retired := d.retired.filter keep }
                hub := { y.1.hub with farRet := y.1.hub.farRet.filter keep } }, [vNat z.2]))
        (execLanes r) t).map fun z => lanesDone z.1 r i false z.2⟩
  | .gtblSpill g d a b =>
      let i : Ins := { insOf g d [a, b] with priv := true }
      some ⟨i, fun t r => (eachLane (fun s k => (poolArgs r k).bind fun x =>
        let old := ringOf s r.w.pos.die r.w.asid
        let recs := (old.map fun o => o.recs).getD []
        let first := x.1 / 65536 * 65536
        if x.1 % 64 = 0 ∧ (List.range 15).any (fun k => x.2 == 2 ^ (12 + k)) = true ∧ recs.length ≤ x.2 / 64 then
          (framesAt s r.w first ((x.1 + x.2 - first + 65535) / 65536)).map fun fs =>
            (installRing s r.w.uid r.w.pos.die ⟨r.w.asid, x.1, x.2, fs, 0, recs⟩,
              [vNat ((old.map fun o => o.size).getD 0)])
        else none) (execLanes r) t).map fun z => lanesDone z.1 r i false z.2⟩
  | .gtblCont g d a b =>
      let i : Ins := { insOf g d [a, b] with priv := true }
      some ⟨i, fun t r => (eachLane (fun s k => (poolArgs r k).bind fun x =>
        let c := getCtx s r.w.asid
        if x.1 % 65536 = 0 ∧ x.2 % 65536 = 0 ∧ 0 < x.2 ∧ x.2 ≤ 2 ^ 30 ∧ c.cont.length < 16 then
          (framesAt s r.w x.1 (x.2 / 65536)).map fun fs =>
            (updCtx s r.w.asid fun c => { c with cont := c.cont ++ [⟨x.1, x.2, fs⟩] },
              [vNat ((c.cont.map fun k => k.size).sum + x.2)])
        else none) (execLanes r) t).map fun z => lanesDone z.1 r i false z.2⟩
  | _ => none

/-- The read of TIME (R24, R184): a value left open (log 6), the same in every lane, and a new one at the next read. -/
def timeSpec (_ : State) (i : Instr) : Option Effect :=
  match i with
  | .mfs g d sr =>
    if sr.toNat = 29 then
      let i : Ins := { insOf g d [] with shape := some (mfsVec d 29), chk := fun _ => true }
      some ⟨i, fun t r => some (lanesDone { t with freeCtr := t.freeCtr + 1 } r i false
        ((execLanes r).map fun k => (k, .ok [⟨.ts, Config.wallClock t.freeCtr⟩] 0#7 false)))⟩
    else none
  | _ => none

/-! ### The prefix and the unassigned opcodes (R77-R82, R87) -/

/-- A word that is issued, not skipped by a replay (R450). -/
structure Issues (s : State) (w : Warp) : Prop where
  issuer : s.issuer = some w
  issued : skipped w = false

/-- The lanes for which the word after a prefix executes first. -/
def repLanes (w : Warp) (x : Word) (lit : Word) : Mask :=
  effLanes { w with replay := none } ⟨(Raw.ofWord x lit).grd, (Raw.ofWord x lit).gng == 1#1⟩

/-- The prefix is accepted with the word `x`, fetched from the address after it, and leaves the state `t` (R79, R81, R85). -/
structure RepAccepted (s t : State) (w : Warp) (count : Nat) (steps : List Int) (x lit : Word) : Prop where
  fetched : fetchPair s w ((w.pc.toNat + 8) % 2 ^ 56) = .ok t (x, lit)
  allowed : repOk (Raw.ofWord x lit) steps = true
  inRange : repLanes w x lit ≠ 0#32 → repRangeOk w (Raw.ofWord x lit) steps count = true

/-- The state at the first repetition. -/
def repeating (t : State) (w : Warp) (count : Nat) : State :=
  updWarp t w.uid fun w => { w with pc := w.pc + 8#56, repc := count, replay := none, held := none }

end Sys2Proof.Machine
end

