-- ==== Sys2Proof/Safety/Events.lean ====
section
/-! DEFINITION. The effects of the device's own steps: the task queue units and context slots, the engines, the
deliveries of asynchronous causes (spec/09, spec/15 R362, spec/16 R381-R398, spec/17 R421-R425, spec/20 R449). -/

namespace Sys2Proof.Machine

/-- Every step of the device that the table lists, in a state where it is due, has the effect the table gives. -/
def TakesEffect (tbl : State → Instr → Option State) : Prop :=
  ∀ (s t : State) (i : Instr), tbl s i = some t → exec i s = .next t

/-! ### The task queue units (R233-R263) -/

/-- A packed warp leaves a bin (R245, R246): lane j holds record j, and s0 the class's argument. -/
def binClosed (s : State) (die : Nat) (b : Bin) : Option State :=
  (findLaunch s b.asid b.launch).map fun l =>
    let c := l.classes.getD b.cls ⟨0, 0, 0, 0, false, false, vNil⟩
    let n := (getCtx s b.asid).packNo
    let lane := fun (k j : Nat) => match b.recs[j]? with
      | some r => r.getD k vNil
      | none => vNil
    let fresh := newWarp s.nextUid b.asid n b.launch die (BitVec.ofNat 56 c.entry)
      (maskWhere fun j => decide (j < b.recs.length)) c.rows
    let rows := (List.range 4).map fun k => rowWith (lane k)
    let w : Warp := { fresh with
      packed := true, jca := c.jca, lvl := c.lvl, ceil := l.ceil, v := rows ++ fresh.v.drop 4
      sreg := setAt fresh.sreg 0 c.arg }
    let s := updDie s die fun d => { d with bins := d.bins.filter fun x => x.id != b.id }
    let s := updCtx s b.asid fun x => { x with packNo := if n = 2 ^ 32 - 1 then 2 ^ 31 else n + 1 }
    let s := updLaunch s b.asid b.launch fun l => { l with alive := l.alive + 1 }
    let s := { s with nextUid := s.nextUid + 1, warps := s.warps ++ [w] }
    let d := fun (d : Die) => { d with queue := d.queue ++ [⟨s.nextRec, .packed (s.nextUid - 1), b.asid, c.lvl, l.ceil⟩] }
    { updDie s die d with nextRec := s.nextRec + 1 }

/-- Warp `n` of a launch stands at its first instruction (R32, R237). -/
def firstWarp (s : State) (l : Launch) (n : Nat) (p : Pos) : Warp :=
  let w := newWarp s.nextUid l.asid n l.num p.die (BitVec.ofNat 56 l.entry) allLanes l.rows
  { w with
    gsel := l.gselOf n, lvl := l.lvl, ceil := l.ceil
    sreg := l.args ++ List.replicate (64 - l.args.length) vNil }

/-- The next warp of a launch is dispatched (R237, R252, R259). -/
def warpSent (s : State) (die : Nat) (r : QRec) (l : Launch) (p : Pos) (slot : Nat) : Option State :=
  (nextWarp s l).map fun n =>
    let u := s.nextUid
    let s := { s with nextUid := u + 1, warps := s.warps ++ [firstWarp s l n p] }
    let s := updLaunch s l.asid l.num fun l => countSent l n
    let s := if l.wcnt ≤ (countSent l n).sent then dropRec s die r.id else s
    settle (giveChunk s u) u p slot

/-- The record that a core takes is sent (R259, R453). -/
def recSent (s : State) (die : Nat) (r : QRec) (p : Pos) (slot : Nat) : Option State :=
  match r.kind with
  | .launch a n => (findLaunch s a n).bind fun l => warpSent s die r l p slot
  | .packed u => some (settle (giveChunk (dropRec s die r.id) u) u p slot)
  | .continuation u => (findWarp s u).bind fun w =>
      let s := contReady s w
      if contReadable s w then
        some (settle (dropRec (updCtx s w.asid fun c => { c with
          contUsed := c.contUsed.filter fun x => x.1 != w.contAt }) die r.id) u p slot)
      else none
  | .evicted u => (findWarp s u).bind fun w =>
      let s := saveReady s w
      (restoreWarp s w).map fun x => settle (putWarp (dropRec s die r.id) x) w.uid p slot
  | .hostWait u => (findWarp s u).bind fun w =>
      let s := saveReady s w
      (restoreWarp s w).bind fun x =>
        (got (hostAct (settle (putWarp (dropRec s die r.id) x) w.uid p slot) w.uid)).map fun z => z.1

/-- A warp leaves its slot, its loads completed (R464): as an evicted-warp record (R254), or parked when it yields at a
barrier (R241). -/
def evicted (s : State) (w : Warp) (yields : Bool) : Option State :=
  if w.sparse ≠ [] then none
  else
    let t := noteRelease (updWarp s w.uid fun w => { w with outstanding := [] }) w.uid 6
    let t := updCore t w.pos fun c => { c with requests := c.requests.filter fun x => x != w.uid }
    let st := if yields then WStatus.parked else .queued
    let t := saveWarp (updWarp t w.uid fun w => { w with status := st, held := none }) w.uid
    some (if yields then t else queueRec t w.die (.evicted w.uid) w.asid w.lvl w.ceil)

/-- The task queue units and context slots. -/
def schedSpec (s : State) (i : Instr) : Option State :=
  match i with
  | .spawnBinTimeout die bin => ((getDie s die).bins.find? fun b => b.id == bin).bind fun b =>
      if (getDie s die).spillOrd = [] then binClosed s die b else none
  | .submissionLine die => if 8 ≤ die then none else
      (queueEntry s die).bind fun q => (got (readDesc s (unitAt q.asid die) q.desc)).bind fun d =>
        (got (deqStep d.1 none (unitAt q.asid die) q.desc)).bind fun z => z.2.bind fun l =>
          let word := fun (k : Nat) => (l.getD k vZero).n
          let high := z.1.hub.sysLines.contains (die, d.2.head)
          let t := { z.1 with hub := { z.1.hub with sysLines := z.1.hub.sysLines.filter (· != (die, d.2.head)) } }
          if word 7 / 256 % 256 = 1 ∧ word 0 % 64 = 0 then
            (got (submit t (unitAt q.asid die) die ⟨none, none, high⟩ (word 0))).bind fun x =>
              (got (completionLine x.1 (unitAt q.asid die) (word 1) x.2)).map fun y => y.1
          else none
  | .warpDispatch die rec p slot =>
      let s := grantLaunches s
      (offered s die p).bind fun x =>
        if x.1.id = rec ∧ slotFree s p slot = true ∧ rowsFit s p (slot / 16) x.2 = true then
          (recSent s die x.1 p slot).map fun t => charged t die x.1 p slot
        else none
  | .warpRetirement u => (findWarp s u).bind fun w =>
      if w.isResident = true ∧ w.em = 0#32 ∧ w.stack = [] ∧ w.spill = [] ∧ w.joining = true ∧ pendingBatches s u = [] then
        (got (retireChans u 16 s)).bind fun z => (got (retireAlarms z.1 w)).bind fun z =>
          (findWarp z.1 u).bind fun w => (got (completionBit z.1 w)).bind fun y =>
          (findWarp y.1 u).map fun w => retireEnd y.1 w
      else none
  | .loadCompletion u => (findWarp s u).map fun _ => updWarp s u fun w => { w with outstanding := w.outstanding.drop 1 }
  | .rowGrant p quad => match quadReqs s p quad with
      | w :: _ =>
        let n := w.regsReq.getD w.allot
        if quadRows s p quad + (n - w.allot) ≤ 512 then
          some (updCore (updWarp s w.uid fun x => { x with
            allot := n, v := x.v.take n ++ List.replicate (n - x.v.length) nilRow, regsReq := none }) p fun c => { c with
              requests := c.requests.filter fun u => u != w.uid })
        else none
      | [] => none
  | .eviction p quad => match quadReqs s p quad with
      | q :: _ => (youngest s p quad q.uid).bind fun w => (findWarp s w.uid).bind fun w => evicted s w false
      | [] => none
  | .gbarWaitYield u => (findWarp s u).bind fun w => w.barWait.bind fun b =>
      if w.isResident = true ∧ w.barRes = none ∧ memberAway s w b = true then evicted s w true else none
  | .agingPromotion die rec => ((getDie s die).queue.find? fun r => r.id == rec).bind fun r =>
      if r.lvl < r.top then
        some (updDie s die fun d => keepCredit { d with
          queue := (d.queue.filter fun x => x.id != rec) ++ [⟨r.id, r.kind, r.asid, r.lvl + 1, r.top⟩] })
      else none
  | .timeSliceExpiry p =>
      let s := grantLaunches s
      (chooseCtx s p).bind fun _ =>
        let s := beforeSwitch s p
        match chooseCtx s p with
        | some a => switchTo s p a
        | none => some s
  | .contextStreamOut p asid =>
      if ((getCore s p).sts.any fun x => x.asid == asid && x.place != .memory) = true ∧ warpsStop s p asid = true
          ∧ coreQuiet s p asid = true then
        let s := if (getCore s p).live = some asid then beforeSwitch s p else s
        some ((slotWarps s p asid).foldl (fun s w => evictWarp s w.uid) (imagePut s p asid))
      else none
  | .contextRestore p asid =>
      if (getCore s p).live = none ∧ (((getCore s p).sts.any fun x => x.asid == asid) = true
          ∨ coreRuns s p asid = true) then
        let t := (slotWarps s p asid).foldl (fun s w => updWarp s w.uid fun w => { w with status := .resident }) s
        let t := updCore t p fun c => { c with
          wanted := c.wanted.filter fun a => a != asid, last := c.last.map fun _ => (none, 0) }
        if (coreCtx t p asid).place = .memory then
          let t := imageReady t p asid
          some (updCoreCtx t p asid fun _ => imageGet t p asid)
        else some (updCoreCtx t p asid fun c => { c with place := .live })
      else none
  | _ => none

/-! ### The engines -/

/-- The rest of the word that has been begun, none of whose elements stops the copy (R306). -/
def wordMoved (p : Pos) : Nat → State → CopyJob → Option (State × CopyJob)
  | 0, s, j => some (s, j)
  | f + 1, s, j =>
    if sameWord s p j then (got (copyOne s p j)).bind fun z => wordMoved p f z.1 z.2 else some (s, j)

/-- Up to `k` words of a copy move, each at once, or steps of its traversal are made, none of which stops it (R306, R382,
R392). -/
def copyMoved (p : Pos) : Nat → State → CopyJob → Option (State × CopyJob)
  | 0, s, j => some (s, j)
  | k + 1, s, j =>
    if j.n ≤ j.done then some (s, j)
    else (got (copyOne s p j)).bind fun z => (wordMoved p 8 z.1 z.2).bind fun z => copyMoved p k z.1 z.2

/-- The addition that ends a copy (R384). -/
def copyAdded (s : State) (p : Pos) (j : CopyJob) : Option State :=
  (got (gaugeAdd s { copyWho p j with sup := true } j.gauge (j.n * 2 ^ j.esz))).map fun z => dropCopy z.1 p j

/-- `k` elements come out of the decoder, none of which stops it (R396, R398). -/
def decoded (p : Pos) : Nat → State → DecJob → Option (State × DecJob)
  | 0, s, j => some (s, j)
  | k + 1, s, j =>
    if jobNel j.words ≤ j.prod ∨ (j.chan = true ∧ 128 ≤ j.buf.length) then some (s, j)
    else (got (nextElem s (decWho p j) j)).bind fun z => z.2.bind fun e =>
      let q := decPut z.1 p j e.2 e.1
      decoded p k q.1 q.2

/-- The k-groups of an MMA from `j` on, in ascending order, with no NaN that halts it (R421, R428): the core state and
whether AW is due. -/
def mmaDone (m : MWork) (pair : Pair) (set : Bool) (acc ta tb : Nat) : Nat → Nat → CoreState → Bool → Option (CoreState × Bool)
  | 0, _, c, aw => some (c, aw)
  | k + 1, j, c, aw =>
    let r := mmaGroup c pair set acc ta tb j
    if r.nan.isSome && m.nt then none else mmaDone m pair set acc ta tb k (j + 1) r.c (aw || r.aw)

/-- The rows of an ACCOUT from `j` on with no NaN that halts it (R425, R428). -/
def rowsWritten (p : Pos) (m : MWork) (f : OutFmt) (rm : BitVec 3) (acc off stride cols : Nat) (s43 s52 : Bool) :
    Nat → Nat → State → Option State
  | 0, _, s => some s
  | k + 1, j, s =>
    let l := outRow (coreCtx s p m.asid) f rm s43 s52 acc j cols
    let base := off + j * stride
    if (rowNan f l).isSome && m.nt then none
    else
      let put := fun (c : CoreState) (e : Nat × Nat) =>
        { c with spad := cellsSet c.spad (base + e.2 * outSize f) (outSize f) e.1 }
      let s := l.zipIdx.foldl (fun s e => updCoreCtx s p m.asid fun c => put c e) s
      rowsWritten p m f rm acc off stride cols s43 s52 k (j + 1)
        (bankGroup s p ((List.range cols).map fun c => base + c * outSize f))

/-- Work that has ended leaves its unit, sets AW when its batch completes, and completes the batch (R413, R421). -/
def workEnds (s : State) (p : Pos) (m : MWork) (aw : Bool) : State :=
  let s := updCore s p fun c => { c with mq := c.mq.drop 1 }
  syncBatch (if m.aw || aw then updWarp s m.warp fun w => { w with awDue := m.batch :: w.awDue } else s) m.warp

/-- The work at the head of a matrix unit, not halted, whose context's state is on the core (R430). -/
def headWork (s : State) (p : Pos) : Option MWork :=
  match (getCore s p).mq with
  | m :: _ =>
    if m.halted = true ∨ ((getCore s p).sts.any fun x => x.asid == m.asid && x.place == .memory) = true then none else some m
  | [] => none

/-- The engines' steps. -/
def engineSpec (s : State) (i : Instr) : Option State :=
  match i with
  | .copyBegin p slot => (findCopy s p slot).bind fun j =>
      if j.st = .queued ∧ ((getCore s p).copies.all fun x => x.st != .queued || decide (j.seq ≤ x.seq)) = true then
        some (putCopy s p { j with st := .running })
      else none
  | .copyTransfer p slot n => (findCopy s p slot).bind fun j =>
      if j.st = .running then
        (copyMoved p n s j).map fun z =>
          (copyLays j).foldl (fun s l => layGroups s (copyWho p j) l j.done
            (((findCopy (putCopy z.1 p z.2) p slot).map fun x => x.done).getD j.done)) (putCopy z.1 p z.2)
      else none
  | .copyCompletion p slot => (findCopy s p slot).bind fun j =>
      if j.st = .running ∧ j.n ≤ j.done then
        match j.kind with
        | .slice _ _ id => (s.crounds.find? fun r => r.id == id).bind fun r =>
            if 1 < r.left then some (dropCopy (updRound s id fun r => { r with left := r.left - 1 }) p j)
            else (got (gaugeAdd s { copyWho p j with sup := true } r.gauge r.bytes)).map fun z => endRound z.1 id
        | .cpym d l tg word nt batch =>
            (got (followOn s p j word nt batch)).bind fun z => copyAdded z.1 p { j with kind := .cpy d l tg }
        | _ => copyAdded s p j
      else none
  | .decoderOutput p job => (decAt s p job).bind fun j =>
      let tab := if j.st = .queued ∨ j.tab = [] then
          (List.range 256).map fun k => cellsGet (coreCtx s p j.asid).spad (jobTbl j.words + k) 1
        else j.tab
      if decTurn (getCore s p) j = true ∧ ctxHere s p j.asid = true ∧ (j.st = .queued ∨ j.tab = [] → tableOk tab = true) then
        (decoded p (beatLen j) s { j with st := .running, tab := tab }).map fun z =>
          let t := putDec z.1 p z.2
          if j.chan then t
          else bankGroup t p ((List.range (((decAt t p job).map fun x => x.prod).getD j.prod - j.prod)).map fun k =>
            jobDst j.words + (j.prod + k) * jobElem j.words)
      else none
  | .decoderJobEnd p job => (decAt s p job).bind fun j =>
      if j.st = .running ∧ j.ended = false ∧ jobNel j.words ≤ j.prod ∧ ctxHere s p j.asid = true then
        let t := updCoreCtx s p j.asid fun c => { c with
          spad := cellsSet c.spad (j.off + 40) 8 (j.prod * 2 ^ 32 + (j.bitPos + 7) / 8) }
        if j.chan then some (putDec t p { j with ended := true })
        else (got (gaugeAdd t { decWho p j with sup := true } j.gauge (j.prod * jobElem j.words))).map fun z =>
          updCore z.1 p fun c => { c with decs := c.decs.filter fun x => x.seq != j.seq }
      else none
  | .mmaExecution p => (headWork s p).bind fun m => match m.op with
      | .mma pair set acc ta tb =>
        let n := mmaGroups (coreCtx s p m.asid) pair ta
        (mmaDone m pair set acc ta tb (n - m.pos) m.pos (coreCtx s p m.asid) false).map fun z =>
          let c := if set then { z.1 with accTy := setAt z.1.accTy acc (pairTy pair) } else z.1
          workEnds (if n - m.pos = 0 ∧ set = false then s else updCoreCtx s p m.asid fun _ => c) p m z.2
      | _ => none
  | .saccExecution p => (headWork s p).bind fun m => match m.op with
      | .sacc f32 ad ap sa sb =>
        if m.pos ≠ 0 then some (workEnds s p m false)
        else
          let r := saccAll (coreCtx s p m.asid) (scaleAt s p m.asid f32 sa) (scaleAt s p m.asid f32 sb) ad ap
          if r.nan.isSome && m.nt then none else some (workEnds (updCoreCtx s p m.asid fun _ => r.c) p m false)
      | _ => none
  | .acczExecution p => (headWork s p).bind fun m => match m.op with
      | .accz i32 acc =>
        let keep := fun (x : Host.Cell) => decide (x.1 < acc * 0x4000 ∨ (acc + 1) * 0x4000 ≤ x.1)
        let ty := if i32 then AccTy.i32 else .f32
        some (workEnds (updCoreCtx s p m.asid fun c => { c with
          acc := c.acc.filter keep, accTy := setAt c.accTy acc ty }) p m false)
      | _ => none
  | .accoutExecution p => (headWork s p).bind fun m => match m.op with
      | .accout f rm acc off g st cols rows s43 s52 =>
        (rowsWritten p m f rm acc off st cols s43 s52 (rows - m.pos) m.pos s).bind fun t =>
          (got (gaugeAdd t (unitWho p m) g (rows * cols * outSize f))).map fun z => workEnds z.1 p m false
      | _ => none
  | .sparseEngineOperation eng =>
      (engPick s eng).2.bind fun o =>
        let s := (engPick s eng).1
        if ((findWarp s o.warp).any fun w => engWaits s w.pos.die eng) = true then none
        else (got (spStep s o)).map fun z =>
          let t := setEngQueue z.1 eng (eraseFirst (fun q => q == o) (engQueue s eng))
          spDone (spAnswer (match z.2.more with
            | some m => setEngQueue t m.eng (engQueue t m.eng ++ [m])
            | none => t) o z.2) o.warp
  | .nodeReclamation eng =>
      if 32 ≤ eng ∨ engQueue s eng ≠ [] then none
      else (reclaimable s eng).bind fun r => (got (openTx s (engWho r.1 eng 0) r.2.1 r.2.2.1)).bind fun x =>
        (got (reclaimNode x.1 x.2 r.2.2.2)).bind fun y => (got (closeTx y.1 y.2)).map fun z => z.1
  | _ => none

/-! ### Deliveries at a boundary (R449) -/

/-- A report that names an instruction boundary of the warp (R449). -/
def boundaryReport (w : Warp) (c : FClass) (det : Nat) (m : Mask) (async : Nat) (kind : SKind) : Report :=
  { cls := c, det := det, info := 0, flm := m, rlm := 0#32, fva := fvaAll m 0, async := async, kind := kind
    repPc := w.pc, resPc := w.pc, ticket := 0, lanes := m, whole := false
    popped := replayPopped w, part := replayPart w }

/-- The warp that a cause is due to, when it is the one due. -/
def dueTo (s : State) (u : Nat) (i : Instr) : Option Warp :=
  (findWarp s u).bind fun w => if nextDue s w = some i then some w else none

/-- The alarm handler of a warp (R403): the watch ends, the state of a lane-handler entry is saved, HA holds the count
and HB the slot. -/
def alarmed (s : State) (w : Warp) (a : Alarm) (c : Nat) : Option State := (got (disarm s w a)).map fun z =>
  let s := z.1
  let f : HFrame := { latches := w.latches, ha := w.ha, hb := w.hb, hopRsn := w.hopRsn, hopCls := w.hopCls
                      hpc := w.hpc, repc := w.repc, hnd := w.hnd, alarm := true, div := none }
  let s := updWarp s w.uid fun w => { w with hframes := f :: w.hframes }
  let s := pushEntry s w.uid ⟨.handler, false, w.pc, w.hframes.length + 1, w.repc, w.em⟩
  updWarp s w.uid fun w => { w with
    pc := a.handler, hnd := true, ha := rowOf (vNat c), hb := rowOf (vNat a.slot), hopRsn := false, hopCls := 0
    hpc := w.pc, latches := [], outstanding := [], repc := 0, held := none }

/-- The deliveries. -/
def deliverySpec (s : State) (i : Instr) : Option State :=
  match i with
  | .nanTrapDelivery u => (dueTo s u i).bind fun w => w.nanDue.bind fun d =>
      atHandler (updWarp s u fun w => { w with nanDue := none }) w
        { boundaryReport w .arithmetic 0 d.1 0 .after with repPc := d.2 }
  | .matrixNanTrapDelivery u => (dueTo s u i).bind fun w => match w.mtraps with
      | x :: rest =>
        if x.flt.cls = .instruction ∧ x.flt.det = 26 then none
        else atHandler (updWarp s u fun w => { w with mtraps := rest }) w
          { boundaryReport w x.flt.cls x.flt.det w.em 2 .matrix with info := x.flt.info, fva := fvaAll w.em x.flt.fva }
      | [] => none
  | .copyFaultDelivery u => (dueTo s u i).bind fun w => (copyDueHead s w).bind fun q =>
      if q.2.cls = .instruction ∧ q.2.det = 26 then none
      else atHandler (updWarp s u fun w => { w with copyDue := w.copyDue.drop 1 }) w
        { boundaryReport w q.2.cls q.2.det w.em 1 .copy with
          info := q.2.info, ticket := q.1
          fva := if w.em = 0#32 then List.replicate 32 (wordN q.2.fva) else fvaAll w.em q.2.fva }
  | .lostWriteMachineCheck u _ => (dueTo s u i).bind fun w => match w.mcDue with
      | (det, a) :: rest => atHandler (updWarp s u fun w => { w with mcDue := rest }) w
          { boundaryReport w .machineCheck det w.em 3 .after with fva := fvaAll w.em a }
      | [] => none
  | .watchdogExpiry u => (findWarp s u).bind fun w =>
      if (getCtx s w.asid).wdog = 0 then none
      else if w.status = .resident then
        if (w.held.any heldWaiting) = true ∧ w.sparse = [] then
          let z := headLanes s w
          atHandler s w { boundaryReport w .watchdog 1 z.1 0 .replay with
            resPc := w.pc + BitVec.ofNat 56 z.2.1, whole := z.2.2 }
        else if nextDue s { w with wdDue := true } = some (.watchdogExpiry u) then
          atHandler (updWarp s u fun w => { w with wdDue := false }) w (boundaryReport w .watchdog 0 w.em 3 .after)
        else some (updWarp s u fun w => { w with wdDue := true })
      else if w.status = .hostWait ∨ unblotted s .watchdog = false then none
      else some (escLine s w.subj false 3 (fcauseOf (boundaryReport w .watchdog 0 w.em 3 .after)) w.em 0#64 w.pc vZero).1
  | .alarmDelivery u => (dueTo s u i).bind fun w => (dueAlarm s w).bind fun x =>
      if w.hframes.length < 32 ∧ w.depth < 1024 then alarmed s w x.1 x.2 else none
  | .comparatorBreakpoint u => (findWarp s u).bind fun w => (comparatorDue s w).map fun k =>
      debugEvent s u 25 k (boundaryReport w .instruction 25 w.em 0 .replay) (.breakpoint false true)
  | _ => none

end Sys2Proof.Machine
end

