-- ==== Sys2Proof/Safety/Device.lean ====
section
/-! DEFINITION. The effects of the host's accesses, of the hubs, and of the package (spec/24 R497-R508, spec/25). -/

namespace Sys2Proof.Machine

/-! ### The host's side of the hubs (R453, R487, R500-R504, R510-R520) -/

/-- The place in this device's DRAM behind an offset of the port's HDM decoder (R510): no migration names its frame. -/
def hostPlace (s : State) (off : Nat) : Option Nat :=
  (hdmPa s off).bind fun pa => if (migOf s (s.dev * 2 ^ 52 + pa)).isNone = true then some (s.dev * 2 ^ 52 + pa) else none

/-- A place in this device's DRAM that no migration names. -/
def dramPlace (s : State) (pa : Nat) : Option Nat :=
  if dramOk pa = true ∧ (migOf s (s.dev * 2 ^ 52 + pa)).isNone = true then some (s.dev * 2 ^ 52 + pa) else none

/-- Nothing stops what passes between two homes: no link on the way retrains, another device answers (R497, R508). -/
def wayOpen (s : State) (a b : Nat) : Bool :=
  let far := fun (die dev : Nat) => reachable s dev && !(s.hub.lapsed.contains 0)
    && !(waysWait s (portLinks die (devHub dev)))
  if domDev a = s.dev ∧ domDev b = s.dev then !(waysWait s (hopLinks (homeDie a) (homeDie b)))
  else if domDev a = s.dev then far (homeDie a) (domDev b)
  else if domDev b = s.dev then far (homeDie b) (domDev a)
  else true

/-- The key under which the bytes at a place were written has been destroyed, or its frame has still to be filled (R523). -/
def clearedAt (s : State) (a : Nat) : Bool :=
  s.hub.cleared.any fun c => decide (c.1 ≤ a ∧ a < c.1 + c.2)

/-- The host now holds a line (log 28). -/
def lineHeld (h : Hub) (line : Nat) : Hub := { h with hostLines := line :: h.hostLines.filter (· != line) }

/-- The host holds a line no longer, and no snoop for it is open. -/
def lineFreed (h : Hub) (line : Nat) : Hub :=
  { h with hostLines := h.hostLines.filter (· != line), snoops := h.snoops.filter (· != line) }

/-- The function may write the assets of the function that owns them (R515, R522, R523). -/
def mayChange (s : State) (fn own : Nat) : Bool :=
  let st := (s.hub.vfs.find? fun v => v.num == own).map fun v => v.st
  if fn = 0 then st == none || st == some .unlocked else fn == own && st != some .error

/-- A released host-wait record is queued at its level with the host's action (R453, R516). -/
def released_ (s : State) (asid id act : Nat) : Option State :=
  if id = 0 then none
  else (s.warps.find? fun w => w.asid == asid && w.status == .hostWait && w.hwId == id).bind fun w =>
    let allowed := match w.hwKind with
      | .breakpoint race _ => act == 0 || act == 2 || (act == 1 && race)
      | _ => act ≤ 3
    if allowed then
      let t := updWarp s w.uid fun w => { w with status := .queued, hwAct := act }
      let d := fun (d : Die) => { d with queue := d.queue ++ [⟨t.nextRec, .hostWait w.uid, asid, w.lvl, w.ceil⟩] }
      let t := updDie t w.die d
      some (updCtx { t with nextRec := t.nextRec + 1 } asid fun c => { c with sts := 0 })
    else none

/-- A hub register of 8 bytes that a function writes: the device number, the pool ports, the ASID table, a control block,
the queue table, the management window (R514-R517, R519, R527; log 31). -/
def registerPut (s : State) (fn addr x : Nat) : Option State :=
  let o := addr - 0x8000000000
  if addr % 8 ≠ 0 ∨ addr < 0x8000000000 then none
  else if 0x10000 ≤ o ∧ o < 0x12000 then
    (if mayChange s fn (getCtx s ((o - 0x10000) / 8)).fn then some (asidWrite s ((o - 0x10000) / 8) x) else none)
  else if 0x40000 ≤ o ∧ o < 0x80000 then
    (if mayChange s fn (getCtx s ((o - 0x40000) / 256)).fn then
      some (blockWrite s ((o - 0x40000) / 256) (o % 256 / 8) x) else none)
  else if fn ≠ 0 then none
  else if o = 0 then some (devnumPut s (x % 4096))
  else if 0x48 ≤ o ∧ o < 0x88 then some (fpoolPut s ((o - 0x48) / 8) x)
  else if o = 0x88 then some (fretPut s (wordN x))
  else if 0x80000 ≤ o ∧ o < 0x90000 then
    (if mayChange s 0 (queueSlot s ((o - 0x80000) / 16)).fn then
      some (queueWrite s ((o - 0x80000) / 16) (o % 16 / 8) x) else none)
  else if 0x190000 ≤ o ∧ o < 0x1A0000 then some (mgmtWrite s (o - 0x190000) x)
  else none

/-- What a read of the control block or the ASID table by their owner, or of the queue table by PF0, gives (R514-R517). -/
def registerGet (s : State) (fn addr : Nat) : Option Nat :=
  let o := addr - 0x8000000000
  let own := fun (n x : Nat) => if fn = 0 ∨ fn = n then some x else some 0
  if addr % 8 ≠ 0 ∨ addr < 0x8000000000 ∨ vfError s fn = true then none
  else if 0x10000 ≤ o ∧ o < 0x12000 then
    own (getCtx s ((o - 0x10000) / 8)).fn (spGet 0#64 s.hub.asidTab ((o - 0x10000) / 8)).toNat
  else if 0x40000 ≤ o ∧ o < 0x80000 then
    own (getCtx s ((o - 0x40000) / 256)).fn (blockRead (getCtx s ((o - 0x40000) / 256)) (o % 256 / 8))
  else if 0x80000 ≤ o ∧ o < 0x90000 then own 0 (queueRead (queueSlot s ((o - 0x80000) / 16)) (o % 16 / 8))
  else none

/-- The memory key of a function (R523, R524). -/
def keyed (s : State) (fn : Nat) (on : Bool) : State :=
  { s with hub := { s.hub with keys := s.hub.keys.filter (· != fn) ++ if on then [fn] else [] } }

/-- A step that changes an interface's state. -/
def vfMoves (s : State) (vf : Nat) (from_ : List VfSt) (f : State → State) (g : Vf → Vf) : Option State :=
  (s.hub.vfs.find? fun v => v.num == vf).bind fun v =>
    if v.st ∈ from_ then
      some { f s with hub := { (f s).hub with vfs := modifyFirst (fun v => v.num == vf) g (f s).hub.vfs } }
    else none

/-- A breach of an interface: it is cleared, its key destroyed, and it is in ERROR (R523). -/
def breached (s : State) (vf : Nat) : Option State :=
  vfMoves s vf [.locked, .run] (fun s => keyed (clearVf s vf true) vf false) fun v => { v with st := .error }

/-- A host driver's access to a hub register or to a field of its function; a write of a field that a lock freezes is a breach (R515, R523). -/
def hostAccess (s : State) (fn addr : Nat) (acc : HubAcc) : Option State :=
  let field := fun (g : Vf → Vf) =>
    if vfFrozen s fn then some ((breached s fn).getD s) else some { s with hub := { s.hub with vfs := modifyFirst (fun v => v.num == fn) g s.hub.vfs } }
  match acc with
  | .write w => registerPut s fn addr w.toNat
  | .read => (registerGet s fn addr).map fun x => { s with hub := { s.hub with
      hostData := (List.range 8).map fun k => BitVec.ofNat 8 (x / 256 ^ k) } }
  | .bar w => field fun v => { v with bar := w }
  | .msix w => field fun v => { v with msix := w }
  | .report => some { s with hub := { s.hub with report := interfaceReport s fn } }

/-- The accesses and requests of the host. -/
def hubSpec (s : State) (i : Instr) : Option State :=
  match i with
  | .migrationLineMove id => (s.migs.find? fun m => m.id == id).bind fun m => (nextLine s m).bind fun k =>
      let src := m.old + 64 * k
      if (s.bad.contains (lineOf src)) = true then
        some { s with migs := modifyFirst (fun x => x.id == id) (fun x => { x with bad := k :: x.bad }) s.migs }
      else if (s.hub.hostLines.contains (lineOf src)) = true then
        (if (s.hub.snoops.contains (lineOf src)) = true ∨ hostWay s (lineOf src) = false then some s
        else some { s with hub := { s.hub with snoops := s.hub.snoops ++ [lineOf src] } })
      else if wayOpen s m.old m.new then some (moveLine s m k) else none
  | .migrationCompletion id => (s.migs.find? fun m => m.id == id).bind fun m =>
      let t := if m.shot then s else
        let t := dropFrameLines (swept s m.asid m.va 65536) m.old
        { t with migs := modifyFirst (fun x => x.id == id) (fun x => { x with shot := true }) t.migs }
      if m.moved.length ≠ 1024 then some t
      else
        let t := { t with migs := t.migs.filter fun x => x.id != id }
        some (if domDev m.old = s.dev then
          updCtx (updDie t (homeDie m.old) fun d => { d with pool := d.pool ++ [domPa m.old] }) m.asid fun c =>
            { c with used := c.used - 1 }
        else t)
  | .hostCxlMemRead addr => (hostPlace s (addr / 64 * 64)).bind fun a =>
      if hostWay s (lineOf a) = false then some s
      else if (s.bad.contains (lineOf a)) = true ∨ (s.soft.contains (lineOf a)) = true then none
      else
        let data := (List.range 64).map fun k => BitVec.ofNat 8 (memLoad s.mem a 64 / 256 ^ k)
        some { s with hub := lineHeld { s.hub with hostData := data } (lineOf a) }
  | .hostCxlMemWrite addr data =>
      if data = [] ∨ 64 < addr % 64 + data.length then none
      else (hostPlace s addr).bind fun a =>
        if hostWay s (lineOf a) = false then some s
        else if (s.bad.contains (lineOf a)) = true ∧ data.length ≠ 64 then none
        else
          let t := hostPut s a data
          some { t with hub := lineFreed t.hub (lineOf a) }
  | .hostSnoopResponse line =>
      if (s.hub.snoops.contains line) = true ∧ hostWay s line = true then some { s with hub := lineFreed s.hub line }
      else none
  | .enqPortWrite fn q data => (portEntry s fn q).bind fun e =>
      if vfError s e.fn then none
      else
        let line := (List.range 7).map fun k => (⟨.raw, data.getD k 0#64⟩ : Val)
        (got (atHand s fun s => enqStep s none (portWho e) e.desc line ((data.getD 7 0#64).toNat / 256 % 256))).map fun z =>
          if z.2 then z.1
          else { s with hub := { s.hub with
            qtab := modifyFirst (fun x => x.num == q) (fun x => { x with ovf := true }) s.hub.qtab } }
  | .deqPortRead fn q => (portEntry s fn q).bind fun e =>
      if vfError s e.fn then none
      else (got (atHand s fun s => deqStep s none (portWho e) e.desc)).bind fun z =>
        z.2.map fun l =>
          let bytes := l.flatMap fun v => (List.range 8).map fun k => BitVec.ofNat 8 (v.n / 256 ^ k)
          drainLines { z.1 with hub := { z.1.hub with hostData := bytes } }
  | .contextLive fn asid =>
      if asid < 1024 ∧ mayChange s fn (getCtx s asid).fn = true then
        let c := getCtx s asid
        if c.v then some (putCtx s { c with ending := false })
        else if (spGet 0#64 s.hub.asidTab asid).toNat % 2 = 1 then
          some (putCtx s { c with v := true, ending := false, launchNo := 1, hwNo := 1 })
        else none
      else none
  | .contextEnd asid =>
      if (getCtx s asid).ending = true ∧ ctxBusy s asid = false then some (endCtx s asid) else none
  | .hostWaitResume asid id => released_ s asid id 0
  | .hostWaitSkip asid id => released_ s asid id 1
  | .hostWaitExit asid id => released_ s asid id 2
  | .hostWaitReenter asid id => released_ s asid id 3
  | .fpoolWrite die frame =>
      if die < 8 ∧ frame % 65536 = 0 ∧ dramOk frame = true ∧ frame / 2 ^ 36 = die
          ∧ frame % 2 ^ 36 / 65536 < (getDie s die).freefr
          ∧ (s.dies.any fun d => d.pool.contains frame) = false ∧ clearedAt s (s.dev * 2 ^ 52 + frame) = false then
        some (updDie s die fun d => { d with pool := d.pool ++ [frame] })
      else none
  | .fretWrite w =>
      let asid := w.toNat % 1024
      let fr := w.toNat / 65536 % 2 ^ 36 * 65536
      if (getCtx s asid).used ≠ 0 ∧ dramOk fr = true ∧ fr % 2 ^ 36 / 65536 < (getDie s (fr / 2 ^ 36)).freefr then
        let mine := fun (o : CodeObj) => o.shared.any fun p => p.2.contains (s.dev * 2 ^ 52 + fr)
        let t := updCtx s asid fun c => { c with used := c.used - 1 }
        let t := { t with hub := { t.hub with objects := t.hub.objects.filter fun o => !(mine o) } }
        some (updDie t (fr / 2 ^ 36) fun d => { d with filling := d.filling ++ [fr] })
      else none
  | .frameFillCompletion frame =>
      let die := frame / 2 ^ 36
      if die < 8 ∧ ((getDie s die).filling.contains frame) = true ∧ heldIn s (s.dev * 2 ^ 52 + frame) 65536 = none then
        let a := s.dev * 2 ^ 52 + frame
        let out := fun (l : Nat) => decide (l < a / 64 ∨ a / 64 + 1024 ≤ l)
        let t := { s with
          mem := memZero s.mem a 8192, bad := s.bad.filter out, soft := s.soft.filter out
          hub := { s.hub with cleared := s.hub.cleared.filter fun c => decide (c.1 < a ∨ a + 65536 < c.1 + c.2) } }
        some (updDie t die fun d => { d with
          filling := eraseFirst (· == frame) d.filling
          pool := if d.pool.contains frame then d.pool else d.pool ++ [frame] })
      else none
  | .devnumWrite n =>
      if s.hub.devnum = none ∧ n < 4096 then some (devnumPut s n) else none
  | .scrivenerMailboxRequest fn asid addr size base =>
      if s.hub.mailbox.go = false ∧ fnReaches s fn asid = true ∧ asid < 1024 ∧ addr % 64 = 0 ∧ size % 64 = 0 then
        (got (atHand s fun s => (readLines (size / 64) addr s).bind fun t l => loadImage t asid base l)).map fun z =>
          { z.1 with hub := { z.1.hub with mailbox := ⟨asid, addr, size, false, z.2.1, z.2.2⟩ } }
      else none
  | .hubRegisterWrite fn addr acc => hostAccess s fn addr acc
  | _ => none

/-! ### Contexts of an interface (R522, R523) and resets (R528) -/

/-- What a bring-up keeps of the model's own fields, and its outcome (R528, logs 1 and 6). -/
def broughtUp (s new : State) : State :=
  { new with
    hub := { new.hub with status := Config.bootStatus s.freeCtr, inReset := Config.bootStatus s.freeCtr != 0 }
    agenda := s.agenda, tick := s.tick, freeCtr := s.freeCtr + 1 }

/-- A line of this device's DRAM at its home of the moment (R500, R525). -/
def scrubPlace (s : State) (line : Nat) : Nat :=
  match migOf s (64 * line) with
  | some m =>
    let off := 64 * line % 65536
    (if m.moved.contains (off / 64) then m.new else m.old) + off
  | none => 64 * line

/-- The telemetry words of a die: power and temperature, which are left open, corrected errors, queue depths by level
(R525; logs 6, 31). -/
def telemetryOf (s : State) (d : Die) : List (Nat × Word) :=
  let at_ := fun (k : Nat) => 0x2000 + 512 * d.num + 8 * k
  let depth := fun (l : Nat) => wordN (d.queue.filter fun r => r.lvl == l).length
  [(at_ 0, Config.telemetry (s.freeCtr + 2 * d.num)), (at_ 1, Config.telemetry (s.freeCtr + 2 * d.num + 1)),
    (at_ 2, wordN d.corrected)] ++ (List.range 48).map fun l => (at_ (3 + l), depth l)

/-- A word of this device's DRAM that another device reads or writes (R508). -/
def remotePlace (s : State) (pa : Nat) : Option Nat :=
  (dramPlace s pa).bind fun a =>
    if (s.bad.contains (lineOf a)) = false ∧ (s.soft.contains (lineOf a)) = false
        ∧ (s.hub.hostLines.contains (lineOf a)) = false ∧ noneParked s a = true then some a else none

/-- The Blotter's trigger when it is armed: the dies and the hub latch at once, the cores at the end of the turn (R479,
R480). -/
def fired (s : State) (src asid wnum code : Nat) : State :=
  let b := { s.hub.blot with
    fired := true, arm := false, src := src, asid := asid, wnum := wnum, code := code, cycle := s.cycle, out := true
    latch := true, links := s.hub.linkDown, ports := portsUp s, pcs := s.hub.fwPcs }
  { s with
    hub := { s.hub with blot := b }
    dies := s.dies.map fun d => { d with snap := dieSnap s d }
    freeCtr := s.freeCtr + 2 }

def onHub (s : State) (f : Hub → Hub) : Option State := some { s with hub := f s.hub }

/-- An access of firmware core `core` inside its windows (R521, R524). -/
def firmwareSpec (s : State) (core : Nat) (acc : FwAccess) : Option State :=
  let inWin := fun (right : FwWin → Bool) (a n : Nat) => s.hub.windows.any fun w =>
    right w && decide (w.lo ≤ a) && decide (a + n ≤ w.lo + w.len)
  let dropped := fun (l : List Word) => onHub s fun h => { h with fwData := l, dropped := h.dropped + 1 }
  let get := fun (s : State) (right : FwWin → Bool) (a : Nat) =>
    if inWin right a 8 = false then onHub s fun h => { h with fwData := [0#64], dropped := h.dropped + 1 }
    else if dramOk a = false then (registerGet s 0 a).bind fun x => onHub s fun h => { h with fwData := [wordN x] }
    else (dramPlace s a).bind fun d =>
      if (s.bad.contains (lineOf d)) = true ∨ (s.soft.contains (lineOf d)) = true
          ∨ (s.hub.hostLines.contains (lineOf d)) = true then none
      else onHub s fun h => { h with fwData := [wordN (memLoad s.mem d 8)] }
  match acc with
  | .read a => if a % 8 ≠ 0 then none else get s FwWin.r a
  | .fetch a => get { s with hub := { s.hub with fwPcs := spSet 0 s.hub.fwPcs core a } } FwWin.x (a / 8 * 8)
  | .write a w =>
    if a % 8 ≠ 0 then none
    else if inWin FwWin.w a 8 = false then onHub s fun h => { h with dropped := h.dropped + 1 }
    else if dramOk a = false then registerPut s 0 a w.toNat
    else (dramPlace s a).bind fun d =>
      if (s.bad.contains (lineOf d)) = true ∨ (s.hub.hostLines.contains (lineOf d)) = true then none
      else some (hostPut s d ((List.range 8).map fun k => BitVec.ofNat 8 (w.toNat / 256 ^ k)))
  | .enq q l => (queueEntry s q).bind fun e =>
      if inWin FwWin.w (0x8000100000 + 128 * q) 64 = false ∨ core < 4 then none
      else
        let line := (List.range 7).map fun k => (⟨.raw, l.getD k 0#64⟩ : Val)
        (got (atHand s fun s => (readDesc s (portWho e) e.desc).bind fun s _ =>
          enqStep s none (portWho e) e.desc line ((l.getD 7 0#64).toNat / 256 % 256))).bind fun z =>
            if z.2 then some z.1 else none
  | .deq q => if inWin FwWin.r (0x8000100040 + 128 * q) 64 = false then dropped (List.replicate 8 0#64) else
      (queueEntry s q).bind fun e => (got (atHand s fun s => deqStep s none (portWho e) e.desc)).bind fun z =>
        z.2.map fun l => drainLines { z.1 with hub := { z.1.hub with fwData := l.map fun v => v.pl } }
  | .hostRead _ l => onHub s fun h => { h with fwData := l.take 8 }
  | .hostWrite a l => onHub s fun h => { h with
      hostMem := ((List.range 8).zip l).foldl (fun m p => spSet 0#64 m (a / 64 * 8 + p.1) p.2) h.hostMem }

/-- What another device's request is answered with. -/
def answered (s : State) (l : List Val) : State := { s with hub := { s.hub with remoteData := l } }

/-- The tag that a write leaves: none on a raw page. -/
def tagIf (raw : Bool) (t : Tag) : Option (BitVec 4) := if raw then none else some (BitVec.ofNat 4 t.toNat)

/-- The value of a word for another device. -/
def remoteWord (s : State) (raw : Bool) (h : Nat) : Option Val :=
  if raw then some ⟨.raw, wordN (memLoad s.mem h 8)⟩
  else (Tag.ofNat? (memTag s.mem h).toNat).map fun t => ⟨t, wordN (memLoad s.mem h 8)⟩

/-- The package, its links and its background activity. -/
def packageSpec (s : State) (i : Instr) : Option State :=
  match i with
  | .bltctlWrite w =>
      let x := w.toNat
      let arm := x % 2 == 1
      onHub s fun h =>
        let b := { h.blot with
          arm := arm, sen := x / 32 % 2 == 1, pen := x / 64 % 2 == 1, fen := x / 128 % 2 == 1, cen := x / 256 % 2 == 1
          fcls := BitVec.ofNat 17 (x / 2 ^ 14), fired := h.blot.fired && !arm, miss := if arm then 0 else h.blot.miss }
        { h with blot := b }
  | .blotiRisingEdge => if s.hub.blot.pen = true ∧ s.hub.blot.arm = true then some (fired s 1 0 0 0) else none
  | .bltcmpMatch =>
      if s.hub.blot.cen = true ∧ s.hub.blot.arm = true ∧ s.cycle < s.hub.blot.cmp.toNat then
        some (fired { s with cycle := s.hub.blot.cmp.toNat } 2 0 0 0)
      else none
  | .blotoPulseEnd => onHub s fun h =>
      let b := { h.blot with out := false }
      { h with blot := b }
  | .lockInterfaceRequest vf => vfMoves s vf [.unlocked] (keyed · vf true) fun v => { v with st := .locked }
  | .startInterfaceRequest vf => vfMoves s vf [.locked] id fun v => { v with st := .run }
  | .stopInterfaceRequest vf =>
      vfMoves s vf [.locked, .run, .error] (clearVf · vf false) fun v => { v with st := .unlocked }
  | .interfaceBreach vf => breached s vf
  | .functionLevelReset vf =>
      vfMoves s vf [.unlocked, .locked, .run, .error] (clearVf · vf false) fun v => { v with st := .unlocked }
  | .coldReset => some (broughtUp s State.reset)
  | .warmReset =>
      let h := { Hub.reset with
        devnum := s.hub.devnum, digest := s.hub.digest, windows := s.hub.windows, rates := s.hub.rates
        keys := s.hub.keys, cleared := s.hub.cleared }
      some (broughtUp s { State.reset with mem := s.mem, bad := s.bad, soft := s.soft, hub := h })
  | .dvfsPointSelect die point => if point < 4 then some (updDie s die fun d => { d with point := point }) else none
  | .powerTrip => onHub s fun h => { h with halved := true }
  | .thermalLimit die => some (updDie s die fun d => { d with point := 0 })
  | .thermtrip => onHub s fun h => { h with stopped := true }
  | .flitResend link => onHub s fun h => { h with resends := spSet 0 h.resends link (spGet 0 h.resends link + 1) }
  | .dieLinkRetrain link =>
      if (s.hub.linkDown.contains link) = true then none else onHub s fun h => { h with linkDown := h.linkDown ++ [link] }
  | .dieLinkRetrainComplete link => onHub s fun h => { h with linkDown := h.linkDown.filter (· != link) }
  | .linkRecalibration _ => onHub s fun h => { h with recals := h.recals + 1 }
  | .scaleUpRouteTrained dev =>
      if dev < 4096 ∧ s.hub.devnum.isSome = true ∧ (s.hub.routes.contains dev) = false then
        onHub s fun h => { h with routes := h.routes ++ [dev] }
      else none
  | .deviceUnreachable dev => onHub s fun h => { h with routes := h.routes.filter (· != dev) }
  | .scaleupRequestTimeout u =>
      if (findWarp s u).isSome = true ∧ (s.hub.lapsed.contains u) = false then
        onHub s fun h => { h with lapsed := h.lapsed ++ [u] }
      else none
  | .patrolScrub line =>
      let a := scrubPlace s line
      let l := lineOf a
      if domDev a ≠ s.dev ∨ dramOk (domPa a) = false then none
      else if clearedAt s a = true then
        (s.hub.cleared.find? fun c => decide (c.1 ≤ a ∧ a < c.1 + c.2)).bind fun c =>
          if heldIn s c.1 c.2 = none then some (fillRange s c.1 c.2) else none
      else if (s.bad.contains l) = true then
        some (updDie s (homeDie a) fun d => { d with uncorrected := d.uncorrected + 1 })
      else if (s.soft.contains l) = true then
        some (updDie { s with soft := s.soft.filter (· != l) } (homeDie a) fun d =>
          { d with corrected := d.corrected + 1 })
      else some s
  | .dramRefresh die _ => some (updDie s die fun d => { d with refreshed := d.refreshed + 1 })
  | .telemetrySample =>
      let ws := (s.dies.flatMap (telemetryOf s)) ++ s.hub.resends.map fun r => (0x4000 + 8 * r.1, wordN r.2)
      onHub { s with freeCtr := s.freeCtr + 16 } fun h => { h with
        samples := h.samples + 1, mgmt := ws.foldl (fun m p => spSet 0#64 m p.1 p.2) h.mgmt }
  | .remoteDeviceRequest dev op =>
      if dev = s.dev ∨ reachable s dev = false then none
      else match op with
        | .load a raw | .copyRead a raw => (remotePlace s (a / 8 * 8)).bind fun h =>
            (remoteWord s raw h).map fun v => answered s [v]
        | .walk a => (remotePlace s (a / 8 * 8)).map fun h => answered s [⟨.raw, wordN (memLoad s.mem h 8)⟩]
        | .store a raw x | .copyWord a raw x => if a % 8 ≠ 0 then none else (remotePlace s a).map fun h =>
            answered { s with mem := memPut s.mem h 8 x.w.toNat (tagIf raw x.t) } []
        | .storePart a raw lg x => if a % 2 ^ lg.toNat ≠ 0 then none else (remotePlace s a).map fun h =>
            answered { s with mem := memPut s.mem h (2 ^ lg.toNat) x.toNat (tagIf raw .raw) } []
        | .copyWrite a raw b => (remotePlace s a).map fun h =>
            answered { s with mem := memPut s.mem h 1 b.toNat (tagIf raw .raw) } []
        | .atomic op a raw x => if a % 8 ≠ 0 then none else (remotePlace s a).bind fun h =>
            (remoteWord s raw h).map fun old => answered (match atomNew op raw old ⟨x.t, x.w⟩ with
              | some v => { s with mem := memPut s.mem h 8 v.n (tagIf raw v.tag) }
              | none => s) [old]
        | .cas a raw e n => if a % 8 ≠ 0 then none else (remotePlace s a).bind fun h =>
            (remoteWord s raw h).map fun old => answered (if casEq raw old ⟨e.t, e.w⟩ then
              { s with mem := memPut s.mem h 8 n.w.toNat (tagIf raw n.t) } else s) [old]
        | .cas2 a raw e0 e1 n0 n1 => if a % 16 ≠ 0 then none else (remotePlace s a).bind fun h =>
            if noneParked s (h + 8) = false then none
            else (remoteWord s raw h).bind fun o0 => (remoteWord s raw (h + 8)).map fun o1 => answered
              (if casEq raw o0 ⟨e0.t, e0.w⟩ && casEq raw o1 ⟨e1.t, e1.w⟩ then { s with
                mem := memPut (memPut s.mem h 8 n0.w.toNat (tagIf raw n0.t)) (h + 8) 8 n1.w.toNat (tagIf raw n1.t) }
              else s) [o0, o1]
        | .sparse asid desc key str op =>
            (got (atHand s fun s => remoteSparse s asid desc key str.toNat op)).map fun z => answered z.1 z.2
  | .firmwareCoreAccess core acc => if 52 ≤ core then none else firmwareSpec s core acc
  | _ => none

end Sys2Proof.Machine
end

