-- ==== Sys2Proof/Safety/Rules.lean ====
section
/-! DEFINITION. Terms of the statements about single rules: lanes that fault, guarded-off instructions, what a frame
leaves alone, the state at a turn. -/

namespace Sys2Proof.Machine

/-! ### The tables together -/

/-- The lane instructions' tables. -/
def laneTable (s : State) (i : Instr) : Option LaneSpec :=
  ((intSpec s i).or ((bitSpec s i).or (genSpec s i))).or
    (((floatSpec s i).or (convSpec s i)).or (((crossSpec s i).or (rowSpec s i)).or (mfsSpec s i)))

/-- The other instructions' tables. -/
def effectTable (s : State) (i : Instr) : Option Effect :=
  (((flowSpec s i).or (systemSpec s i)).or (((loadSpec s i).or (storeSpec s i)).or (atomSpec s i))).or
    ((((hintSpec s i).or (windowSpec s i)).or ((queueSpec s i).or (workSpec s i))).or
      (((sparseSpec s i).or (gaugeSpec s i)).or ((copySpec s i).or ((matrixSpec s i).or (privSpec s i)))))

/-- What an instruction of the tables presents to the checks of R85. -/
def tableIns (s : State) (i : Instr) : Option Ins :=
  ((laneTable s i).map LaneSpec.ins).or ((effectTable s i).map Effect.ins)

/-- The integer divisions, which have a fault of their own (R134). -/
def mayDivide (i : Instr) : Bool :=
  match i with
  | .idivt .. | .iremt .. => true
  | _ => false

/-! ### Lanes that fault (R128, R442-R444) -/

/-- Executing lanes without a result. -/
def failing (r : Ready) (L : LaneSpec) : Mask :=
  maskWhere fun k => (L.on r).contains k && (L.res r k).isNone

/-- The instruction's vector results go to no register, so a replay must know those of completed lanes (R442; log 54). -/
def noRegister (r : Ready) (i : Ins) : Bool :=
  r.vec && match i.dsts with
    | .chan _ :: _ | .nowb :: _ | .reg .zr :: _ => true
    | _ => false

/-- The values of the lanes that have completed, where no register holds them. -/
def unheld (r : Ready) (L : LaneSpec) : List (Nat × Val) :=
  if noRegister r L.ins then
    replayPart r.w ++ (L.on r).filterMap fun k => match L.res r k with
      | some (.ok (v :: _) _ _) => some (k, v)
      | _ => none
  else []

/-- The report of lanes that fault alike, with no address. -/
def alike (r : Ready) (L : LaneSpec) (c : FClass) (det : Nat) : Report :=
  { cls := c, det := det, info := 0, flm := failing r L, rlm := 0#32, fva := lanes.map fun _ => 0#64, async := 0
    kind := .replay, repPc := r.w.pc, resPc := r.w.pc + BitVec.ofNat 56 L.ins.size, ticket := 0, lanes := r.eff
    whole := false, popped := r.popped, part := unheld r L }

/-- The lanes with a result complete, the others raise one fault. -/
def someFault (t : State) (r : Ready) (L : LaneSpec) (c : FClass) (det : Nat) : State :=
  takeFault (updWarp t r.w.uid fun w =>
    raiseNan (orFlags (writeRes w L.ins.dsts (L.out r) r.vec) (allFlags (L.out r)))
      (if L.traps then nanLanes (L.out r) else 0#32) r.w.pc) r.w.uid (alike r L c det)

/-- A fault of the instruction at the warp's PC as a whole, for the lanes `m`. -/
def atOnce (w : Warp) (c : FClass) (det : Nat) (m : Mask) (size : Nat) : Report :=
  { cls := c, det := det, info := 0, flm := m, rlm := 0#32, fva := lanes.map fun _ => 0#64, async := 0, kind := .replay
    repPc := w.pc, resPc := w.pc + BitVec.ofNat 56 size, ticket := 0, lanes := m, whole := false
    popped := replayPopped w, part := replayPart w }

/-! ### Guarded-off instructions (R76) -/

/-- A destination's old value as a latch entry: ⟨NIL, 0⟩ where it is none (the model's choice for a scalar, log 53) or not
in the allotment. -/
def oldEntry (w : Warp) (d : Dst) (vec : Bool) : Opd :=
  match d with
  | .reg (.v n) => .vec (if n.toNat < w.allot then rowVal w n.toNat else nilRow)
  | .reg (.s n) => .sca (sregVal w n.toNat)
  | .reg (.m n) => .sca (vRaw (maskVal w n).toNat)
  | _ => if vec then .vec nilRow else .sca vNil

/-- One more entry in the latch history; those that outstanding loads will give are one place further down (R72, R169). -/
def oneMore (x : Warp) (o : Opd) : Warp :=
  { x with latches := (o :: x.latches).take 8, outstanding := x.outstanding.map PendLoad.aged }

/-- The state after a guarded-off instruction: its latch entry, and the next word or repetition. -/
def passedOver (s : State) (w : Warp) (i : Ins) : State :=
  updWarp s w.uid fun x => advance (match i.pushes, i.dsts with
    | true, d :: _ => oneMore x (oldEntry w d (insVec w i))
    | true, [] => oneMore x (.sca vNil)
    | false, _ => x) i.size

/-- A source or destination that does not exist or is invalid (R17, R71, R85). -/
def namesNothing (w : Warp) (i : Ins) : Prop :=
  (∃ n : BitVec 8, (.reg (.v n) ∈ i.srcs ∨ .reg (.v n) ∈ i.dsts) ∧ w.allot ≤ n.toNat)
    ∨ (∃ n : BitVec 5, .reg (.t n) ∈ i.dsts) ∨ ∃ k : BitVec 3, .latch k ∈ i.srcs ∧ w.latches.length ≤ k.toNat

/-- The warp is at the word `x`: no outstanding load keeps it from issuing (R202), its form is defined, no barrier round of
an earlier issue is in hand (R222). -/
structure AtWord (s : State) (w : Warp) (x : Ins) : Prop where
  issuer : s.issuer = some w
  arrived : awaits w x = false
  defined : x.bad w = false
  noRound : w.barWait = none ∧ w.barRes = none

/-! ### Frames -/

/-- No operand is a channel. -/
def noChannel (i : Ins) : Bool :=
  (i.srcs.all fun x => match x with
    | .chan _ _ => false
    | _ => true) && i.dsts.all fun d => match d with
    | .chan _ => false
    | _ => true

/-- Nothing but one warp has changed. -/
def onlyWarp (u : Nat) (s t : State) : Prop :=
  t = { s with warps := t.warps } ∧ ∀ v, v ≠ u → findWarp t v = findWarp s v

/-- Registers that the destinations do not name, and lanes outside `on` of those they do, are as they were. -/
def keepsRegs (ds : List Dst) (on : List Nat) (w x : Warp) : Prop :=
  (∀ n : BitVec 8, .reg (.v n) ∉ ds → rowVal x n.toNat = rowVal w n.toNat)
    ∧ (∀ n k, k < 32 → k ∉ on → rowAt (rowVal x n) k = rowAt (rowVal w n) k)
    ∧ (∀ n : BitVec 6, .reg (.s n) ∉ ds → sregVal x n.toNat = sregVal w n.toNat)
    ∧ ∀ n : BitVec 3, .reg (.m n) ∉ ds → maskVal x n = maskVal w n

/-- The rest of a warp is as it was, but for its place in the program, its latches and where outstanding loads stand among
them, its flags and a NaN trap due. -/
def keepsRest (w x : Warp) : Prop :=
  x.outstanding.map PendLoad.regs = w.outstanding.map PendLoad.regs ∧
    x = { w with
      v := x.v, sreg := x.sreg, m := x.m, latches := x.latches, pc := x.pc, repc := x.repc, fpst := x.fpst
      nt := x.nt, nanDue := x.nanDue, replay := none, held := none, joining := false, outstanding := x.outstanding }

/-- Special registers and control state that no lane instruction writes (R24). -/
def keepsSpecial (w x : Warp) : Prop :=
  x.em = w.em ∧ x.sup = w.sup ∧ x.hnd = w.hnd ∧ x.gsel = w.gsel ∧ x.lvl = w.lvl ∧ x.ceil = w.ceil ∧ x.ncur = w.ncur
    ∧ x.nlim = w.nlim ∧ x.rm = w.rm ∧ x.s43 = w.s43 ∧ x.s52 = w.s52 ∧ x.ha = w.ha ∧ x.hb = w.hb ∧ x.hopCls = w.hopCls
    ∧ x.hopRsn = w.hopRsn ∧ x.hpc = w.hpc ∧ x.flm = w.flm ∧ x.fva = w.fva ∧ x.fcause = w.fcause ∧ x.rwEn = w.rwEn
    ∧ x.rwCnt = w.rwCnt ∧ x.rwFst = w.rwFst ∧ x.opn = w.opn ∧ x.done = w.done ∧ x.hlt = w.hlt ∧ x.allot = w.allot
    ∧ x.stack = w.stack ∧ x.spill = w.spill ∧ x.hframes = w.hframes ∧ x.sframe = w.sframe

/-- The special registers that a context holds (R24). -/
def ctxRegsKept (c d : Ctx) : Prop :=
  d.pdtb = c.pdtb ∧ d.lvtb = c.lvtb ∧ d.svtb = c.svtb ∧ d.cardb = c.cardb ∧ d.spft = c.spft ∧ d.bpa = c.bpa

/-- What a lane of a storing instruction stores to: the kind of access, the address, the bytes. -/
def storeAt (r : Ready) (i : Instr) (k : Nat) : Option (AKind × Nat × Nat) :=
  match i with
  | .st _ ln _ m => (eaOf r 1 m 8 ln k).map fun va => (.store, va, 8)
  | .stt _ f _ _ m => (eaOf r 1 m (fmtBytes f) false k).map fun va => (.store, va, fmtBytes f)
  | .hst _ _ m => (eaOf r 1 m 8 false k).map fun va => (.headerStore, va, 8)
  | .stl _ _ m => (atomEa r 1 m 8 k).map fun va => (.store, va, 8)
  | .atom _ _ _ _ m => (atomEa r 1 m 8 k).map fun va => (.store, va, 8)
  | .cas _ _ _ m => (atomEa r 0 m 8 k).map fun va => (.store, va, 8)
  | .cas2 _ _ _ m => (atomEa r 0 m 16 k).map fun va => (.store, va, 16)
  | _ => none

/-- The byte at domain address `a` is one that some lane stores to. -/
def storedByte (t : State) (r : Ready) (i : Instr) (a : Nat) : Prop :=
  ∃ k ∈ execLanes r, ∃ x, storeAt r i k = some x ∧ ∃ p, reach t r.w.who x.1 x.2.1 x.2.2 = some p
    ∧ p.da ≤ a ∧ a < p.da + x.2.2

/-- The byte is the card of a page that some lane stores to (R174). -/
def cardByte (t : State) (r : Ready) (i : Instr) (a : Nat) : Prop :=
  ∃ k ∈ execLanes r, ∃ x, storeAt r i k = some x ∧ ∃ p, reach t r.w.who x.1 x.2.1 x.2.2 = some p
    ∧ pteCRD p.pte = true
    ∧ ∃ c, reach t r.w.who .store ((getCtx t r.w.asid).cardb.toNat + x.2.1 / 512) 1 = some c ∧ c.da = a

/-- The instructions whose stores `storeAt` gives. -/
def storing (s : State) (i : Instr) : Option Effect :=
  match i with
  | .st .. | .stt .. | .hst .. => storeSpec s i
  | .stl .. | .atom .. | .cas .. | .cas2 .. => atomSpec s i
  | _ => none

/-- Instructions that store nothing. -/
def storeless (s : State) (i : Instr) : Option Effect :=
  match i with
  | .exit _ => none
  | _ => ((flowSpec s i).or (loadSpec s i)).or ((hintSpec s i).or (windowSpec s i))

/-- The result is the seventh word of an .enq channel, whose line goes to its queue (R348). -/
def fillsLine (t : State) (r : Ready) (i : Ins) : Bool :=
  match i.dsts with
  | .chan n :: _ => (getChan (now t r) n).kind == .enq && decide (6 ≤ (getChan (now t r) n).buf.length)
  | _ => false

/-! ### A turn -/

/-- The state from which a turn issues: the cycles and waiting lines of the turn counted, the agenda's head taken. -/
def beforeTurn (s : State) : State :=
  { beginTurn s with agenda := s.agenda.tail }

/-- The agenda gives the turn to a quadrant of a running device, whose chosen warp `w` goes straight to its next
instruction: no sparse operation is in flight, no delivery is due, no spilled block to refill, no entry to arrive at, no repetition, no comparator. -/
structure GoesStraight (s : State) (w : Warp) : Prop where
  turn : ∃ p q l, s.agenda = .issue p q :: l ∧ pickWarp (beforeTurn s) p q = some w
  running : (beforeTurn s).hub.stopped = false ∧ (beforeTurn s).hub.inReset = false
  nothingDue : nextDue (beforeTurn s) w = none
  noSparse : w.sparse = []
  noRefill : (w.stack ≠ [] ∨ w.spill = []) ∧ w.refillErr = false ∧ spillReady (beforeTurn s) w = beforeTurn s
  onPath : w.em ≠ 0#32
  noArrival : arrive (beforeTurn s) w = w
  noRepeat : w.repc = 0
  noBreak : comparatorDue (putWarp (beforeTurn s) w) w = none

/-! ### Memory bytes under an instruction -/

/-- The entries of a rejoin stack, top first, on chip or spilled. -/
def entries (w : Warp) : List Rejoin := w.stack ++ w.spill.flatten

/-- Bits `hi:lo` of a word. -/
def fieldIs (v : Val) (lo n x : Nat) : Prop := v.n / 2 ^ lo % 2 ^ n = x

end Sys2Proof.Machine
end

