-- ==== Sys2Proof/Safety/Results.lean ====
section
/-! DEFINITION. Terms of the statements about results: what MTS leaves in a special register, where an index engine finds an
entry, and what an accumulator element is in terms of the tile elements. -/

namespace Sys2Proof.Machine

/-! ### Special registers (R24, R29, R49, R54, R55, R109, R121, R174, R176, R185, R387, R446, R474) -/

/-- Registers that MTS does not write at any privilege (R24). -/
def readOnlyRegs : List Nat := [1, 2, 3, 4, 5, 6, 18, 19, 20, 21, 22, 23, 24, 28, 29, 30]

/-- Registers that MTS writes at CPL 1 only (R24). -/
def supervisorRegs : List Nat := [10, 11, 12, 13, 27, 32, 33, 34, 35, 36, 37, 38, 39]

/-- A base address of 56 bits with its low `k` bits zero. -/
def baseValue (k x : Nat) : Option Val := if x < 2 ^ 56 ∧ x % 2 ^ k = 0 then some ⟨.int, wordN x⟩ else none

/-- What a special register that is not of lane scope reads after MTS of the payload `x`; none where the value is refused. -/
def afterMts (w : Warp) (n x : Nat) (old : Val) : Option Val :=
  match n with
  | 0 =>
    let m := BitVec.ofNat 32 x &&& ~~~w.exited
    if m = 0#32 then none else some ⟨.raw, m.setWidth 64⟩
  | 7 =>
    let cap := if w.sup = true ∨ x % 64 ≤ 43 then w.ceil else min w.ceil 43
    some ⟨.int, wordN (w.ceil * 256 + min (x % 64) cap)⟩
  | 8 | 9 => baseValue 4 x
  | 10 => baseValue 17 x
  | 11 => baseValue 7 x
  | 12 => baseValue 8 x
  | 13 => baseValue 12 x
  | 14 => if 6 ≤ x % 8 then none else some ⟨.raw, wordN (x % 64)⟩
  | 15 => some ⟨.raw, wordN (x % 128)⟩
  | 25 | 31 => some (if x % 2 = 1 then ⟨.int, 0#64⟩ else old)
  | 26 =>
    let open' := x / 2 ^ 17 = 1
    let count := x / 2 ^ 8 % 2 ^ 9
    if x < 2 ^ 18 ∧ (open' → count ≠ 0) ∧ x % 2 ^ 8 + count ≤ 256 then some ⟨.raw, wordN x⟩ else none
  | 27 => if 64 ≤ x ∧ x ≤ 1048576 then some ⟨.int, wordN x⟩ else none
  | _ => some ⟨.code, wordN x &&& 0x00FFFFFFFFFFFFF8#64⟩

/-- Every other register but PC and REPC, which follow the instruction, reads as before. -/
def otherRegsKept (t t' : State) (w w' : Warp) (n : Nat) : Prop :=
  ∀ m j, m < 40 → m ≠ n → m ∉ [1, 23] → srRead t' w' m j = srRead t w m j

/-! ### Sparse regions: where an entry is found (R353-R361) -/

/-- `n` words that an engine reads at an address, nothing standing between: where they lie, and what they hold. -/
def engRead (s : State) (who : Who) (va n : Nat) : Option (Nat × List Val) :=
  (reach s who .sparse va 8).bind fun p =>
    if (List.range n).all fun k => open_ s who (p.da + 8 * k) then
      ((List.range n).mapM fun k => valueAt s ⟨p.da + 8 * k, p.pte, p.size⟩).map fun l => (p.da, l)
    else none

/-- They can be written: the page is writable, the race detector does not watch it, no continuation waits on them. -/
def engWritable (s : State) (who : Who) (va n : Nat) : Bool :=
  match reach s who .sparseStore va 8 with
  | some p => unwatched s who.asid p && (List.range n).all fun k => noneParked s (p.da + 8 * k)
  | none => false

/-- A node on the way to an entry: its link, where it lies, what it holds. -/
structure Stop where
  link : Nat
  at_ : Nat
  node : Node
  deriving DecidableEq, Repr

/-- The nodes from the root to the leaf where a key belongs, the leaf first (R358). -/
def wayTo (s : State) (who : Who) (t : Stripe) (key : Nat) : Nat → Nat → List Stop → Option (List Stop)
  | 0, _, _ => none
  | f + 1, link, above => (engRead s who (nodeVa t (link - 1)) 32).bind fun a =>
    let n := nodeOf a.2
    let here := ⟨link, a.1, n⟩ :: above
    if n.level = 0 then some here
    else wayTo s who t key f (n.kids.getD ((n.keys.filter fun q => decide (q ≤ key)).length) 0) here

/-- What an operation finds: the region's record at `at_`, the stripe's record at `rec`, and the way to its key's leaf. -/
structure Finds (s : State) (o : SpOp) (q : Region) (t : Stripe) (at_ rec : Nat) (leaf : Stop) (up : List Stop) : Prop where
  region : ∃ l, engRead s (engWho o.asid o.eng o.warp) o.desc 8 = some (at_, l) ∧ regionOf (l.map fun v => v.n) = q
  record : ∃ l, engRead s (engWho o.asid o.eng o.warp) (stripeVa o.desc o.stripe) 8 = some (rec, l) ∧
    stripeOf (l.map fun v => v.n) = t
  rooted : t.root ≠ 0
  way : wayTo s (engWho o.asid o.eng o.warp) t o.key (t.hgt + 1) t.root [] = some (leaf :: up)
  sorted : leaf.node.keys.Pairwise (· < ·)

/-- Two runs of `m` and `n` bytes have no byte in common. -/
def clear_ (a m b n : Nat) : Prop := a + m ≤ b ∨ b + n ≤ a

/-- What a store to a leaf writes, the leaf and the stripe's record, shares no byte with what else the operation reads. -/
structure StoreApart (at_ rec : Nat) (leaf : Stop) (up : List Stop) : Prop where
  leafRecord : clear_ leaf.at_ 256 rec 64
  leafRegion : clear_ leaf.at_ 256 at_ 64
  recordRegion : clear_ rec 64 at_ 64
  others : ∀ x ∈ up, clear_ leaf.at_ 256 x.at_ 256 ∧ clear_ rec 64 x.at_ 256

/-- The entry of a key in a leaf, or the region's zero (R356, R366). -/
def entryIn (q : Region) (n : Node) (key : Nat) : Val :=
  (((n.keys.zip n.vals).find? fun p => p.1 = key).map fun p => p.2).getD (zeroOf q.etag)

/-! ### Accumulator elements (R39, R408, R420-R422, R425) -/

/-- A finite number in units of 2^-n, for a number that is a whole multiple of that. -/
def Fp.inUnits (n : Nat) : Fp → Int
  | .num neg m e => (if neg then -1 else 1) * (m : Int) * 2 ^ (e + n).toNat
  | _ => 0

def Fp.isFinite : Fp → Bool
  | .num _ _ _ => true
  | _ => false

/-- Element `k` of row `i` of tile `t`, read in tile format `f` (R408, R420): the bytes at its place, or the K8 weight of
the code that holds it. -/
def tileElem (c : CoreState) (f t i k : Nat) : Fp :=
  let cols := (c.shapes.getD t ⟨0, 0, 0⟩).cols
  let at1 := fun (j : Nat) => cellsGet c.tiles (t * 0x2000 + i * cols + j) 1
  let at2 := fun (j : Nat) => cellsGet c.tiles (t * 0x2000 + 2 * (i * cols + j)) 2
  match f with
  | 1 => FpFmt.bf16.decode (at2 k)
  | 2 => FpFmt.f16.decode (at2 k)
  | 3 => FpFmt.e4m3.decode (at1 k)
  | 4 => FpFmt.e5m2.decode (at1 k)
  | _ =>
    let code := at2 (k / 8)
    k8Fp (c.k8.getD (code / 256 % 256) 0) code (k % 8)

/-- An INT8 element. -/
def tileInt (c : CoreState) (t i k : Nat) : Int :=
  (BitVec.ofNat 8 (cellsGet c.tiles (t * 0x2000 + (i * (c.shapes.getD t ⟨0, 0, 0⟩).cols + k)) 1)).toInt

/-- The exact product, NaN where an operand is NaN or zero meets an infinity (R39, R421). -/
def product (x y : Fp) : Fp :=
  match x, y with
  | .num a m e, .num b n f => .num (a != b) (m * n) (e + f)
  | .nan, _ | _, .nan => .nan
  | x, y => if x.isZero || y.isZero then .nan else .inf (x.isNeg != y.isNeg)

/-- `b` is the sum of `base` and `terms` rounded once to binary32 with RNE, all of them finite, whole multiples of 2^-1000 as
every number that occurs is; a zero sum is negative only where everything added is (R39, R40, R421, R422). -/
def isRoundedSum (b : Nat) (base : Fp) (terms : List Fp) : Prop :=
  ∃ (neg : Bool) (m : Nat) (e : Int), -1000 ≤ e ∧ b = (FpFmt.f32.round noSat .rne (.num neg m e)).1 % 2 ^ 32 ∧
    (Fp.num neg m e).inUnits 1000 = base.inUnits 1000 + (terms.map fun t => t.inUnits 1000).sum ∧
    (m = 0 → neg = (base.isNeg && terms.all fun t => t.isNeg))

/-- `b` holds what `base` and `terms` add up to: the canonical NaN where one is NaN or infinities of both signs meet, the
infinity of one sign, else the exact sum rounded once (R421, R422). -/
def addsUp (b : Nat) (base : Fp) (terms : List Fp) : Prop :=
  let l := base :: terms
  if .nan ∈ l ∨ (.inf true ∈ l ∧ .inf false ∈ l) then b = 0x7FC00000
  else if .inf false ∈ l then b = 0x7F800000
  else if .inf true ∈ l then b = 0xFF800000
  else isRoundedSum b base terms

/-- The `k`s of k-group `g` (R421). -/
def kGroup (c : CoreState) (pair : Pair) (ta g : Nat) : List Nat :=
  (List.range (c.shapes.getD ta ⟨0, 0, 0⟩).cols).filter fun k => k / (pairInfo pair).2.2.1 = g

/-- The exact sum of an INT8 k-group and an element's bits before it. -/
def intSum (c : CoreState) (pair : Pair) (ta tb i j g old : Nat) : Int :=
  (BitVec.ofNat 32 old).toInt + ((kGroup c pair ta g).map fun k => tileInt c ta i k * tileInt c tb j k).sum

/-- One k-group of an element: its bits before and after (R421). Integers wrap. -/
def groupAdds (c : CoreState) (pair : Pair) (ta tb i j g old new : Nat) : Prop :=
  let info := pairInfo pair
  if info.2.2.2 = true then (new : Int) = intSum c pair ta tb i j g old % 2 ^ 32
  else addsUp new (FpFmt.f32.decode old) ((kGroup c pair ta g).map fun k =>
    product (tileElem c info.1 ta i k) (tileElem c info.2.1 tb j k))

/-- Entry `i` of a scale vector (R422). -/
def scaleEntry (c : CoreState) (f32 : Bool) (off i : Nat) : Fp :=
  if f32 then FpFmt.f32.decode (cellsGet c.spad (off + 4 * i) 4)
  else
    let b := cellsGet c.spad (off + i) 1
    if b = 255 then .nan else .num false 1 ((b : Int) - 127)

/-- The unit's head is its instruction `m` for the operation `op`. -/
def runs (s : State) (p : Pos) (m : MWork) (op : MOp) : Prop := unitHead s p = some m ∧ m.op = op

/-- The instruction at the head of the unit's queue: whether a NaN has halted it, and where (R428). -/
def headAt (s : State) (p : Pos) : Option (Bool × Nat) := (getCore s p).mq.head?.map fun m => (m.halted, m.pos)

/-- Bits of an element of an accumulator (R410). -/
def element (c : CoreState) (acc i j : Nat) : Nat := cellsGet c.acc (acc * 0x4000 + 256 * i + 4 * j) 4

/-- The byte pattern that ACCOUT writes for the bits of an element, under a rounding mode (R425). -/
def outPattern (of_ : OutFmt) (s43 s52 : Bool) (m : Rnd) (b : Nat) : Nat :=
  let x := (BitVec.ofNat 32 b).toInt
  match of_ with
  | .f32 | .i32 => b
  | .bf16 => (FpFmt.bf16.round ⟨s43, s52⟩ m (FpFmt.f32.decode b)).1
  | .f16 => (FpFmt.f16.round ⟨s43, s52⟩ m (FpFmt.f32.decode b)).1
  | .e4m3 => (FpFmt.e4m3.round ⟨s43, s52⟩ m (FpFmt.f32.decode b)).1
  | .e5m2 => (FpFmt.e5m2.round ⟨s43, s52⟩ m (FpFmt.f32.decode b)).1
  | .i8 => (BitVec.ofInt 8 (if x < -128 then -128 else if 127 < x then 127 else x)).toNat

/-- How ACCOUT rounds element `j` of row `i`: under SR by the discarded bits of the row's columns, those not converted
inactive (R53, R425). -/
def outMode (c : CoreState) (of_ : OutFmt) (rm : BitVec 3) (acc i cols j : Nat) : Rnd :=
  if rm = 5#3 then
    let x := fun (q : Nat) => Num.fp (FpFmt.f32.decode (element c acc i q))
    .sr (srDecide ((List.range 64).map fun q => if q < cols then srDiscard (outFmt of_) (x q) else (0, 0)) j)
  else Rnd.ofCode rm.toNat

/-- The byte of a scratchpad belongs to the COUNT of a gauge. -/
def gaugeByte (g : Gauge) (p : Pos) (asid x : Nat) : Prop :=
  match g with
  | .spad q a off => q = p ∧ a = asid ∧ off ≤ x ∧ x < off + 8
  | _ => False

end Sys2Proof.Machine
end

