-- ==== Sys2Proof/Certificates/Slice0/Obligations.lean ====
section
/-! DEFINITION. The statements for the provers. -/

open Sys2Proof Sys2Proof.Machine

/-! ### What the instructions do: each completes with the state its table gives -/

/-- R132-R142: the typed integer arithmetic, comparisons, selection and address instructions, and the bitwise, shift, count
and field instructions. -/
def Obligations.IntegerInstructionsComplete : Prop := CompletesAs fun s i => (intSpec s i).or (bitSpec s i)

/-- R99-R105, R123-R126: the generic and tag instructions, on the pairs that hardware completes (the model's own: log 48). -/
def Obligations.GenericInstructionsComplete : Prop := CompletesAs genSpec

/-- R144-R151: the floating-point instructions and special functions. -/
def Obligations.FloatingInstructionsComplete : Prop := CompletesAs floatSpec

/-- R36, R49, R59, R60, R152-R158: the conversions, packing, K8DEC, HASH and RNDU. -/
def Obligations.ConversionsComplete : Prop := CompletesAs convSpec

/-- R207-R216: the mask and lane instructions. -/
def Obligations.MaskAndLaneInstructionsComplete : Prop := CompletesAs crossSpec

/-- R205, R217-R221: the instructions that combine lanes. -/
def Obligations.CombiningInstructionsComplete : Prop := CompletesAs rowSpec

/-- R24-R30, R184: MFS of every special register; of TIME for every value of the wall clock (log 6). -/
def Obligations.SpecialRegisterReadsComplete : Prop := CompletesAs mfsSpec ∧ CarriesOut timeSpec

/-- R160-R165, R195, R212: branches, calls, returns, LOOPD, BRD, NOP and EXIT. -/
def Obligations.ControlFlowCompletes : Prop := CarriesOut flowSpec

/-- R117, R180-R185: TRAP, SYSC, BKPT, HRET, MTS, SNAP. -/
def Obligations.SystemInstructionsComplete : Prop := CarriesOut systemSpec

/-- R166, R169-R173, R175, R179: the loads (the model's own: log 20). -/
def Obligations.LoadsComplete : Prop := CarriesOut loadSpec

/-- R166, R171, R173-R177: the stores and ALLOC (the model's own: logs 14, 55). -/
def Obligations.StoresComplete : Prop := CarriesOut storeSpec

/-- R331-R337: the atomics, LDA, STL and PHASE (the model's own: logs 7, 20, 24). -/
def Obligations.AtomicsComplete : Prop := CarriesOut atomSpec

/-- R285, R291-R296, R338-R341: the hints, the scratchpad and window instructions (the model's own: logs 24, 25). -/
def Obligations.HintsAndWindowAccessesComplete : Prop := CarriesOut fun s i => (hintSpec s i).or (windowSpec s i)

/-- R342-R350: ENQ, DEQ and CHBIND (the model's own: logs 22, 34). -/
def Obligations.QueueInstructionsComplete : Prop := CarriesOut queueSpec

/-- R222-R253: groups, spawned work, JOIN, JADD, REGS and LAUNCH (the model's own: log 39). -/
def Obligations.WorkInstructionsComplete : Prop := CarriesOut workSpec

/-- R352-R376: the sparse-region instructions (the model's own: logs 36, 56). -/
def Obligations.SparseInstructionsComplete : Prop := CarriesOut sparseSpec

/-- R377-R379, R401-R404: the gauge instructions. -/
def Obligations.GaugeInstructionsComplete : Prop := CarriesOut gaugeSpec

/-- R380-R400: the copy instructions (the model's own: logs 38, 49). -/
def Obligations.CopyInstructionsComplete : Prop := CarriesOut copySpec

/-- R407-R427: the matrix instructions (the model's own: logs 35, 55). -/
def Obligations.MatrixInstructionsComplete : Prop := CarriesOut matrixSpec

/-- R450-R459, R477, R478, R489, R498-R503: the supervisor's instructions (the model's own: logs 18, 40, 41). -/
def Obligations.SupervisorInstructionsComplete : Prop := CarriesOut privSpec

/-- R233-R263: the steps of the task queue units and context slots (the model's own: logs 20, 43, 44, 45). -/
def Obligations.SchedulerStepsTakeEffect : Prop := TakesEffect schedSpec

/-- R362, R373, R381-R398, R413-R428: the steps of the engines (the model's own: logs 25, 36, 38). -/
def Obligations.EngineStepsTakeEffect : Prop := TakesEffect engineSpec

/-- R403, R428, R449, R461, R462, R473: the deliveries (the model's own: log 42). -/
def Obligations.DeliveriesTakeEffect : Prop := TakesEffect deliverySpec

/-- R345, R453, R479, R480, R487, R497, R499-R503, R508, R510-R528: the accesses of the host, and the package (the model's
own: logs 1, 28, 30, 31, 44, 46, 47, 51, 52). -/
def Obligations.HostAndPackageStepsTakeEffect : Prop := TakesEffect fun s i => (hubSpec s i).or (packageSpec s i)

/-- R77, R79, R81: a prefix that is accepted begins its sequence. -/
def Obligations.RepeatPrefixBeginsSequence : Prop :=
  ∀ (s t : State) (w : Warp) (n : BitVec 6) (ds as bs cs : BitVec 4) (x lit : Word),
    Issues s w → RepAccepted s t w (n.toNat + 1) [ds.toInt, as.toInt, bs.toInt, cs.toInt] x lit →
      exec (.rep n ds as bs cs) s = .next (repeating t w (n.toNat + 1))

/-- R85, R86: a word of an unassigned opcode raises the undefined-instruction fault for the lanes of EM. -/
def Obligations.UnassignedOpcodeFaults : Prop :=
  ∀ (s t : State) (w : Warp) (x : Word), Issues s w →
    atHandler s w (atOnce w .undefinedInstr 0 w.em (if x.getLsbD 0 then 16 else 8)) = some t →
      exec (.unassignedOpcode x) s = .next t

/-! ### What they leave alone -/

/-- A lane instruction with no channel changes one warp only, of it the destinations in the executing lanes, the latch
history, its place in the program and a NaN trap due (FPCTL.NT only with one); its flags only gather. One with a channel
operand changes of its warp's registers no others either, and of no other warp any; tiles, accumulators and the contexts'
registers stay. -/
def Obligations.LaneInstructionsKeepTheRest : Prop :=
  ∀ (s t : State) (i : Instr) (L : LaneSpec) (r : Ready), laneTable s i = some L → Accepts s L.ins t r → L.ok r →
    ∃ t' x, exec i s = .next t' ∧ findWarp t' r.w.uid = some x ∧
      keepsRegs L.ins.dsts (if r.vec then L.on r else List.range 32) r.w x ∧ keepsSpecial r.w x ∧
      x.fpst = r.w.fpst ||| allFlags (L.out r) ∧ (L.traps = false → x.nanDue = r.w.nanDue ∧ x.nt = r.w.nt) ∧
      (∀ u w, u ≠ r.w.uid → findWarp s u = some w → ∃ y, findWarp t' u = some y ∧ keepsRegs [] [] w y ∧ keepsSpecial w y) ∧
      (∀ p a, (coreCtx t' p a).tiles = (coreCtx s p a).tiles ∧ (coreCtx t' p a).acc = (coreCtx s p a).acc) ∧
      (∀ a, ctxRegsKept (getCtx s a) (getCtx t' a)) ∧
      (noChannel L.ins = true → onlyWarp r.w.uid s t' ∧ keepsRest r.w x)

/-- A storing instruction leaves every byte of memory alone but those its lanes store to, and the cards of their pages. -/
def Obligations.StoresKeepOtherBytes : Prop :=
  ∀ (s t t' : State) (i : Instr) (e : Effect) (r : Ready), storing s i = some e → Accepts s e.ins t r →
    e.post t r = some t' → Inv t → exec i s = .next t' ∧
      ∀ a, ¬ storedByte t r i a → ¬ cardByte t r i a → memByte t'.mem a = memByte t.mem a

/-- Branches, calls, loads, hints and the accesses to scratchpad and windows leave all of memory alone, unless the result
completes a line that goes to a queue (R348). -/
def Obligations.StorelessInstructionsKeepMemory : Prop :=
  ∀ (s t t' : State) (i : Instr) (e : Effect) (r : Ready), storeless s i = some e → Accepts s e.ins t r →
    fillsLine t r e.ins = false → e.post t r = some t' → exec i s = .next t' ∧
      ∀ a, memByte t'.mem a = memByte t.mem a ∧ memTag t'.mem a = memTag t.mem a

/-! ### Checks and faults -/

/-- R128: lanes whose operands the instruction does not take raise a type fault together, the others complete. -/
def Obligations.WrongTagsRaiseTypeFault : Prop :=
  ∀ (s t : State) (i : Instr) (L : LaneSpec) (r : Ready),
    ((intSpec s i).or ((bitSpec s i).or (floatSpec s i))) = some L → mayDivide i = false → Accepts s L.ins t r →
      (∃ k ∈ L.on r, L.res r k = none) → exec i s = .next (someFault t r L .typeFault 0)

/-- R134: lanes whose divisor is zero raise the arithmetic fault, the others complete. -/
def Obligations.ZeroDivisorRaisesArithmeticFault : Prop :=
  ∀ (s t : State) (i : Instr) (L : LaneSpec) (r : Ready), intSpec s i = some L → mayDivide i = true →
    Accepts s L.ins t r → (∀ k ∈ execLanes r, intLike (r.val 0 k) = true ∧ intLike (r.val 1 k) = true) →
      (∃ k ∈ execLanes r, (r.val 1 k).pl = 0#64) → exec i s = .next (someFault t r L .arithmetic 2)

/-- R85, R86: a supervisor's instruction at CPL 0 raises the instruction fault for the lanes of EM, guarded off or not. -/
def Obligations.PrivilegedInstructionsTrapAtUserLevel : Prop :=
  ∀ (s : State) (w : Warp) (i : Instr) (e : Effect), privSpec s i = some e → Issues s w → AtWord s w e.ins → w.sup = false →
    exec i s = .next (takeFault s w.uid (atOnce w .instruction 0 w.em e.ins.size))

/-- R76: an instruction whose effective lane set is empty does nothing but push its latch entry and go on. -/
def Obligations.GuardedOffInstructionsPass : Prop :=
  ∀ (s : State) (w : Warp) (i : Instr) (x : Ins), tableIns s i = some x → AtWord s w x → w.replay = none →
    w.em &&& (maskVal w x.g.m ^^^ (if x.g.neg then 0xFFFFFFFF#32 else 0#32)) = 0#32 → (x.priv = true → w.sup = true) →
      exec i s = .next (passedOver s w x)

/-- R17, R85: naming a register outside the allotment, a tile register as a destination, or an invalid latch raises the
operand fault for the effective lane set before any effect. -/
def Obligations.MissingOperandsFault : Prop :=
  ∀ (s : State) (w : Warp) (i : Instr) (x : Ins), tableIns s i = some x → AtWord s w x → namesNothing w x →
    effLanes w x.g ≠ 0#32 → (x.priv = true → w.sup = true) →
      exec i s = .next (takeFault s w.uid { atOnce w .operand 0 (effLanes w x.g) x.size with whole := x.whole })

/-- R24, R29, R49, R54, R55, R109, R119, R121, R174, R176, R185, R387, R446, R474: MTS. A register of lane scope takes the
values of the active lanes; any other holds what its field table makes of the payload, and every other register stays; a
reserved value, a read-only register, a supervisor's register at CPL 0, and EM inside a lane handler raise the instruction
fault, which leaves the register. -/
def Obligations.SpecialRegisterWritesTakeEffect : Prop :=
  (∀ (s t : State) (g : Guard) (a : Src) (n : BitVec 8) (r : Ready) (w : Warp), n.toNat < 40 →
    n.toNat ∉ readOnlyRegs → n.toNat ∉ [16, 17] →
    Accepts s { insNo g [a] with shape := some false, pre := mtsPre n.toNat } t r → findWarp t r.w.uid = some w →
    w = { r.w with chans := w.chans } → (getCtx t w.asid).bpa.length = 8 → ∀ k,
      match afterMts w n.toNat (r.val 0 0).n (srRead t w n.toNat k) with
      | none => exec (.mts g a n) s = .next (takeFault t r.w.uid
          { atOnce r.w .instruction 0 r.eff (srcsSize [a]) with popped := r.popped })
      | some v => ∃ t' w', exec (.mts g a n) s = .next t' ∧ findWarp t' r.w.uid = some w' ∧
          srRead t' w' n.toNat k = v ∧ otherRegsKept t t' w w' n.toNat) ∧
  (∀ (s t : State) (g : Guard) (a : Src) (n : BitVec 8) (r : Ready) (w : Warp), n.toNat ∈ [16, 17] →
    Accepts s { insNo g [a] with shape := some true, pre := mtsPre n.toNat } t r → findWarp t r.w.uid = some w →
    w = { r.w with chans := w.chans } →
      ∃ t' w', exec (.mts g a n) s = .next t' ∧ findWarp t' r.w.uid = some w' ∧ otherRegsKept t t' w w' n.toNat ∧
        ∀ k, k < 32 → srRead t' w' n.toNat k = if r.eff.getLsbD k then r.val 0 k else srRead t w n.toNat k) ∧
  ∀ (s : State) (w : Warp) (g : Guard) (a : Src) (n : BitVec 8),
    AtWord s w { insNo g [a] with shape := some (srLane n.toNat), pre := mtsPre n.toNat } → effLanes w g ≠ 0#32 →
    insOk w { insNo g [a] with shape := some (srLane n.toNat) } (srLane n.toNat) = true → srcChanOk w a = true →
    ((n.toNat ∈ readOnlyRegs ∨ w.sup = false ∧ n.toNat ∈ supervisorRegs) → exec (.mts g a n) s =
      .next (takeFault s w.uid (atOnce w .instruction 0 (effLanes w g) (if a.isLit then 16 else 8)))) ∧
    (n.toNat = 0 → w.hnd = true → exec (.mts g a n) s =
      .next (takeFault s w.uid (atOnce w .instruction 28 (effLanes w g) (if a.isLit then 16 else 8))))

/-- R166, R443: a load whose lanes all compute misaligned addresses raises the protection fault, detail misaligned, with
each lane's address in FVA (the model's own: log 9). -/
def Obligations.MisalignedLoadsFault : Prop :=
  ∀ (s t : State) (g : Guard) (ln nh : Bool) (d : Dst) (m : MemOp) (r : Ready) (va : Nat → Nat),
    let i : Ins := insOf g d m.srcs
    Accepts s { i with bad := fun w => ln && !insVec w i } t r →
    (∀ k ∈ execLanes r, eaOf r 0 m 8 ln k = some (va k) ∧ va k < 2 ^ 56 ∧ va k % 8 ≠ 0) →
      exec (.ld g ln nh d m) s = .next (takeFault t r.w.uid
        { atOnce r.w .protection 1 (maskWhere fun k => (execLanes r).contains k) i.size with
          fva := lanes.map fun k => if (execLanes r).contains k then wordN (va k) else 0#64
          lanes := r.eff, popped := r.popped, part := if noRegister r i then replayPart r.w else [] })

/-- R411, R442: of the faults of several lanes, that of the lowest class code is reported, and of those the lowest lane's; FLM
holds the lanes of its class and detail, the whole effective set for a scalar instruction's ownership fault, and RLM every
other faulting lane. -/
def Obligations.LowestClassIsReported : Prop :=
  ∀ (r : Ready) (size : Nat) (n : Fin) (fs : List (Nat × LFault)) (rest : Mask) (f : LFault),
    worstFault fs = some f →
      (∃ l k l', fs = l ++ (k, f) :: l' ∧ (∀ p ∈ l, f.cls.code < p.2.cls.code) ∧ ∀ p ∈ l', f.cls.code ≤ p.2.cls.code) ∧
      (r.vec = false → f.cls = .ownership → (lanesReport r size n fs rest f).flm = r.eff) ∧
      ∀ k, k < 32 →
        ((r.vec = true ∨ f.cls ≠ .ownership) → ((lanesReport r size n fs rest f).flm.getLsbD k = true ↔
          ∃ p ∈ fs, p.1 = k ∧ p.2.cls = f.cls ∧ p.2.det = f.det)) ∧
        ((lanesReport r size n fs rest f).rlm.getLsbD k = true ↔
          (∃ p ∈ fs, p.1 = k ∧ ¬ (p.2.cls = f.cls ∧ p.2.det = f.det)) ∨ rest.getLsbD k = true)

/-- R444: the fields of FCAUSE. -/
def Obligations.FcauseHoldsItsFields : Prop :=
  ∀ (p : Report), p.async < 4 → p.det < 256 → p.info < 65536 →
    (fcauseOf p).extractLsb' 62 2 = BitVec.ofNat 2 p.async ∧ (fcauseOf p).extractLsb' 57 5 = BitVec.ofNat 5 p.cls.code ∧
      (fcauseOf p).extractLsb' 49 8 = BitVec.ofNat 8 p.det ∧ ((fcauseOf p).getLsbD 48 = true ↔ p.kind = .replay) ∧
      (fcauseOf p).extractLsb' 32 16 = BitVec.ofNat 16 p.info ∧ (fcauseOf p).extractLsb' 0 32 = p.rlm

/-- R447: the state at the entry of the supervisor handler; a table entry that cannot be used escalates the fault. -/
def Obligations.FaultEntersSupervisorHandler : Prop :=
  ∀ (s : State) (u : Nat) (w : Warp) (p : Report), findWarp s u = some w → w.sup = false →
    unblotted s p.cls = true → ¬ (p.cls = .instruction ∧ p.det = 26 ∧ (getCtx s w.asid).dbg = true) →
      (∀ pc, handlerOf s w p.cls = some pc → ∃ x, findWarp (takeFault s u p) u = some x ∧
        x.pc = pc ∧ x.em = p.flm ∧ x.sup = true ∧ x.hnd = w.hnd ∧ x.flm = p.flm ∧ x.fva = p.fva ∧
        x.fcause = fcauseOf p ∧ (∀ k, k < 32 → rowAt x.ha k = ⟨.code, p.repPc.setWidth 64⟩) ∧
        (∀ k, k < 32 → rowAt x.hb k = if p.async = 1 then ⟨.int, wordN p.ticket⟩ else ⟨.nil, 0#64⟩) ∧
        x.latches = [] ∧ x.repc = 0 ∧ x.v = w.v ∧ x.sreg = w.sreg ∧ x.m = w.m ∧ x.stack = w.stack ∧ x.spill = w.spill ∧
        x.fpst = w.fpst ∧ x.rm = w.rm ∧ x.nt = w.nt ∧ x.s43 = w.s43 ∧ x.s52 = w.s52 ∧ x.gsel = w.gsel ∧ x.lvl = w.lvl ∧
        x.ceil = w.ceil ∧ x.ncur = w.ncur ∧ x.nlim = w.nlim ∧ x.rwEn = w.rwEn ∧ x.rwCnt = w.rwCnt ∧ x.rwFst = w.rwFst ∧
        x.hlt = w.hlt ∧ x.done = w.done ∧ x.opn = w.opn ∧ x.nrec = w.nrec ∧
        x.hframes = w.hframes ∧ x.hopRsn = w.hopRsn ∧ x.hopCls = w.hopCls ∧ x.hpc = w.hpc) ∧
      ((getCtx s w.asid).svtb = 0#64 ∨
        (∃ t v, loadVal s w.who ((getCtx s w.asid).svtb.toNat + 8 * p.cls.code) = .ok t v ∧ v.tag ≠ .code) ∨
        (∃ t f, loadVal s w.who ((getCtx s w.asid).svtb.toNat + 8 * p.cls.code) = .bad t f) →
        s.hub.hostLines = [] → s.hub.linkDown = [] → (∀ d ∈ s.dies, ∀ j ∈ d.joins, u ∉ j.warps) →
        ∃ x, findWarp (takeFault s u p) u = some x ∧ x.status = .hostWait ∧ x.hwKind = .double)

/-- R448: a fault at CPL.SUP = 1, but a race that traps where a debugger is attached (R328), is a double fault: the warp waits for the host and keeps its frame and registers. -/
def Obligations.FaultInSupervisorIsDouble : Prop :=
  ∀ (s : State) (u : Nat) (w : Warp) (p : Report), findWarp s u = some w → w.sup = true → unblotted s p.cls = true →
    ¬ (p.cls = .instruction ∧ p.det = 26 ∧ (getCtx s w.asid).dbg = true) → (∀ d ∈ s.dies, ∀ j ∈ d.joins, u ∉ j.warps) →
    ∃ x, findWarp (takeFault s u p) u = some x ∧ x.status = .hostWait ∧ x.hwKind = .double ∧ x.sframe = w.sframe ∧
      x.v = w.v ∧ x.sreg = w.sreg ∧ x.m = w.m ∧ x.pc = w.pc ∧ x.fcause = w.fcause

/-- R447, R448, R450: what SRET puts back is what the entry saved, and the lanes it replays are those of FLM and RLM
that it keeps. -/
def Obligations.ReturnRestoresWhatEntrySaved : Prop :=
  ∀ (w : Warp) (p : Report) (pc : Addr) (keep : Mask), w.sup = false → w.sreg.length = 64 →
    let f := frameOf_ w p
    let y := supReturn (supEntry w p pc) f keep
    y.latches = w.latches ∧ y.sreg = w.sreg ∧ y.ha = w.ha ∧ y.hb = w.hb ∧ y.repc = w.repc ∧ y.em = w.em ∧
      y.hnd = w.hnd ∧ y.sup = false ∧ y.sframe = none ∧ y.v = w.v ∧ y.m = w.m ∧ y.stack = w.stack ∧
      (p.kind = .after → y.pc = p.resPc ∧ y.replay = none) ∧
      (p.kind = .replay → y.pc = p.repPc ∧ ∃ q, y.replay = some q ∧ q.popped = p.popped ∧ q.part = p.part ∧ q.skipTo = p.resPc ∧
        q.lanes = if p.whole then (if (p.flm ||| p.rlm) &&& ~~~keep = 0#32 then p.lanes else 0#32)
          else (p.flm ||| p.rlm) &&& keep)

/-- R449: the causes due at a boundary are delivered in this order, once no sparse operation of the warp is in flight (the
model's own: log 56). -/
def Obligations.DeliveriesComeInOrder : Prop :=
  ∀ (s : State) (w : Warp), atBoundary w = true → w.sparse = [] →
    (w.nanDue.isSome = true → (issueTurn s w).2 = some (.nanTrapDelivery w.uid)) ∧
    (w.nanDue = none → w.hnd = false → w.mtraps ≠ [] → (issueTurn s w).2 = some (.matrixNanTrapDelivery w.uid)) ∧
    (w.nanDue = none → w.hnd = false → w.mtraps = [] → w.copyDue ≠ [] →
      (issueTurn s w).2 = some (.copyFaultDelivery w.uid)) ∧
    (∀ d a l, w.nanDue = none → w.mtraps = [] → w.copyDue = [] → w.mcDue = (d, a) :: l →
      (issueTurn s w).2 = some (.lostWriteMachineCheck w.uid a)) ∧
    (w.nanDue = none → w.mtraps = [] → w.copyDue = [] → w.mcDue = [] → w.wdDue = true →
      (issueTurn s w).2 = some (.watchdogExpiry w.uid)) ∧
    (w.nanDue = none → w.mtraps = [] → w.copyDue = [] → w.mcDue = [] → w.wdDue = false → w.hnd = false →
      (dueAlarm s w).isSome = true → (issueTurn s w).2 = some (.alarmDelivery w.uid))

/-! ### Diversion to lane handlers -/

/-- R113-R115: the state in which the first group's handler starts, with room on chip for the entries. -/
def Obligations.DivertedLanesEnterHandler : Prop :=
  ∀ (s : State) (u cls : Nat) (w : Warp) (pc : Addr) (rsn : Bool) (m : Mask) (rest : List (Addr × Bool × Mask))
    (dv : Diverted) (resume : Addr) (repc : Nat), findWarp s u = some w → w.stack.length + rest.length + 1 ≤ 32 →
    ∃ x, findWarp (divertTo s u cls ((pc, rsn, m) :: rest) dv resume repc) u = some x ∧
      x.pc = pc ∧ x.em = m ∧ x.hopCls = cls ∧ x.hopRsn = rsn ∧ x.hpc = w.pc ∧ x.hnd = true ∧ x.latches = [] ∧ x.repc = 0 ∧
      (∀ k, k < 32 → m.getLsbD k = true → rowAt x.ha k = rowAt dv.oa k ∧ rowAt x.hb k = rowAt dv.ob k) ∧
      x.stack = rest.map (fun g => ⟨.pending, g.2.1, g.1, w.hframes.length + 1, 0, g.2.2⟩) ++
        ⟨.handler, false, resume, w.hframes.length + 1, repc, w.em⟩ :: w.stack ∧
      x.hframes = { latches := w.latches, ha := w.ha, hb := w.hb, hopRsn := w.hopRsn, hopCls := w.hopCls, hpc := w.hpc,
                    repc := repc, hnd := w.hnd, alarm := false, div := some dv } :: w.hframes ∧
      x.v = w.v ∧ x.sreg = w.sreg ∧ x.m = w.m ∧ x.fpst = w.fpst ∧ x.rm = w.rm ∧ x.nt = w.nt ∧ x.s43 = w.s43 ∧ x.s52 = w.s52

/-- R106, R110, R111, R113, R114: an ADD of operands that are no numbers diverts every lane to the handler in the PDT
entry of its tags. -/
def Obligations.AddDivertsToItsHandler : Prop :=
  ∀ (s t : State) (g : Guard) (d : Dst) (a b : Src) (r : Ready) (x y : Tag) (p : Tr) (h : Word),
    Accepts s (insOf g d [a, b]) t r → noChannel (insOf g d [a, b]) = true → r.w.sup = false → r.w.stack.length < 32 →
    depthOk r.w 1 = true → r.w.hframes.length < 32 → (∀ k ∈ execLanes r, (r.val 0 k).tag = x ∧ (r.val 1 k).tag = y) →
    x ∉ [Tag.int, .f32, .f64, .ts] → (getCtx t r.w.asid).pdtb ≠ 0#64 →
    reach t r.w.who .load ((getCtx t r.w.asid).pdtb.toNat + 8 * (512 + x.toNat * 16 + y.toNat)) 8 = some p →
    valueAt t p = some ⟨.code, h⟩ →
      ∃ t' w', exec (.add g d a b) s = .next t' ∧ findWarp t' r.w.uid = some w' ∧ w'.pc = h.setWidth 56 ∧
        w'.em = (if r.vec then r.eff else laneMask (lowLane r.eff)) ∧ w'.hopCls = 1 ∧ w'.hopRsn = false ∧
        w'.hpc = r.w.pc ∧ w'.hnd = true ∧ w'.latches = [] ∧ w'.repc = 0 ∧
        (∀ k ∈ execLanes r, rowAt w'.ha k = r.val 0 k ∧ rowAt w'.hb k = r.val 1 k) ∧
        w'.v = r.w.v ∧ w'.sreg = r.w.sreg ∧ w'.m = r.w.m ∧ w'.fpst = r.w.fpst ∧ t'.mem = t.mem

/-! ### Control flow -/

/-- R163: LOOPD. -/
def Obligations.LoopdCountsAndBranches : Prop :=
  ∀ (s : State) (w : Warp) (g : Guard) (c : BitVec 6) (off : BitVec 33),
    AtWord s w { scalarNo g [] with reads := [.s c] } → w.repc = 0 →
    let v := sregVal w c.toNat
    (effLanes w g = 0#32 → ∃ t x, exec (.loopd g c off) s = .next t ∧ findWarp t w.uid = some x ∧
      x.pc = w.pc + 8#56 ∧ x.sreg = w.sreg) ∧
    (effLanes w g ≠ 0#32 → v.tag ≠ .int → exec (.loopd g c off) s =
      .next (takeFault s w.uid { atOnce w .typeFault 0 (effLanes w g) 8 with popped := [] })) ∧
    (effLanes w g ≠ 0#32 → v.tag = .int → ∃ t x, exec (.loopd g c off) s = .next t ∧ findWarp t w.uid = some x ∧
      (v.pl.toInt ≤ 0 → x.sreg = w.sreg ∧ x.pc = w.pc + 8#56) ∧
      (0 < v.pl.toInt → x.sreg = setAt w.sreg c.toNat ⟨.int, v.pl - 1⟩ ∧
        x.pc = if v.pl.toInt = 1 then w.pc + 8#56 else w.pc + off.signExtend 56 * 8#56))

/-- R195, R212: BRD sorts the lanes of EM; the taken path runs first. -/
def Obligations.DivergentBranchSortsLanes : Prop :=
  ∀ (s t : State) (g : Guard) (n : Bool) (c : Src) (off join : BitVec 33) (r : Ready),
    Accepts s { scalarNo g [c] with size := 16, vecOk := true } t r → r.w.repc = 0 → depthOk r.w 2 = true →
    (∀ k ∈ maskLanes r.eff, (r.val 0 k).tag = .bool) →
      let taken := maskWhere fun k => r.eff.getLsbD k && decide (((r.val 0 k).pl = 1#64) ≠ (n = true))
      let deferred := r.w.em &&& ~~~taken
      ∃ t' x, exec (.brd g n c off join) s = .next t' ∧ findWarp t' r.w.uid = some x ∧
        (taken = 0#32 → x.pc = r.w.pc + 16#56 ∧ x.em = r.w.em ∧ entries x = entries r.w) ∧
        (taken ≠ 0#32 → deferred = 0#32 → x.pc = there r off ∧ x.em = r.w.em ∧ entries x = entries r.w) ∧
        (taken ≠ 0#32 → deferred ≠ 0#32 → x.pc = there r off ∧ x.em = taken ∧
          entries x = ⟨.path, false, r.w.pc + 16#56, r.w.hframes.length, 0, deferred⟩ ::
            ⟨.join, false, there r join, r.w.hframes.length, 0, r.w.em⟩ :: entries r.w)

/-! ### Registers -/

/-- R12, R17: m0 reads all ones and discards writes, zr discards them, a tile register reads as its handle: its number and the
executing core's position. -/
def Obligations.SpecialRegistersAreHardWired : Prop :=
  (∀ w : Warp, readReg w (.m 0#3) = .sca ⟨.raw, 0xFFFFFFFF#64⟩) ∧
  (∀ (w : Warp) (x : Mask) (o : Opd) (n : BitVec 3), maskVal (writeDst w (.reg (.m 0#3)) x o) n = maskVal w n) ∧
  (∀ (w : Warp) (n : BitVec 3) (x : Mask) (o : Opd), n ≠ 0#3 → w.m.length = 8 →
    maskVal (writeDst w (.reg (.m n)) x o) n = (o.lane 0).pl.setWidth 32) ∧
  (∀ w : Warp, readReg w .zr = .sca ⟨.int, 0#64⟩) ∧ (∀ (w : Warp) (x : Mask) (o : Opd), writeDst w (.reg .zr) x o = w) ∧
  ∀ (w : Warp) (n : BitVec 5), ∃ v, readReg w (.t n) = .sca v ∧ v.tag = .tile ∧
    (w.pos.die < 16 → w.pos.col < 32 → w.pos.row < 16 → fieldIs v 0 8 n.toNat ∧ fieldIs v 8 24 0 ∧
      fieldIs v 32 4 w.pos.die ∧ fieldIs v 36 5 w.pos.col ∧ fieldIs v 41 4 w.pos.row ∧ fieldIs v 45 19 0)

/-- R24, R26-R30, R54, R387, R412: what MFS reads: the tag of R24's table and the register's value, with the fields of WIX, CPL, GSEL,
PRIO, HOP, FPCTL, BATCH and REGWIN in place. -/
def Obligations.SpecialRegistersReadTheirFields : Prop :=
  ∀ (s : State) (w : Warp) (k : Nat),
    (w.wnum < 2 ^ 32 → w.slot < 64 → w.pos.die < 16 → w.pos.col < 32 → w.pos.row < 16 →
      fieldIs (srRead s w 2 k) 0 32 w.wnum ∧ fieldIs (srRead s w 2 k) 32 6 w.slot ∧
      fieldIs (srRead s w 2 k) 38 4 w.pos.die ∧ fieldIs (srRead s w 2 k) 42 5 w.pos.col ∧
      fieldIs (srRead s w 2 k) 47 4 w.pos.row ∧ fieldIs (srRead s w 2 k) 51 13 0) ∧
    (fieldIs (srRead s w 4 k) 0 1 (if w.sup then 1 else 0) ∧ fieldIs (srRead s w 4 k) 1 1 (if w.hnd then 1 else 0) ∧
      fieldIs (srRead s w 4 k) 2 62 0) ∧
    (∀ j, j < 4 → w.gsel.length = 4 → (∀ x, some x ∈ w.gsel → x < 256) →
      (∀ x, w.gsel[j]? = some (some x) → fieldIs (srRead s w 5 k) (9 * j) 8 x ∧ fieldIs (srRead s w 5 k) (9 * j + 8) 1 1) ∧
      (w.gsel[j]? = some none → fieldIs (srRead s w 5 k) (9 * j + 8) 1 0)) ∧
    (w.gsel.length = 4 → (∀ x, some x ∈ w.gsel → x < 256) → fieldIs (srRead s w 5 k) 36 28 0) ∧
    (w.lvl < 64 → w.ceil < 64 → fieldIs (srRead s w 7 k) 0 6 w.lvl ∧ fieldIs (srRead s w 7 k) 8 6 w.ceil ∧
      fieldIs (srRead s w 7 k) 6 2 0 ∧ fieldIs (srRead s w 7 k) 14 50 0) ∧
    (w.hopCls < 32 → fieldIs (srRead s w 18 k) 0 5 w.hopCls ∧ fieldIs (srRead s w 18 k) 5 1 (if w.hopRsn then 1 else 0) ∧
      fieldIs (srRead s w 18 k) 6 58 0) ∧
    (fieldIs (srRead s w 14 k) 0 3 w.rm.toNat ∧ fieldIs (srRead s w 14 k) 3 1 (if w.s43 then 1 else 0) ∧
      fieldIs (srRead s w 14 k) 4 1 (if w.s52 then 1 else 0) ∧ fieldIs (srRead s w 14 k) 5 1 (if w.nt then 1 else 0) ∧
      fieldIs (srRead s w 14 k) 6 58 0) ∧
    (fieldIs (srRead s w 24 k) 63 1 (if w.hlt then 1 else 0) ∧ fieldIs (srRead s w 24 k) 32 31 w.done.toNat ∧
      fieldIs (srRead s w 24 k) 31 1 0 ∧ fieldIs (srRead s w 24 k) 0 31 w.opn.toNat) ∧
    (w.rwCnt < 512 → w.rwFst < 256 → fieldIs (srRead s w 26 k) 18 46 0 ∧ fieldIs (srRead s w 26 k) 17 1 (if w.rwEn then 1 else 0) ∧
      fieldIs (srRead s w 26 k) 8 9 w.rwCnt ∧ fieldIs (srRead s w 26 k) 0 8 w.rwFst) ∧
    ([2, 3, 4, 6, 7, 8, 9, 10, 11, 12, 13, 18, 21, 23, 24, 25, 27, 28, 31].all fun n =>
      (srRead s w n k).tag == .int) = true ∧
    ([0, 5, 14, 15, 20, 22, 26, 30].all fun n => (srRead s w n k).tag == .raw) = true ∧
    ([1, 19, 32, 33, 34, 35, 36, 37, 38, 39].all fun n => (srRead s w n k).tag == .code) = true ∧
    (srRead s w 0 k).pl = w.em.setWidth 64 ∧ (srRead s w 1 k).pl = w.pc.setWidth 64 ∧
    (srRead s w 3 k).pl = wordN k ∧ (srRead s w 6 k).pl = wordN w.asid ∧
    (srRead s w 8 k).pl = wordN w.ncur ∧ (srRead s w 9 k).pl = wordN w.nlim ∧
    (srRead s w 10 k).pl = (getCtx s w.asid).pdtb ∧ (srRead s w 11 k).pl = (getCtx s w.asid).lvtb ∧
    (srRead s w 12 k).pl = (getCtx s w.asid).svtb ∧ (srRead s w 13 k).pl = (getCtx s w.asid).cardb ∧
    (srRead s w 15 k).pl = w.fpst.setWidth 64 ∧ srRead s w 16 k = rowAt w.ha k ∧ srRead s w 17 k = rowAt w.hb k ∧
    (srRead s w 19 k).pl = w.hpc.setWidth 64 ∧ (srRead s w 20 k).pl = w.flm.setWidth 64 ∧
    (srRead s w 21 k).pl = w.fva.getD k 0#64 ∧ (srRead s w 22 k).pl = w.fcause ∧ (srRead s w 23 k).pl = wordN w.repc ∧
    (srRead s w 25 k).pl = wordN (getCore s w.pos).bconf ∧ (srRead s w 27 k).pl = wordN (getCtx s w.asid).spft ∧
    (srRead s w 28 k).pl = wordN s.cycle ∧ (srRead s w 30 k).pl = w.nrec ∧
    (srRead s w 31 k).pl = wordN (getCluster s (w.pos.die, w.pos.col / 2, w.pos.row / 2)).pfdrop ∧
    ∀ j, j < 8 → (srRead s w (32 + j) k).pl = (getCtx s w.asid).bpa.getD j 0#64

/-! ### Sparse regions -/

/-- R356-R359, R366: a value stored at a key, in a leaf that holds the key or has room for it, is what a load of the key
gives next, and a load of any other key gives what it gave before. -/
def Obligations.StoredEntryIsLoaded : Prop :=
  ∀ (s : State) (o : SpOp) (q : Region) (t : Stripe) (d rec : Nat) (leaf : Stop) (up : List Stop) (v : Val),
    let who := engWho o.asid o.eng o.warp
    Inv s → Finds s o q t d rec leaf up → StoreApart d rec leaf up → o.stripe < 8 → o.key < 2 ^ 64 → t.ent + 1 < 2 ^ 64 →
    engWritable s who (nodeVa t (leaf.link - 1)) 32 = true → engWritable s who (stripeVa o.desc o.stripe) 8 = true →
    deletes v = false → (o.key ∈ leaf.node.keys ∨ leaf.node.keys.length < 15) →
      ∃ s', spStep s { o with kind := .sst v } = .ok s' ⟨[], none⟩ ∧
        spStep s' { o with kind := .sld } = .ok s' ⟨[v], none⟩ ∧
        ∀ (key : Nat) (leaf' : Stop) (up' : List Stop), key ≠ o.key →
          Finds s { o with key := key } q t d rec leaf' up' →
          (∀ x ∈ leaf' :: up', (x.link = leaf.link ∨ clear_ leaf.at_ 256 x.at_ 256) ∧ clear_ rec 64 x.at_ 256) →
            spStep s { o with key := key, kind := .sld } = .ok s ⟨[entryIn q leaf'.node key], none⟩ ∧
            spStep s' { o with key := key, kind := .sld } = .ok s' ⟨[entryIn q leaf'.node key], none⟩

/-- R358, R368: SNEXT answers the least key of the stripe from its key on (after it, without .ge) and its value, found in the
key's leaf or the leaf after it; with none left, the search goes on in the next stripe, and past the last one the answer is
NIL. -/
def Obligations.NextEntryIsLeast : Prop :=
  ∀ (s : State) (o : SpOp) (ge : Bool) (q : Region) (t : Stripe) (d rec : Nat) (leaf : Stop) (up : List Stop),
    let who := engWho o.asid o.eng o.warp
    let lo := if ge then o.key else o.key + 1
    let n := leaf.node
    Finds s { o with key := lo } q t d rec leaf up →
      (∀ k v, (k, v) ∈ n.keys.zip n.vals → lo ≤ k → (∀ k' ∈ n.keys, lo ≤ k' → k ≤ k') →
        spStep s { o with kind := .snext ge } = .ok s ⟨[⟨.int, wordN k⟩, v], none⟩) ∧
      ((∀ k ∈ n.keys, k < lo) → n.next ≠ 0 → ∀ a l k v, engRead s who (nodeVa t (n.next - 1)) 32 = some (a, l) →
        (nodeOf l).keys.head? = some k → (nodeOf l).vals.head? = some v → lo ≤ k →
          spStep s { o with kind := .snext ge } = .ok s ⟨[⟨.int, wordN k⟩, v], none⟩) ∧
      ((∀ k ∈ n.keys, k < lo) → n.next = 0 →
        (q.nstr ≤ o.stripe → spStep s { o with kind := .snext ge } = .ok s ⟨[vNil, vNil], none⟩) ∧
        ∀ a l, o.stripe < q.nstr → engRead s who (stripeVa o.desc (o.stripe + 1)) 8 = some (a, l) →
          spStep s { o with kind := .snext ge } = .ok s ⟨[], some { o with
            stripe := o.stripe + 1, key := q.ks.getD (o.stripe + 1) 0
            eng := o.eng / 32 * 32 + (stripeOf (l.map fun v => v.n)).eng, kind := .snext true }⟩)

/-! ### Matrix arithmetic -/

/-- R420, R421, R428: an MMA takes every element of its block, k-group by k-group, from its bits to the sum with the products of
the tiles' elements, rounded once per group (NaNs and infinities by their rule; integers modulo 2^32); with the NaN trap armed
it halts after the group that first writes a NaN; no other element changes. An INT8 element that leaves its range sets FPST.AW
when the batch is over. -/
def Obligations.MmaElementsAreRoundedSums : Prop :=
  ∀ (s : State) (p : Pos) (m : MWork) (pair : Pair) (set : Bool) (acc ta tb : Nat),
    runs s p m (.mma pair set acc ta tb) → acc < 8 →
    let info := pairInfo pair
    let c := coreCtx s p m.asid
    let a := c.shapes.getD ta ⟨0, 0, 0⟩
    let b := c.shapes.getD tb ⟨0, 0, 0⟩
    let groups := (a.cols + info.2.2.1 - 1) / info.2.2.1
    a.fmt = info.1 → b.fmt = info.2.1 → a.rows ≤ 64 → b.rows ≤ 64 → 0 < a.cols → m.pos ≤ groups → spWf 0#8 c.acc = true →
      ∃ (t : State) (n : Nat) (e : Nat → Nat → Nat → Nat), exec (.mmaExecution p) s = .next t ∧ m.pos ≤ n ∧ n ≤ groups ∧
        let d := coreCtx t p m.asid
        let nan := fun g => m.nt = true ∧ info.2.2.2 = false ∧ ∃ i j, i < a.rows ∧ j < b.rows ∧ e i j g = 0x7FC00000
        (∀ i j, i < a.rows → j < b.rows → e i j m.pos = (if set = true ∧ m.pos = 0 then 0 else element c acc i j) ∧
          element d acc i j = e i j n ∧
          ∀ g, m.pos ≤ g → g < n → groupAdds c pair ta tb i j g (e i j g) (e i j (g + 1))) ∧
        (∀ g, m.pos < g → g < n → ¬ nan g) ∧ (n < groups → m.pos < n ∧ nan n) ∧
        (∀ x i j, x < 8 → i < 64 → j < 64 → ¬ (x = acc ∧ i < a.rows ∧ j < b.rows) → element d x i j = element c x i j) ∧
        d.tiles = c.tiles ∧ d.shapes = c.shapes ∧
        (m.pos < n ∧ nan n → headAt t p = some (true, n) ∧ d.accTy = c.accTy) ∧
        (¬ (m.pos < n ∧ nan n) → (getCore t p).mq = (getCore s p).mq.drop 1 ∧
          d.accTy = if set then setAt c.accTy acc (if info.2.2.2 then .i32 else .f32) else c.accTy) ∧
        ((m.aw = true ∨ info.2.2.2 = true ∧ ∃ i j g, i < a.rows ∧ j < b.rows ∧ m.pos ≤ g ∧ g < n ∧
            let x := intSum c pair ta tb i j g (e i j g)
            (x < -(2 ^ 31) ∨ 2 ^ 31 ≤ x)) → ¬ (m.pos < n ∧ nan n) → ∀ w, findWarp s m.warp = some w →
          ∃ x, findWarp t m.warp = some x ∧
            (x.fpst.getLsbD 6 = true ∨ m.batch ∈ x.awDue ∧ batchOver x m.batch = false))

/-- R422, R425, R428: an element of SACC is the exact sum with the scaled product, rounded once, with the NaN trap armed or
not; ACCOUT writes the converted elements of its block, row by row, also under SR and with a gauge, up to the row at which a
NaN halts it, and no other byte of the scratchpad but its gauge's COUNT. -/
def Obligations.ScaledAndWrittenElements : Prop :=
  (∀ (s : State) (p : Pos) (m : MWork) (f32 : Bool) (ad ap sa sb : Nat), runs s p m (.sacc f32 ad ap sa sb) →
    m.pos = 0 → ad < 8 → ap < 8 → let c := coreCtx s p m.asid
    spWf 0#8 c.acc = true → ∃ t, exec (.saccExecution p) s = .next t ∧
      let d := coreCtx t p m.asid
      (∀ i j, i < 64 → j < 64 → addsUp (element d ad i j) (FpFmt.f32.decode (element c ad i j))
        [product (product (scaleEntry c f32 sa i) (FpFmt.f32.decode (element c ap i j))) (scaleEntry c f32 sb j)]) ∧
      (∀ x i j, x < 8 → i < 64 → j < 64 → x ≠ ad → element d x i j = element c x i j) ∧
      (m.nt = true ∧ (∃ i j, i < 64 ∧ j < 64 ∧ element d ad i j = 0x7FC00000) → headAt t p = some (true, 1)) ∧
      (¬ (m.nt = true ∧ ∃ i j, i < 64 ∧ j < 64 ∧ element d ad i j = 0x7FC00000) →
        (getCore t p).mq = (getCore s p).mq.drop 1)) ∧
  ∀ (s : State) (p : Pos) (m : MWork) (of_ : OutFmt) (rm : BitVec 3) (acc off stride cols rows : Nat) (g : Gauge)
      (s43 s52 : Bool),
    runs s p m (.accout of_ rm acc off g stride cols rows s43 s52) → m.pos ≤ rows → cols ≤ 64 →
    let c := coreCtx s p m.asid
    let n := outSize of_
    let y := fun i j => outPattern of_ s43 s52 (outMode c of_ rm acc i cols j) (element c acc i j)
    let nan := fun i => m.nt = true ∧ ∃ j, j < cols ∧ elemIsNan (outFmt of_) (y i j) = true
    spWf 0#8 c.spad = true → (cols * n ≤ stride ∨ rows = 1) →
      ∃ t r, exec (.accoutExecution p) s = .next t ∧ m.pos ≤ r ∧ r ≤ rows ∧
      let d := coreCtx t p m.asid
      (∀ i, m.pos ≤ i → i + 1 < r → ¬ nan i) ∧ (r < rows → m.pos < r ∧ nan (r - 1)) ∧
      (m.pos < r ∧ nan (r - 1) → headAt t p = some (true, r)) ∧
      (∀ i j, m.pos ≤ i → i < r → j < cols →
        (∀ x, off + i * stride + j * n ≤ x → x < off + i * stride + j * n + n → ¬ gaugeByte g p m.asid x) →
          cellsGet d.spad (off + i * stride + j * n) n = y i j % 256 ^ n) ∧
      (∀ x, ¬ gaugeByte g p m.asid x →
        (∀ i j, m.pos ≤ i → i < r → j < cols → x < off + i * stride + j * n ∨ off + i * stride + j * n + n ≤ x) →
          spGet 0#8 d.spad x = spGet 0#8 c.spad x) ∧ d.acc = c.acc

/-! ### Reset and invariants -/

/-- R514, R522, R527, R528: what the rules say of the device after a cold reset: memory reads zero, no warp and no
context is there, DEVNUM is unwritten, every interface is unlocked, PLIM is 3,200 W, no counter has run (the model's own: log 12). -/
def Obligations.ResetLeavesDeviceEmpty : Prop :=
  (∀ a, memByte State.reset.mem a = 0#8) ∧ State.reset.warps = [] ∧ State.reset.launches = [] ∧
    State.reset.hub.devnum = none ∧ (∀ n, 1 ≤ n → n ≤ 63 → vfFrozen State.reset n = false) ∧ State.reset.hub.plim = 3200 ∧
    State.reset.cycle = 0 ∧ State.reset.bad = [] ∧ (∀ asid, asid < 1024 → (getCtx State.reset asid).v = false) ∧
    State.reset.hub.blot.arm = false ∧ State.reset.hub.blot.fired = false

/-- The memory of the reset state is in its canonical form. -/
def Obligations.ResetMemoryIsCanonical : Prop := Inv State.reset

/-- Every step keeps the memory's canonical form, from every state that has it. -/
def Obligations.EveryStepKeepsMemoryCanonical : Prop :=
  ∀ s t : State, Inv s → step s = .next t → Inv t

/-- Every step from every state answers a next state: no state stops the device. -/
def Obligations.EveryStepAnswersNextState : Prop := ∀ s : State, ∃ t, step s = .next t

/-! ### Fetching and decoding -/

/-- R61, R489: a word that no cached line serves is read from memory, least significant byte first. -/
def Obligations.FetchReadsLittleEndianWords : Prop :=
  ∀ (s : State) (w : Warp) (va : Nat) (p : Tr), icacheFind s w va = none → reach s w.who .fetch va 8 = some p →
    65536 ∣ p.size → 0 < p.size → (∀ l ∈ (getCluster s (clusterOf w.pos)).icache, l.dom ≠ p.da / 64) → (∀ k, k < 8 → open_ s w.who (p.da / 64 * 64 + 8 * k) = true) →
      ∃ t, fetchWord s w va = .ok t (wordN (memLoad s.mem p.da 8)) ∧
        memLoad s.mem p.da 8 = ((List.range 8).map fun k => (memByte s.mem (p.da + k)).toNat * 256 ^ k).sum

/-- A step runs the instruction that the bytes at the warp's PC decode to, with its issue cycles to be counted (R203), and
SUPP used up by its issue (R474). -/
def Obligations.StepRunsDecodedInstruction : Prop :=
  ∀ (s t : State) (w : Warp) (x lit : Word) (i : Instr) (rest : List Byte), GoesStraight s w →
    fetchPair { takesTurn (putWarp (beforeTurn s) w) w 1 with suppUsed := false } w w.pc.toNat = .ok t (x, lit) →
    decode (bytesOfWord x ++ bytesOfWord lit) = .ok (i, rest) → (∀ n a b c d, i ≠ .rep n a b c d) →
      step s = exec i (updWarp { t with uncounted := issueCycles t w i, suppUsed := w.supp } w.uid fun w =>
        { w with supp := false })

/-- R61-R68: decoding the bytes of a well-formed instruction gives it back, whatever follows them. -/
def Obligations.DecodeInvertsEncode : Prop :=
  ∀ (i : Instr) (rest : List Byte), i.isWord = true → i.wf = true → decode (encodeBytes i ++ rest) = .ok (i, rest)

/-- Words that the specification writes out decode to the instructions they stand for (R82, R126, R142, R160, R163,
R212, R450). -/
def Obligations.WrittenWordsDecode : Prop :=
  decodeTableWord 64 0x6700000000000000 = some (.nop ⟨0#3, false⟩) ∧
    decodeTableWord 64 0x650211FFFFFFFD00 = some (.loopd ⟨0#3, false⟩ 8#6 (-3)) ∧
    decodeTableWord 64 0x11000E00C0000004 = some (.tagset ⟨0#3, false⟩ 2#4 (.reg (.v 7#8)) (.reg (.v 3#8))) ∧
    decodeTableWord 128 (5 * 2 ^ 64 + 0x140006006F800003) =
      some (.iadd ⟨0#3, false⟩ .ss (.reg (.v 3#8)) (.reg (.v 1#8)) (.lit .int 5#64)) ∧
    decodeTableWord 128 (5 * 2 ^ 64 + 0x8800020000000401) =
      some (.brd ⟨0#3, false⟩ false (.reg (.v 1#8)) 4 5) ∧
    decodeTableWord 64 0xE000005000000000 = some (.sret (.reg (.m 0#3))) ∧
    decodeTableWord 64 0xFC00C44400000000 = some (.rep 3#6 1#4 1#4 1#4 0#4)
end

