-- ==== Sys2Proof/Laws/Decode.lean ====
section
/-! SUPPORT. The encoder's fields read back: one lemma for each kind of operand field and for each shape of word. -/

set_option Elab.async false

namespace Sys2Proof

@[simp] theorem except_ok_bind {ε α β : Type} (x : α) (f : α → Except ε β) : (Except.ok x >>= f) = f x := rfl
@[simp] theorem except_pure {ε α : Type} (x : α) : (pure x : Except ε α) = .ok x := rfl

/-! ### Operand fields (R67, R68) -/

theorem Reg.dec_enc (r : Reg) : Reg.dec r.enc = some r := by
  cases r with
  | v n => revert n; decide +kernel
  | s n => revert n; decide +kernel
  | m n => revert n; decide +kernel
  | t n => revert n; decide +kernel
  | zr => rfl

theorem latch_field : ∀ k : BitVec 3, Reg.dec (Src.latch k).enc = none ∧ 0x200 ≤ (Src.latch k).enc.toNat ∧
    (Src.latch k).enc.toNat < 0x208 ∧ (Src.latch k).enc.extractLsb' 0 3 = k := by decide +kernel

theorem peek_field : ∀ n : BitVec 4, Reg.dec (Src.chan false n).enc = none ∧ ¬(Src.chan false n).enc.toNat < 0x208 ∧
    0x400 ≤ (Src.chan false n).enc.toNat ∧ (Src.chan false n).enc.toNat < 0x410 ∧ (Src.chan false n).enc.extractLsb' 0 4 = n := by
  decide +kernel

theorem pop_field : ∀ n : BitVec 4, Reg.dec (Src.chan true n).enc = none ∧ ¬(Src.chan true n).enc.toNat < 0x208 ∧
    ¬(Src.chan true n).enc.toNat < 0x410 ∧ 0x600 ≤ (Src.chan true n).enc.toNat ∧ (Src.chan true n).enc.toNat < 0x610 ∧
    (Src.chan true n).enc.extractLsb' 0 4 = n := by decide +kernel

theorem literal_field : ∀ t : Tag, t.litOk = true → Reg.dec (Src.lit t 0#64).enc = none ∧ ¬(Src.lit t 0#64).enc.toNat < 0x410 ∧
    ¬0x600 ≤ (Src.lit t 0#64).enc.toNat ∧ 0x5F0 ≤ (Src.lit t 0#64).enc.toNat ∧ (Src.lit t 0#64).enc.toNat < 0x600 ∧
    Tag.ofNat? ((Src.lit t 0#64).enc.toNat - 0x5F0) = some t := by
  intro t h
  cases t <;> first | (cases h; done) | decide +kernel

/-- A source field reads back, where the literal that it may name is the word's. -/
theorem Src.dec_enc {s : Src} {lit : Word} (h : s.wf = true) (hl : s.isLit = true → s.litWord = lit) :
    Src.dec s.enc lit = .ok s := by
  cases s with
  | reg r => simp [Src.dec, Src.enc, Reg.dec_enc]
  | latch k => obtain ⟨h1, h2, h3, h4⟩ := latch_field k; simp [Src.dec, *]
  | chan p n =>
    cases p with
    | false => obtain ⟨h1, h2, h3, h4, h5⟩ := peek_field n; simp [Src.dec, *]
    | true => obtain ⟨h1, h2, h3, h4, h5, h6⟩ := pop_field n; simp [Src.dec, *]
  | lit t w =>
    obtain rfl : w = lit := hl rfl
    obtain ⟨h1, h2, h3, h4, h5, h6⟩ := literal_field t h
    have : (Src.lit t w).enc = (Src.lit t 0#64).enc := rfl
    have h7 : t.litOk = true := h
    simp [Src.dec, this, h1, h2, h3, h4, h5, h6, h7, show ¬(Src.lit t 0#64).enc.toNat < 0x208 by omega]

theorem push_field : ∀ n : BitVec 4, Reg.dec (Dst.chan n).enc = none ∧ (Dst.chan n).enc.toNat ≠ 0x200 ∧
    0x400 ≤ (Dst.chan n).enc.toNat ∧ (Dst.chan n).enc.toNat < 0x410 ∧ (Dst.chan n).enc.extractLsb' 0 4 = n := by decide +kernel

theorem Dst.dec_enc (d : Dst) : Dst.dec d.enc = .ok d := by
  cases d with
  | reg r => simp [Dst.dec, Dst.enc, Reg.dec_enc]
  | nowb => rfl
  | chan n => obtain ⟨h1, h2, h3, h4, h5⟩ := push_field n; simp [Dst.dec, *]

theorem Run.dec_enc (d : Run) : Run.dec d.enc = .ok d := by
  cases d <;> simp [Run.dec, Run.enc, Reg.dec_enc]

theorem vregDec_vreg (n : BitVec 8) : vregDec (vreg n) = .ok n := by simp [vregDec, vreg, Reg.dec_enc]

theorem accField_accEnc : ∀ n : BitVec 3, accField (accEnc n) = .ok n := by
  intro n
  have : ∀ n : BitVec 3, (accEnc n).toNat < 8 ∧ (accEnc n).extractLsb' 0 3 = n := by decide +kernel
  simp [accField, this n]

theorem zeroField_zero : zeroField 0#11 = .ok () := rfl

/-! ### The guard and the literal -/

theorem guardDec_mkRaw {g : Guard} (h : g.wf = true) (op : Nat) (d a b c : BitVec 11) (md : Nat) (l : List Src) :
    guardDec (mkRaw op g d a b c md l) = .ok g := by
  obtain ⟨m, n⟩ := g
  cases n <;> simp_all [guardDec, mkRaw, Guard.wf]

theorem srcsWf_iff {l : List Src} : srcsWf l = true ↔ (∀ s ∈ l, s.wf = true) ∧ (l.filter Src.isLit).length ≤ 1 := by
  simp [srcsWf]

theorem litRule_mkRaw {l : List Src} (h : (l.filter Src.isLit).length ≤ 1) (op : Nat) (g : Guard) (d a b c : BitVec 11) (md : Nat) :
    litRule (mkRaw op g d a b c md l) l = .ok () := by
  simp [litRule, mkRaw, h]

/-- The literal of a list with at most one: that of each operand that names it. -/
theorem litWord_litOf : ∀ {l : List Src}, (l.filter Src.isLit).length ≤ 1 → ∀ s ∈ l, s.isLit = true → s.litWord = litOf l
  | [], _, _, hs, _ => by cases hs
  | x :: l, h, s, hs, hl => by
    rcases List.mem_cons.mp hs with rfl | hs
    · simp [litOf, hl]
    · have hx : x.isLit = false := by
        cases hx : x.isLit with
        | false => rfl
        | true =>
          have : 0 < (l.filter Src.isLit).length := List.length_pos_of_mem (List.mem_filter.mpr ⟨hs, hl⟩)
          simp [hx] at h
          simp_all
      have := litWord_litOf (l := l) (by simpa [hx] using h) s hs hl
      simpa [litOf, hx] using this

/-- Every operand of a well-formed list reads back under the list's literal. -/
theorem dec_of_wf {l : List Src} (h : srcsWf l = true) : ∀ s ∈ l, Src.dec s.enc (litOf l) = .ok s :=
  fun s hs => Src.dec_enc ((srcsWf_iff.mp h).1 s hs) (litWord_litOf (srcsWf_iff.mp h).2 s hs)

/-! ### Shapes of words -/

/-- MOD as a word holds it. -/
def mdOf (n : Nat) : BitVec 7 := BitVec.ofNat 7 n

section
variable (op : Nat) (g : Guard) (d a b c : BitVec 11) (md : Nat) (l : List Src)
@[simp] theorem mkRaw_op : (mkRaw op g d a b c md l).op = BitVec.ofNat 8 op := rfl
@[simp] theorem mkRaw_d : (mkRaw op g d a b c md l).d = d := rfl
@[simp] theorem mkRaw_a : (mkRaw op g d a b c md l).a = a := rfl
@[simp] theorem mkRaw_b : (mkRaw op g d a b c md l).b = b := rfl
@[simp] theorem mkRaw_c : (mkRaw op g d a b c md l).c = c := rfl
@[simp] theorem mkRaw_md : (mkRaw op g d a b c md l).md = mdOf md := rfl
@[simp] theorem mkRaw_lx : (mkRaw op g d a b c md l).lx = lxOf l := rfl
@[simp] theorem mkRaw_lit : (mkRaw op g d a b c md l).lit = litOf l := rfl
end

variable {g : Guard} {a b c : Src} {m : MemOp}

theorem decDAB_mk (hg : g.wf = true) (h : srcsWf [a, b] = true) (op md : Nat) (d : Dst) (k : Guard → Dst → Src → Src → Instr) :
    decDAB (mkRaw op g d.enc a.enc b.enc 0#11 md [a, b]) k = .ok (k g d a b) := by
  have := dec_of_wf h
  simp_all [decDAB, guardDec_mkRaw hg, litRule_mkRaw (srcsWf_iff.mp h).2, zeroField, Dst.dec_enc]

theorem decDA_mk (hg : g.wf = true) (h : srcsWf [a] = true) (op md : Nat) (d : Dst) (k : Guard → Dst → Src → Instr) :
    decDA (mkRaw op g d.enc a.enc 0#11 0#11 md [a]) k = .ok (k g d a) := by
  have := dec_of_wf h
  simp_all [decDA, guardDec_mkRaw hg, litRule_mkRaw (srcsWf_iff.mp h).2, zeroField, Dst.dec_enc]

theorem decDABC_mk (hg : g.wf = true) (h : srcsWf [a, b, c] = true) (op md : Nat) (d : Dst)
    (k : Guard → Dst → Src → Src → Src → Instr) :
    decDABC (mkRaw op g d.enc a.enc b.enc c.enc md [a, b, c]) k = .ok (k g d a b c) := by
  have := dec_of_wf h
  simp_all [decDABC, guardDec_mkRaw hg, litRule_mkRaw (srcsWf_iff.mp h).2, Dst.dec_enc]

theorem decA_mk (hg : g.wf = true) (h : srcsWf [a] = true) (op md : Nat) (k : Guard → Src → Instr) :
    decA (mkRaw op g 0#11 a.enc 0#11 0#11 md [a]) k = .ok (k g a) := by
  have := dec_of_wf h
  simp_all [decA, guardDec_mkRaw hg, litRule_mkRaw (srcsWf_iff.mp h).2, zeroField]

theorem decNone_mk (hg : g.wf = true) (op md : Nat) (k : Guard → Instr) :
    decNone (mkRaw op g 0#11 0#11 0#11 0#11 md []) k = .ok (k g) := by
  have : litRule (mkRaw op g 0#11 0#11 0#11 0#11 md []) [] = .ok () := litRule_mkRaw (by simp) ..
  simp [decNone, guardDec_mkRaw hg, this, zeroField]

theorem memC_fields (m : MemOp) : (memC m).extractLsb' 9 2 = m.sc ∧ (memC m).extractLsb' 0 9 = m.disp := by
  obtain ⟨x, y, sc, disp⟩ := m
  simp only [memC]
  clear x y
  revert sc disp
  decide +kernel

theorem scope_code : ∀ x : BitVec 4, (0#7 ++ x).toNat < 16 ∧ (0#7 ++ x).extractLsb' 0 4 = x := by decide +kernel
theorem scope_disp : ∀ x : BitVec 9, (0#2 ++ x).toNat < 512 ∧ (0#2 ++ x).extractLsb' 0 9 = x := by decide +kernel

theorem scopeDec_mk {m : ScopeOp} {l : List Src} (h : srcsWf l = true) (hm : m.base ∈ l) (op md : Nat) (d : BitVec 11) :
    scopeDec (mkRaw op g d m.base.enc (scopeB m) (scopeC m) md l) = .ok m := by
  have h1 := dec_of_wf h m.base hm
  have h2 := scope_code m.scope
  have h3 := scope_disp m.disp
  simp [scopeDec, check, scopeB, scopeC, h1, h2, h3]

theorem decLoad_mk (hg : g.wf = true) (h : srcsWf m.srcs = true) (op md : Nat) (d : Dst) (k : Guard → Dst → MemOp → Instr) :
    decLoad (mkRaw op g d.enc m.base.enc m.idx.enc (memC m) md m.srcs) k = .ok (k g d m) := by
  have := dec_of_wf h
  have hc := memC_fields m
  have hl := litRule_mkRaw (srcsWf_iff.mp h).2 op g d.enc m.base.enc m.idx.enc (memC m) md
  simp_all [decLoad, memDec, guardDec_mkRaw hg, Dst.dec_enc, MemOp.srcs]

theorem decStore_mk {d : Src} (hg : g.wf = true) (h : srcsWf (d :: m.srcs) = true) (op md : Nat) (k : Guard → Src → MemOp → Instr) :
    decStore (mkRaw op g d.enc m.base.enc m.idx.enc (memC m) md (d :: m.srcs)) k = .ok (k g d m) := by
  have := dec_of_wf h
  have hc := memC_fields m
  have hl := litRule_mkRaw (srcsWf_iff.mp h).2 op g d.enc m.base.enc m.idx.enc (memC m) md
  simp_all [decStore, memDec, guardDec_mkRaw hg, MemOp.srcs]

theorem decHint_mk (hg : g.wf = true) (h : srcsWf m.srcs = true) (op md : Nat) (k : Guard → MemOp → Instr) :
    decHint (mkRaw op g 0#11 m.base.enc m.idx.enc (memC m) md m.srcs) k = .ok (k g m) := by
  have := dec_of_wf h
  have hc := memC_fields m
  have hl := litRule_mkRaw (srcsWf_iff.mp h).2 op g 0#11 m.base.enc m.idx.enc (memC m) md
  simp_all [decHint, memDec, guardDec_mkRaw hg, zeroField, MemOp.srcs]


/-! ### MOD fields -/

theorem formOk_wf {i : Instr} (h : i.wf = true) (e : DecodeError) : formOk i e = .ok i := by simp [formOk, h]

section
variable (op : Nat) (d a b c : BitVec 11) (l : List Src)

theorem modIs_mk (md : Nat) (h : md < 128) : modIs (mkRaw op g d a b c md l) md = .ok () := by
  simp [modIs, mdOf, Nat.mod_eq_of_lt h]
theorem decBit_mk (u : Bool) : decBit (mkRaw op g d a b c (boolN u) l) = .ok u := by cases u <;> rfl
theorem decP_mk (u : Bool) : decP (mkRaw op g d a b c (8 * boolN u) l) = .ok u := by cases u <;> rfl
theorem decFRm_mk (p : Bool) (rm : Rm) (h : (rm != .sr) = true) :
    decFRm (mkRaw op g d a b c (8 * boolN p + rm.code) l) = .ok (p, rm) := by
  cases p <;> cases rm <;> first | (cases h; done) | simp [decFRm, mdOf, modBelow, orMod, check, boolN, Rm.code, Rm.ofCode, bitN]
theorem noGuard_mk (md : Nat) : noGuard (mkRaw op Guard.always d a b c md l) = .ok () := rfl
end

theorem always_wf : Guard.always.wf = true := rfl
theorem dec_zr (lit : Word) : Src.dec Reg.zr.enc lit = .ok (.reg .zr) := Src.dec_enc (s := .reg .zr) rfl (fun h => by cases h)

theorem Ov.ofCode_code (x : Ov) : Ov.ofCode x.code = some x := by cases x <;> rfl
theorem Cnd.ofCode_code (x : Cnd) : Cnd.ofCode x.code = some x := by cases x <;> rfl
theorem FCnd.ofCode_code (x : FCnd) : FCnd.ofCode x.code = some x := by cases x <;> rfl
theorem Rm.ofCode_code (x : Rm) : Rm.ofCode x.code = some x := by cases x <;> rfl
theorem Fmt.ofCode_code (x : Fmt) : Fmt.ofCode x.code = some x := by cases x <;> rfl
theorem AOp.ofCode_code (x : AOp) : AOp.ofCode x.code = some x := by cases x <;> rfl
theorem AOrd.ofCode_code (x : AOrd) : AOrd.ofCode x.code = some x := by cases x <;> rfl
theorem ROp.ofCode_code (x : ROp) : ROp.ofCode x.code = some x := by cases x <;> rfl
theorem Ty.ofCode_code (x : Ty) : Ty.ofCode x.code = some x := by cases x <;> rfl
theorem VoteMode.ofCode_code (x : VoteMode) : VoteMode.ofCode x.code = Option.some x := by cases x <;> rfl
theorem ShflMode.ofCode_code (x : ShflMode) : ShflMode.ofCode x.code = some x := by cases x <;> rfl
theorem PhaseKind.ofCode_code (x : PhaseKind) : PhaseKind.ofCode x.code = some x := by cases x <;> rfl
theorem ChKind.ofCode_code (x : ChKind) : ChKind.ofCode x.code = some x := by cases x <;> rfl
theorem SOp.ofCode_code (x : SOp) : SOp.ofCode x.code = some x := by cases x <;> rfl
theorem StatWhat.ofCode_code (x : StatWhat) : StatWhat.ofCode x.code = some x := by cases x <;> rfl
theorem Pair.ofCode_code (x : Pair) : Pair.ofCode x.code = some x := by cases x <;> rfl
theorem OutFmt.ofCode_code (x : OutFmt) : OutFmt.ofCode x.code = some x := by cases x <;> rfl
theorem PageSz.ofCode_code (x : PageSz) : PageSz.ofCode x.code = some x := by cases x <;> rfl
theorem Ov.code_lt (x : Ov) : x.code < 3 := by cases x <;> decide
theorem Cnd.code_lt (x : Cnd) : x.code < 8 := by cases x <;> decide
theorem FCnd.code_lt (x : FCnd) : x.code < 8 := by cases x <;> decide
theorem Rm.code_lt (x : Rm) : x.code < 8 := by cases x <;> decide
theorem Fmt.code_lt (x : Fmt) : x.code < 16 := by cases x <;> decide
theorem AOp.code_lt (x : AOp) : x.code < 11 := by cases x <;> decide
theorem AOrd.code_lt (x : AOrd) : x.code < 4 := by cases x <;> decide
theorem ROp.code_lt (x : ROp) : x.code < 8 := by cases x <;> decide
theorem Ty.code_lt (x : Ty) : x.code < 4 := by cases x <;> decide
theorem VoteMode.code_lt (x : VoteMode) : x.code < 4 := by cases x <;> decide
theorem ShflMode.code_lt (x : ShflMode) : x.code < 4 := by cases x <;> decide
theorem PhaseKind.code_lt (x : PhaseKind) : x.code < 4 := by cases x <;> decide
theorem ChKind.code_lt (x : ChKind) : x.code < 6 := by cases x <;> decide
theorem SOp.code_lt (x : SOp) : x.code < 3 := by cases x <;> decide
theorem StatWhat.code_lt (x : StatWhat) : x.code < 7 := by cases x <;> decide
theorem Pair.code_lt (x : Pair) : x.code < 9 := by cases x <;> decide
theorem OutFmt.code_lt (x : OutFmt) : x.code < 7 := by cases x <;> decide
theorem PageSz.code_lt (x : PageSz) : x.code < 3 := by cases x <;> decide
theorem boolN_lt (x : Bool) : boolN x < 2 := by cases x <;> decide

theorem litRule_nil (op : Nat) (d a b c : BitVec 11) (md : Nat) : litRule (mkRaw op g d a b c md []) [] = .ok () :=
  litRule_mkRaw (by simp) ..

theorem srcsWf_of_noLit {l : List Src} (h : srcsNoLit l = true) : srcsWf l = true := by
  have hn : ∀ s ∈ l, s.isLit = false := by simpa [srcsNoLit] using h
  refine srcsWf_iff.mpr ⟨fun s hs => ?_, ?_⟩
  · have := hn s hs
    cases s <;> first | rfl | cases this
  · have : l.filter Src.isLit = [] := List.filter_eq_nil_iff.mpr fun s hs => by simp [hn s hs]
    simp [this]

/-! ### What the constructors' words rest on -/

theorem Ov.ofCode_mod (x : Ov) : Ov.ofCode (mdOf x.code).toNat = some x := by cases x <;> rfl
theorem Cnd.ofCode_mod (x : Cnd) : Cnd.ofCode (mdOf x.code).toNat = some x := by cases x <;> rfl
theorem VoteMode.ofCode_mod (x : VoteMode) : VoteMode.ofCode (mdOf x.code).toNat = Option.some x := by cases x <;> rfl
theorem ChKind.ofCode_mod (x : ChKind) : ChKind.ofCode (mdOf x.code).toNat = some x := by cases x <;> rfl
theorem SOp.ofCode_mod (x : SOp) : SOp.ofCode (mdOf x.code).toNat = some x := by cases x <;> rfl
theorem decBit0 {op : Nat} {g : Guard} {d a b c : BitVec 11} {l : List Src} : decBit (mkRaw op g d a b c 0 l) = .ok false := rfl
theorem decBit1 {op : Nat} {g : Guard} {d a b c : BitVec 11} {l : List Src} : decBit (mkRaw op g d a b c 1 l) = .ok true := rfl
theorem dst_zero : Dst.dec 0#11 = .ok (.reg (.v 0#8)) := Dst.dec_enc (.reg (.v 0#8))
/-- OFF of format B. -/
theorem off_mk (op md : Nat) (g : Guard) (d : BitVec 11) (off : BitVec 33) (l : List Src) :
    Raw.off (mkRaw op g d (off.extractLsb' 22 11) (off.extractLsb' 11 11) (off.extractLsb' 0 11) md l) = off := by
  simp only [Raw.off, mkRaw]
  ext i hi
  simp only [BitVec.getElem_append, BitVec.getElem_extractLsb']
  split
  · simp [← BitVec.getLsbD_eq_getElem]
  · split
    · simp [← BitVec.getLsbD_eq_getElem]; congr 1; omega
    · simp [← BitVec.getLsbD_eq_getElem]; congr 1; omega
theorem optField_mk (f : Option Src) {l : List Src} (h : ∀ s ∈ f.toList, Src.dec s.enc (litOf l) = .ok s) :
    optField f.isSome (optEnc f) (litOf l) = .ok f := by
  cases f with
  | none => rfl
  | some s => simp [optField, optEnc, h s (by simp)]
theorem noLit_wf {s : Src} (h : s.isLit = false) : s.wf = true := by cases s <;> first | rfl | cases h
theorem memDec_mk {m : MemOp} (h : srcsWf m.srcs = true) (op md : Nat) (g : Guard) (d : BitVec 11) :
    memDec (mkRaw op g d m.base.enc m.idx.enc (memC m) md m.srcs) = .ok m := by
  have := dec_of_wf h
  have hc := memC_fields m
  simp_all [memDec, MemOp.srcs]
theorem extract_signExtend (j : BitVec 33) : (j.signExtend 64).extractLsb' 0 33 = j := by
  ext i hi
  simp [BitVec.getElem_signExtend, hi, show i < 64 by omega]
/-- A word whose literal word has a use of its own (R68). -/
def withLit (r : Raw) (x : Word) : Raw := { r with lx := 1#1, lit := x }
section
variable (r : Raw) (x : Word)
@[simp] theorem withLit_d : (withLit r x).d = r.d := rfl
@[simp] theorem withLit_a : (withLit r x).a = r.a := rfl
@[simp] theorem withLit_b : (withLit r x).b = r.b := rfl
@[simp] theorem withLit_c : (withLit r x).c = r.c := rfl
@[simp] theorem withLit_lx : (withLit r x).lx = 1#1 := rfl
@[simp] theorem withLit_lit : (withLit r x).lit = x := rfl
theorem guardDec_withLit : guardDec (withLit r x) = guardDec r := rfl
theorem decBit_withLit : decBit (withLit r x) = decBit r := rfl
theorem off_withLit : (withLit r x).off = r.off := rfl
end

theorem optWf_srcs {w : Option Src} (h : optWf w = true) : srcsWf w.toList = true := by
  cases w with
  | none => rfl
  | some s => refine srcsWf_iff.mpr ⟨by simpa [optWf] using h, ?_⟩; cases hs : s.isLit <;> simp [hs]

/-! ### Words and bytes -/

/-- The fields of the word that holds them. -/
theorem Raw.ofWord_toWord (r : Raw) : Raw.ofWord r.toWord r.lit = r := by
  obtain ⟨op, grd, gng, d, a, b, c, md, lx, lit⟩ := r
  simp only [Raw.ofWord, Raw.toWord, Raw.mk.injEq, and_true]
  refine ⟨?_, ?_, ?_, ?_, ?_, ?_, ?_, ?_, ?_⟩ <;>
  · ext i hi
    simp [BitVec.getElem_extractLsb', ← BitVec.getLsbD_eq_getElem]
    try grind

/-- A word's bytes read back as the word. -/
theorem wordOfBytes_bytesOfWord (w : Word) : wordOfBytes (bytesOfWord w) = w := by
  apply BitVec.eq_of_toNat_eq
  simp [wordOfBytes, bytesOfWord, BitVec.extractLsb'_toNat, Nat.shiftRight_eq_div_pow]
  omega

/-! ### The opcode table (R86) -/

theorem lookup_none {α : Type} {n : Nat} : ∀ {l : List (Nat × α)}, (l.map Prod.fst).contains n = false → l.lookup n = none
  | [], _ => rfl
  | (m, y) :: l, h => by
    simp only [List.map_cons, List.contains_cons, Bool.or_eq_false_iff] at h
    simp [List.lookup, h.1, lookup_none h.2]

theorem lookup_at {α : Type} {x : α} {n : Nat} : ∀ {l : List (Nat × α)} (i : Nat), l[i]? = some (n, x) →
    ((l.map Prod.fst).take i).contains n = false → l.lookup n = some x
  | [], _, h, _ => by simp at h
  | (m, y) :: l, 0, h, _ => by simp at h; simp [List.lookup, h]
  | (m, y) :: l, i + 1, h, hn => by
    simp only [List.map_cons, List.take_succ_cons, List.contains_cons, Bool.or_eq_false_iff] at hn
    simp [List.lookup, hn.1, lookup_at (l := l) i (by simpa using h) hn.2]

/-- Entry `i` of part `j` answers for its key where no part before has the key and no entry before it in its part. -/
theorem lookup_parts {α : Type} {x : α} {n : Nat} : ∀ {ls : List (List (Nat × α))} (j i : Nat),
    (ls[j]?.bind fun l => l[i]?) = some (n, x) → ((ls.map fun l => l.map Prod.fst).take j).all (fun l => !l.contains n) = true →
    (((ls.map fun l => l.map Prod.fst).getD j []).take i).contains n = false → ls.flatten.lookup n = some x
  | [], _, _, h, _, _ => by simp at h
  | l :: ls, 0, i, h, _, hi => by
    have := lookup_at i (l := l) (x := x) (n := n) (by simpa using h) (by simpa using hi)
    simp [List.lookup_append, this]
  | l :: ls, j + 1, i, h, hj, hi => by
    simp only [List.map_cons, List.take_succ_cons, List.all_cons, Bool.and_eq_true, Bool.not_eq_true'] at hj
    have := lookup_parts (ls := ls) j i (by simpa using h) hj.2 (by simpa using hi)
    simp [List.lookup_append, lookup_none hj.1, this]

/-- The parts of the table, and their keys. -/
def opParts (r : Raw) : List (List (Nat × Except DecodeError Instr)) :=
  [opGeneric r, opInt r, opFloat r, opControl r, opLanes r, opMemory r, opSparse r, opCopy r, opMatrix r, opSystem r]

def opKeys : List (List Nat) := [
  [0x01, 0x02, 0x03, 0x04, 0x05, 0x06, 0x07, 0x08, 0x09, 0x0A, 0x0B, 0x0C, 0x0D, 0x0E, 0x0F, 0x10, 0x11, 0x12, 0x13],
  [0x14, 0x15, 0x16, 0x17, 0x18, 0x19, 0x1A, 0x1B, 0x1C, 0x1D, 0x1E, 0x1F, 0x20, 0x21, 0x22, 0x23, 0x24, 0x25, 0x26, 0x27, 0x28, 0x29, 0x2A, 0x2B, 0x2C, 0x2D, 0x2E, 0x2F, 0x30],
  [0x40, 0x41, 0x42, 0x44, 0x43, 0x45, 0x49, 0x46, 0x47, 0x48, 0x4A, 0x4B, 0x4C, 0x4D, 0x4E, 0x4F, 0x50, 0x51, 0x52, 0x53, 0x54, 0x55, 0x56, 0x57],
  [0x60, 0x61, 0x62, 0x63, 0x64, 0x65, 0x66, 0x67, 0x68, 0x69, 0x6A, 0x6B, 0x6C, 0x6D, 0x6E, 0x6F, 0x70, 0x71, 0x72, 0x73, 0x74, 0x75, 0x76],
  [0x80, 0x81, 0x82, 0x83, 0x84, 0x85, 0x86, 0x87, 0x88, 0x89, 0x8A, 0x8B, 0x8C, 0x8D, 0x8E, 0x8F, 0x90, 0x91, 0x92, 0x93, 0x94, 0x95, 0x96, 0x97],
  [0xA0, 0xA1, 0xA2, 0xA3, 0xA4, 0xA5, 0xA6, 0xA7, 0xA8, 0xA9, 0xAA, 0xAB, 0xAC, 0xAD, 0xAE, 0xAF],
  [0xB0, 0xB1, 0xB2, 0xB3, 0xB4, 0xB5, 0xB6, 0xB7],
  [0xC0, 0xC1, 0xC2, 0xC3, 0xC4, 0xC5, 0xC6, 0xC7, 0xC8, 0xC9, 0xCA],
  [0xD0, 0xD1, 0xD2, 0xD3, 0xD4, 0xD5, 0xD6, 0xD7, 0xD8, 0xD9, 0xDA, 0xDB],
  [0xE0, 0xE1, 0xE2, 0xE3, 0xE4, 0xE5, 0xE6, 0xE7, 0xFC]]

theorem opParts_keys (r : Raw) : (opParts r).map (fun l => l.map Prod.fst) = opKeys := rfl

/-- The words of an opcode decode by the arm at its place in the table. -/
theorem decodeRaw_at {r : Raw} {n : Nat} {x : Except DecodeError Instr} (h : r.op.toNat = n) (j i : Nat)
    (hx : ((opParts r)[j]?.bind fun l => l[i]?) = some (n, x)) (hj : (opKeys.take j).all (fun l => !l.contains n) = true)
    (hi : ((opKeys.getD j []).take i).contains n = false) : decodeRaw r = x := by
  have ht : opTable r = (opParts r).flatten := by simp [opTable, opParts]
  rw [decodeRaw, ht, h, lookup_parts j i hx (by rw [opParts_keys]; exact hj) (by rw [opParts_keys]; exact hi)]

end Sys2Proof
end

