-- ==== Sys2Proof/Laws/Exec.lean ====
section
/-! SUPPORT. What exec does with each constructor: one call of its meaning. -/

set_option Elab.async false

namespace Sys2Proof.Machine

theorem exec_add (g d a b s) : exec (.add g d a b) s = execAdd g d a b s := rfl
theorem exec_sub (g d a b s) : exec (.sub g d a b) s = execSub g d a b s := rfl
theorem exec_mul (g d a b s) : exec (.mul g d a b) s = execMul g d a b s := rfl
theorem exec_div (g d a b s) : exec (.div g d a b) s = execDiv g d a b s := rfl
theorem exec_idiv (g d a b s) : exec (.idiv g d a b) s = execIdiv g d a b s := rfl
theorem exec_mod (g d a b s) : exec (.mod g d a b) s = execMod g d a b s := rfl
theorem exec_neg (g d a s) : exec (.neg g d a) s = execNeg g d a s := rfl
theorem exec_abs (g d a s) : exec (.abs g d a) s = execAbs g d a s := rfl
theorem exec_min (g d a b s) : exec (.min g d a b) s = execMin g d a b s := rfl
theorem exec_max (g d a b s) : exec (.max g d a b) s = execMax g d a b s := rfl
theorem exec_ceq (g d a b s) : exec (.ceq g d a b) s = execCeq g d a b s := rfl
theorem exec_cne (g d a b s) : exec (.cne g d a b) s = execCne g d a b s := rfl
theorem exec_clt (g d a b s) : exec (.clt g d a b) s = execClt g d a b s := rfl
theorem exec_cle (g d a b s) : exec (.cle g d a b) s = execCle g d a b s := rfl
theorem exec_truth (g d a s) : exec (.truth g d a) s = execTruth g d a s := rfl
theorem exec_tagof (g d a s) : exec (.tagof g d a) s = execTagof g d a s := rfl
theorem exec_tagset (g t d a s) : exec (.tagset g t d a) s = execTagset g t d a s := rfl
theorem exec_tagsetDyn (g d a b s) : exec (.tagsetDyn g d a b) s = execTagsetDyn g d a b s := rfl
theorem exec_tagis (g d a b s) : exec (.tagis g d a b) s = execTagis g d a b s := rfl
theorem exec_mov (g d a s) : exec (.mov g d a) s = execMov g d a s := rfl
theorem exec_iadd (g ov d a b s) : exec (.iadd g ov d a b) s = execIadd g ov d a b s := rfl
theorem exec_isub (g ov d a b s) : exec (.isub g ov d a b) s = execIsub g ov d a b s := rfl
theorem exec_imul (g ov d a b s) : exec (.imul g ov d a b) s = execImul g ov d a b s := rfl
theorem exec_imulh (g u d a b s) : exec (.imulh g u d a b) s = execImulh g u d a b s := rfl
theorem exec_idivt (g u d a b s) : exec (.idivt g u d a b) s = execIdivt g u d a b s := rfl
theorem exec_iremt (g u d a b s) : exec (.iremt g u d a b) s = execIremt g u d a b s := rfl
theorem exec_imad (g ov d a b c s) : exec (.imad g ov d a b c) s = execImad g ov d a b c s := rfl
theorem exec_and (g d a b s) : exec (.and g d a b) s = execAnd g d a b s := rfl
theorem exec_or (g d a b s) : exec (.or g d a b) s = execOr g d a b s := rfl
theorem exec_xor (g d a b s) : exec (.xor g d a b) s = execXor g d a b s := rfl
theorem exec_andn (g d a b s) : exec (.andn g d a b) s = execAndn g d a b s := rfl
theorem exec_not (g d a s) : exec (.not g d a) s = execNot g d a s := rfl
theorem exec_shl (g wide d a b s) : exec (.shl g wide d a b) s = execShl g wide d a b s := rfl
theorem exec_shr (g wide d a b s) : exec (.shr g wide d a b) s = execShr g wide d a b s := rfl
theorem exec_sar (g wide d a b s) : exec (.sar g wide d a b) s = execSar g wide d a b s := rfl
theorem exec_rol (g d a b s) : exec (.rol g d a b) s = execRol g d a b s := rfl
theorem exec_popc (g d a s) : exec (.popc g d a) s = execPopc g d a s := rfl
theorem exec_clz (g d a s) : exec (.clz g d a) s = execClz g d a s := rfl
theorem exec_ctz (g d a s) : exec (.ctz g d a) s = execCtz g d a s := rfl
theorem exec_brev (g d a s) : exec (.brev g d a) s = execBrev g d a s := rfl
theorem exec_bfx (g sx d a b s) : exec (.bfx g sx d a b) s = execBfx g sx d a b s := rfl
theorem exec_bfi (g d a b c s) : exec (.bfi g d a b c) s = execBfi g d a b c s := rfl
theorem exec_imin (g d a b s) : exec (.imin g d a b) s = execImin g d a b s := rfl
theorem exec_imax (g d a b s) : exec (.imax g d a b) s = execImax g d a b s := rfl
theorem exec_nmin (g d a b s) : exec (.nmin g d a b) s = execNmin g d a b s := rfl
theorem exec_nmax (g d a b s) : exec (.nmax g d a b) s = execNmax g d a b s := rfl
theorem exec_icmp (g cnd d a b s) : exec (.icmp g cnd d a b) s = execIcmp g cnd d a b s := rfl
theorem exec_sel (g mask d a b c s) : exec (.sel g mask d a b c) s = execSel g mask d a b c s := rfl
theorem exec_lea (g sc d a b c s) : exec (.lea g sc d a b c) s = execLea g sc d a b c s := rfl
theorem exec_fadd (g dbl rm d a b s) : exec (.fadd g dbl rm d a b) s = execFadd g dbl rm d a b s := rfl
theorem exec_fsub (g dbl rm d a b s) : exec (.fsub g dbl rm d a b) s = execFsub g dbl rm d a b s := rfl
theorem exec_fmul (g dbl rm d a b s) : exec (.fmul g dbl rm d a b) s = execFmul g dbl rm d a b s := rfl
theorem exec_ffma (g dbl rm d a b c s) : exec (.ffma g dbl rm d a b c) s = execFfma g dbl rm d a b c s := rfl
theorem exec_fdiv (g dbl rm d a b s) : exec (.fdiv g dbl rm d a b) s = execFdiv g dbl rm d a b s := rfl
theorem exec_fsqrt (g dbl rm d a s) : exec (.fsqrt g dbl rm d a) s = execFsqrt g dbl rm d a s := rfl
theorem exec_fmin (g dbl d a b s) : exec (.fmin g dbl d a b) s = execFmin g dbl d a b s := rfl
theorem exec_fmax (g dbl d a b s) : exec (.fmax g dbl d a b) s = execFmax g dbl d a b s := rfl
theorem exec_fcmp (g dbl cnd d a b s) : exec (.fcmp g dbl cnd d a b) s = execFcmp g dbl cnd d a b s := rfl
theorem exec_frnd (g dbl rm d a s) : exec (.frnd g dbl rm d a) s = execFrnd g dbl rm d a s := rfl
theorem exec_fabs (g dbl d a s) : exec (.fabs g dbl d a) s = execFabs g dbl d a s := rfl
theorem exec_fneg (g dbl d a s) : exec (.fneg g dbl d a) s = execFneg g dbl d a s := rfl
theorem exec_log2 (g dbl d a s) : exec (.log2 g dbl d a) s = execLog2 g dbl d a s := rfl
theorem exec_exp2 (g dbl d a s) : exec (.exp2 g dbl d a) s = execExp2 g dbl d a s := rfl
theorem exec_rcp (g dbl d a s) : exec (.rcp g dbl d a) s = execRcp g dbl d a s := rfl
theorem exec_rsq (g dbl d a s) : exec (.rsq g dbl d a) s = execRsq g dbl d a s := rfl
theorem exec_sin (g dbl d a s) : exec (.sin g dbl d a) s = execSin g dbl d a s := rfl
theorem exec_cos (g dbl d a s) : exec (.cos g dbl d a) s = execCos g dbl d a s := rfl
theorem exec_cvt (g df rm d a s) : exec (.cvt g df rm d a) s = execCvt g df rm d a s := rfl
theorem exec_pack (g ef md d a s) : exec (.pack g ef md d a) s = execPack g ef md d a s := rfl
theorem exec_unpk (g ef w d a s) : exec (.unpk g ef w d a) s = execUnpk g ef w d a s := rfl
theorem exec_k8dec (g f16 j d a s) : exec (.k8dec g f16 j d a) s = execK8dec g f16 j d a s := rfl
theorem exec_hash (g d a b s) : exec (.hash g d a b) s = execHash g d a b s := rfl
theorem exec_rndu (g d a b s) : exec (.rndu g d a b) s = execRndu g d a b s := rfl
theorem exec_jmp (g off s) : exec (.jmp g off) s = execJmp g off s := rfl
theorem exec_br (g n c off s) : exec (.br g n c off) s = execBr g n c off s := rfl
theorem exec_call (g l off s) : exec (.call g l off) s = execCall g l off s := rfl
theorem exec_callr (g l t s) : exec (.callr g l t) s = execCallr g l t s := rfl
theorem exec_ret (g t s) : exec (.ret g t) s = execRet g t s := rfl
theorem exec_loopd (g c off s) : exec (.loopd g c off) s = execLoopd g c off s := rfl
theorem exec_exit (g s) : exec (.exit g) s = execExit g s := rfl
theorem exec_nop (g s) : exec (.nop g) s = execNop g s := rfl
theorem exec_ld (g ln nh d m s) : exec (.ld g ln nh d m) s = execLd g ln nh d m s := rfl
theorem exec_st (g ln d m s) : exec (.st g ln d m) s = execSt g ln d m s := rfl
theorem exec_ldt (g fmt d m s) : exec (.ldt g fmt d m) s = execLdt g fmt d m s := rfl
theorem exec_stt (g fmt md d m s) : exec (.stt g fmt md d m) s = execStt g fmt md d m s := rfl
theorem exec_hld (g d m s) : exec (.hld g d m) s = execHld g d m s := rfl
theorem exec_hst (g d m s) : exec (.hst g d m) s = execHst g d m s := rfl
theorem exec_alloc (g d a b s) : exec (.alloc g d a b) s = execAlloc g d a b s := rfl
theorem exec_ldl (g n nh d m s) : exec (.ldl g n nh d m) s = execLdl g n nh d m s := rfl
theorem exec_trap (g a s) : exec (.trap g a) s = execTrap g a s := rfl
theorem exec_sysc (g a s) : exec (.sysc g a) s = execSysc g a s := rfl
theorem exec_hret (a s) : exec (.hret a) s = execHret a s := rfl
theorem exec_bkpt (g s) : exec (.bkpt g) s = execBkpt g s := rfl
theorem exec_mfs (g d sr s) : exec (.mfs g d sr) s = execMfs g d sr s := rfl
theorem exec_mts (g a sr s) : exec (.mts g a sr) s = execMts g a sr s := rfl
theorem exec_snap (g a s) : exec (.snap g a) s = execSnap g a s := rfl
theorem exec_mand (g d a b s) : exec (.mand g d a b) s = execMand g d a b s := rfl
theorem exec_mor (g d a b s) : exec (.mor g d a b) s = execMor g d a b s := rfl
theorem exec_mxor (g d a b s) : exec (.mxor g d a b) s = execMxor g d a b s := rfl
theorem exec_mnot (g d a s) : exec (.mnot g d a) s = execMnot g d a s := rfl
theorem exec_mpopc (g d a s) : exec (.mpopc g d a) s = execMpopc g d a s := rfl
theorem exec_mffs (g hi d a s) : exec (.mffs g hi d a) s = execMffs g hi d a s := rfl
theorem exec_mset (g mrg d a s) : exec (.mset g mrg d a) s = execMset g mrg d a s := rfl
theorem exec_mget (g d a s) : exec (.mget g d a) s = execMget g d a s := rfl
theorem exec_brd (g n c off join s) : exec (.brd g n c off join) s = execBrd g n c off join s := rfl
theorem exec_vote (g md d a s) : exec (.vote g md d a) s = execVote g md d a s := rfl
theorem exec_shfl (g md fill d a b s) : exec (.shfl g md fill d a b) s = execShfl g md fill d a b s := rfl
theorem exec_lgather (g n d a b s) : exec (.lgather g n d a b) s = execLgather g n d a b s := rfl
theorem exec_bcast (g lane d a s) : exec (.bcast g lane d a) s = execBcast g lane d a s := rfl
theorem exec_redw (g op ty d a b s) : exec (.redw g op ty d a b) s = execRedw g op ty d a b s := rfl
theorem exec_scanw (g op ty ex d a s) : exec (.scanw g op ty ex d a) s = execScanw g op ty ex d a s := rfl
theorem exec_topk (g n ty nf nz d a b s) : exec (.topk g n ty nf nz d a b) s = execTopk g n ty nf nz d a b s := rfl
theorem exec_merge (g ty d a b s) : exec (.merge g ty d a b) s = execMerge g ty d a b s := rfl
theorem exec_sortw (g ty desc d a s) : exec (.sortw g ty desc d a) s = execSortw g ty desc d a s := rfl
theorem exec_gbar (g op ty slot d a b s) : exec (.gbar g op ty slot d a b) s = execGbar g op ty slot d a b s := rfl
theorem exec_spawn (g cls k flush a s) : exec (.spawn g cls k flush a) s = execSpawn g cls k flush a s := rfl
theorem exec_join (g a b s) : exec (.join g a b) s = execJoin g a b s := rfl
theorem exec_jadd (g d a b s) : exec (.jadd g d a b) s = execJadd g d a b s := rfl
theorem exec_regs (g a s) : exec (.regs g a) s = execRegs g a s := rfl
theorem exec_launch (g d a s) : exec (.launch g d a) s = execLaunch g d a s := rfl
theorem exec_atom (g op ord d m s) : exec (.atom g op ord d m) s = execAtom g op ord d m s := rfl
theorem exec_cas (g ord d m s) : exec (.cas g ord d m) s = execCas g ord d m s := rfl
theorem exec_cas2 (g ord d m s) : exec (.cas2 g ord d m) s = execCas2 g ord d m s := rfl
theorem exec_lda (g d m s) : exec (.lda g d m) s = execLda g d m s := rfl
theorem exec_stl (g d m s) : exec (.stl g d m) s = execStl g d m s := rfl
theorem exec_phase (g kind scope s) : exec (.phase g kind scope) s = execPhase g kind scope s := rfl
theorem exec_cflush (g rl m s) : exec (.cflush g rl m) s = execCflush g rl m s := rfl
theorem exec_cinvl (g rl m s) : exec (.cinvl g rl m) s = execCinvl g rl m s := rfl
theorem exec_pref (g l2 m s) : exec (.pref g l2 m) s = execPref g l2 m s := rfl
theorem exec_lds (g fmt d m s) : exec (.lds g fmt d m) s = execLds g fmt d m s := rfl
theorem exec_sts (g fmt md d m s) : exec (.sts g fmt md d m) s = execSts g fmt md d m s := rfl
theorem exec_ldw (g sz d m s) : exec (.ldw g sz d m) s = execLdw g sz d m s := rfl
theorem exec_stw (g sz d m s) : exec (.stw g sz d m) s = execStw g sz d m s := rfl
theorem exec_chbind (g kind ch a s) : exec (.chbind g kind ch a) s = execChbind g kind ch a s := rfl
theorem exec_enq (g try_ d m s) : exec (.enq g try_ d m) s = execEnq g try_ d m s := rfl
theorem exec_deq (g try_ d m s) : exec (.deq g try_ d m) s = execDeq g try_ d m s := rfl
theorem exec_sld (g d h k s) : exec (.sld g d h k) s = execSld g d h k s := rfl
theorem exec_sst (g h k v s) : exec (.sst g h k v) s = execSst g h k v s := rfl
theorem exec_sadd (g op d h k v s) : exec (.sadd g op d h k v) s = execSadd g op d h k v s := rfl
theorem exec_sxch (g d h k v s) : exec (.sxch g d h k v) s = execSxch g d h k v s := rfl
theorem exec_scas (g d h k c s) : exec (.scas g d h k c) s = execScas g d h k c s := rfl
theorem exec_snext (g ge d h k s) : exec (.snext g ge d h k) s = execSnext g ge d h k s := rfl
theorem exec_sscan (g n ge lim d h k s) : exec (.sscan g n ge lim d h k) s = execSscan g n ge lim d h k s := rfl
theorem exec_sstat (g what all d h x s) : exec (.sstat g what all d h x) s = execSstat g what all d h x s := rfl
theorem exec_cpy (g tg d dst src gauge s) : exec (.cpy g tg d dst src gauge) s = execCpy g tg d dst src gauge s := rfl
theorem exec_cpyg (g slot tg d dst src gauge s) : exec (.cpyg g slot tg d dst src gauge) s = execCpyg g slot tg d dst src gauge s := rfl
theorem exec_cpym (g tg d dst src gauge follow s) : exec (.cpym g tg d dst src gauge follow) s = execCpym g tg d dst src gauge follow s := rfl
theorem exec_cpyd (g d cd gauge s) : exec (.cpyd g d cd gauge) s = execCpyd g d cd gauge s := rfl
theorem exec_cpys (g d cd gauge s) : exec (.cpys g d cd gauge) s = execCpys g d cd gauge s := rfl
theorem exec_cpyx (g d job gauge s) : exec (.cpyx g d job gauge) s = execCpyx g d job gauge s := rfl
theorem exec_gwait (g d gauge t s) : exec (.gwait g d gauge t) s = execGwait g d gauge t s := rfl
theorem exec_gtest (g d gauge t s) : exec (.gtest g d gauge t) s = execGtest g d gauge t s := rfl
theorem exec_garm (g slot gauge t h s) : exec (.garm g slot gauge t h) s = execGarm g slot gauge t h s := rfl
theorem exec_gdis (g slot d s) : exec (.gdis g slot d) s = execGdis g slot d s := rfl
theorem exec_cpyq (g d k s) : exec (.cpyq g d k) s = execCpyq g d k s := rfl
theorem exec_cpyqCancel (g d k s) : exec (.cpyqCancel g d k) s = execCpyqCancel g d k s := rfl
theorem exec_tshape (g t x s) : exec (.tshape g t x) s = execTshape g t x s := rfl
theorem exec_tld (g t r s) : exec (.tld g t r) s = execTld g t r s := rfl
theorem exec_tst (g t r s) : exec (.tst g t r) s = execTst g t r s := rfl
theorem exec_mma (g pair set blk acc ta tb s) : exec (.mma g pair set blk acc ta tb) s = execMma g pair set blk acc ta tb s := rfl
theorem exec_sacc (g f32 ad ap sa sb s) : exec (.sacc g f32 ad ap sa sb) s = execSacc g f32 ad ap sa sb s := rfl
theorem exec_acq (g acc s) : exec (.acq g acc) s = execAcq g acc s := rfl
theorem exec_rel (g acc s) : exec (.rel g acc) s = execRel g acc s := rfl
theorem exec_accout (g of rm acc off gauge desc s) : exec (.accout g of rm acc off gauge desc) s = execAccout g of rm acc off gauge desc s := rfl
theorem exec_accz (g i32 acc s) : exec (.accz g i32 acc) s = execAccz g i32 acc s := rfl
theorem exec_mfence (g d s) : exec (.mfence g d) s = execMfence g d s := rfl
theorem exec_mwait (g n s) : exec (.mwait g n) s = execMwait g n s := rfl
theorem exec_cbld (g off s) : exec (.cbld g off) s = execCbld g off s := rfl
theorem exec_sret (m s) : exec (.sret m) s = execSret m s := rfl
theorem exec_sretHost (m s) : exec (.sretHost m) s = execSretHost m s := rfl
theorem exec_pmap (g any d a b s) : exec (.pmap g any d a b) s = execPmap g any d a b s := rfl
theorem exec_pmapAttr (g d a b s) : exec (.pmapAttr g d a b) s = execPmapAttr g d a b s := rfl
theorem exec_pmapUnmap (g d a s) : exec (.pmapUnmap g d a) s = execPmapUnmap g d a s := rfl
theorem exec_pinv (g sz a s) : exec (.pinv g sz a) s = execPinv g sz a s := rfl
theorem exec_pinvAll (g s) : exec (.pinvAll g) s = execPinvAll g s := rfl
theorem exec_pmigStart (d a b s) : exec (.pmigStart d a b) s = execPmigStart d a b s := rfl
theorem exec_pmigStat (d a s) : exec (.pmigStat d a) s = execPmigStat d a s := rfl
theorem exec_icinvLine (a s) : exec (.icinvLine a) s = execIcinvLine a s := rfl
theorem exec_icinvPage (a s) : exec (.icinvPage a) s = execIcinvPage a s := rfl
theorem exec_icinvAsid (s) : exec (.icinvAsid) s = execIcinvAsid s := rfl
theorem exec_rdctlShb (w d s) : exec (.rdctlShb w d) s = execRdctlShb w d s := rfl
theorem exec_rdctlItab (w d s) : exec (.rdctlItab w d) s = execRdctlItab w d s := rfl
theorem exec_rdctlRbase (w d s) : exec (.rdctlRbase w d) s = execRdctlRbase w d s := rfl
theorem exec_rdctlRsize (w d s) : exec (.rdctlRsize w d) s = execRdctlRsize w d s := rfl
theorem exec_rdctlCtl (w d s) : exec (.rdctlCtl w d) s = execRdctlCtl w d s := rfl
theorem exec_rdctlRhead (w d s) : exec (.rdctlRhead w d) s = execRdctlRhead w d s := rfl
theorem exec_rdctlRtail (w d s) : exec (.rdctlRtail w d) s = execRdctlRtail w d s := rfl
theorem exec_rdctlRdrop (w d s) : exec (.rdctlRdrop w d) s = execRdctlRdrop w d s := rfl
theorem exec_sdeclCreate (g d a b s) : exec (.sdeclCreate g d a b) s = execSdeclCreate g d a b s := rfl
theorem exec_sdeclGrow (g d a b s) : exec (.sdeclGrow g d a b) s = execSdeclGrow g d a b s := rfl
theorem exec_sdeclRetire (g d a s) : exec (.sdeclRetire g d a) s = execSdeclRetire g d a s := rfl
theorem exec_gtblSpill (g d a b s) : exec (.gtblSpill g d a b) s = execGtblSpill g d a b s := rfl
theorem exec_gtblCont (g d a b s) : exec (.gtblCont g d a b) s = execGtblCont g d a b s := rfl
theorem exec_rep (count ds as bs cs s) : exec (.rep count ds as bs cs) s = execRep count ds as bs cs s := rfl
theorem exec_unassignedOpcode (w s) : exec (.unassignedOpcode w) s = execUnassignedOpcode w s := rfl
theorem exec_comparatorBreakpoint (w s) : exec (.comparatorBreakpoint w) s = execComparatorBreakpoint w s := rfl
theorem exec_spawnBinTimeout (die bin s) : exec (.spawnBinTimeout die bin) s = execSpawnBinTimeout die bin s := rfl
theorem exec_submissionLine (die s) : exec (.submissionLine die) s = execSubmissionLine die s := rfl
theorem exec_warpDispatch (die rec p slot s) : exec (.warpDispatch die rec p slot) s = execWarpDispatch die rec p slot s := rfl
theorem exec_warpRetirement (w s) : exec (.warpRetirement w) s = execWarpRetirement w s := rfl
theorem exec_loadCompletion (w s) : exec (.loadCompletion w) s = execLoadCompletion w s := rfl
theorem exec_rowGrant (p quad s) : exec (.rowGrant p quad) s = execRowGrant p quad s := rfl
theorem exec_eviction (p quad s) : exec (.eviction p quad) s = execEviction p quad s := rfl
theorem exec_gbarWaitYield (w s) : exec (.gbarWaitYield w) s = execGbarWaitYield w s := rfl
theorem exec_agingPromotion (die rec s) : exec (.agingPromotion die rec) s = execAgingPromotion die rec s := rfl
theorem exec_timeSliceExpiry (p s) : exec (.timeSliceExpiry p) s = execTimeSliceExpiry p s := rfl
theorem exec_contextStreamOut (p asid s) : exec (.contextStreamOut p asid) s = execContextStreamOut p asid s := rfl
theorem exec_contextRestore (p asid s) : exec (.contextRestore p asid) s = execContextRestore p asid s := rfl
theorem exec_copyBegin (p slot s) : exec (.copyBegin p slot) s = execCopyBegin p slot s := rfl
theorem exec_copyTransfer (p slot n s) : exec (.copyTransfer p slot n) s = execCopyTransfer p slot n s := rfl
theorem exec_copyCompletion (p slot s) : exec (.copyCompletion p slot) s = execCopyCompletion p slot s := rfl
theorem exec_copyFaultDelivery (w s) : exec (.copyFaultDelivery w) s = execCopyFaultDelivery w s := rfl
theorem exec_decoderOutput (p job s) : exec (.decoderOutput p job) s = execDecoderOutput p job s := rfl
theorem exec_decoderJobEnd (p job s) : exec (.decoderJobEnd p job) s = execDecoderJobEnd p job s := rfl
theorem exec_alarmDelivery (w s) : exec (.alarmDelivery w) s = execAlarmDelivery w s := rfl
theorem exec_mmaExecution (p s) : exec (.mmaExecution p) s = execMmaExecution p s := rfl
theorem exec_saccExecution (p s) : exec (.saccExecution p) s = execSaccExecution p s := rfl
theorem exec_acczExecution (p s) : exec (.acczExecution p) s = execAcczExecution p s := rfl
theorem exec_accoutExecution (p s) : exec (.accoutExecution p) s = execAccoutExecution p s := rfl
theorem exec_matrixNanTrapDelivery (w s) : exec (.matrixNanTrapDelivery w) s = execMatrixNanTrapDelivery w s := rfl
theorem exec_nanTrapDelivery (w s) : exec (.nanTrapDelivery w) s = execNanTrapDelivery w s := rfl
theorem exec_sparseEngineOperation (eng s) : exec (.sparseEngineOperation eng) s = execSparseEngineOperation eng s := rfl
theorem exec_nodeReclamation (eng s) : exec (.nodeReclamation eng) s = execNodeReclamation eng s := rfl
theorem exec_watchdogExpiry (w s) : exec (.watchdogExpiry w) s = execWatchdogExpiry w s := rfl
theorem exec_lostWriteMachineCheck (w addr s) : exec (.lostWriteMachineCheck w addr) s = execLostWriteMachineCheck w addr s := rfl
theorem exec_migrationLineMove (id s) : exec (.migrationLineMove id) s = execMigrationLineMove id s := rfl
theorem exec_migrationCompletion (id s) : exec (.migrationCompletion id) s = execMigrationCompletion id s := rfl
theorem exec_hostCxlMemRead (addr s) : exec (.hostCxlMemRead addr) s = execHostCxlMemRead addr s := rfl
theorem exec_hostCxlMemWrite (addr data s) : exec (.hostCxlMemWrite addr data) s = execHostCxlMemWrite addr data s := rfl
theorem exec_hostSnoopResponse (line s) : exec (.hostSnoopResponse line) s = execHostSnoopResponse line s := rfl
theorem exec_enqPortWrite (fn q data s) : exec (.enqPortWrite fn q data) s = execEnqPortWrite fn q data s := rfl
theorem exec_deqPortRead (fn q s) : exec (.deqPortRead fn q) s = execDeqPortRead fn q s := rfl
theorem exec_contextLive (fn asid s) : exec (.contextLive fn asid) s = execContextLive fn asid s := rfl
theorem exec_contextEnd (asid s) : exec (.contextEnd asid) s = execContextEnd asid s := rfl
theorem exec_hostWaitResume (asid id s) : exec (.hostWaitResume asid id) s = execHostWaitResume asid id s := rfl
theorem exec_hostWaitSkip (asid id s) : exec (.hostWaitSkip asid id) s = execHostWaitSkip asid id s := rfl
theorem exec_hostWaitExit (asid id s) : exec (.hostWaitExit asid id) s = execHostWaitExit asid id s := rfl
theorem exec_hostWaitReenter (asid id s) : exec (.hostWaitReenter asid id) s = execHostWaitReenter asid id s := rfl
theorem exec_fpoolWrite (die frame s) : exec (.fpoolWrite die frame) s = execFpoolWrite die frame s := rfl
theorem exec_fretWrite (w s) : exec (.fretWrite w) s = execFretWrite w s := rfl
theorem exec_frameFillCompletion (frame s) : exec (.frameFillCompletion frame) s = execFrameFillCompletion frame s := rfl
theorem exec_devnumWrite (n s) : exec (.devnumWrite n) s = execDevnumWrite n s := rfl
theorem exec_scrivenerMailboxRequest (fn asid addr size base s) : exec (.scrivenerMailboxRequest fn asid addr size base) s = execScrivenerMailboxRequest fn asid addr size base s := rfl
theorem exec_hubRegisterWrite (fn addr acc s) : exec (.hubRegisterWrite fn addr acc) s = execHubRegisterWrite fn addr acc s := rfl
theorem exec_bltctlWrite (w s) : exec (.bltctlWrite w) s = execBltctlWrite w s := rfl
theorem exec_blotiRisingEdge (s) : exec (.blotiRisingEdge) s = execBlotiRisingEdge s := rfl
theorem exec_bltcmpMatch (s) : exec (.bltcmpMatch) s = execBltcmpMatch s := rfl
theorem exec_lockInterfaceRequest (vf s) : exec (.lockInterfaceRequest vf) s = execLockInterfaceRequest vf s := rfl
theorem exec_startInterfaceRequest (vf s) : exec (.startInterfaceRequest vf) s = execStartInterfaceRequest vf s := rfl
theorem exec_stopInterfaceRequest (vf s) : exec (.stopInterfaceRequest vf) s = execStopInterfaceRequest vf s := rfl
theorem exec_interfaceBreach (vf s) : exec (.interfaceBreach vf) s = execInterfaceBreach vf s := rfl
theorem exec_coldReset (s) : exec (.coldReset) s = execColdReset s := rfl
theorem exec_warmReset (s) : exec (.warmReset) s = execWarmReset s := rfl
theorem exec_functionLevelReset (vf s) : exec (.functionLevelReset vf) s = execFunctionLevelReset vf s := rfl
theorem exec_dvfsPointSelect (die point s) : exec (.dvfsPointSelect die point) s = execDvfsPointSelect die point s := rfl
theorem exec_powerTrip (s) : exec (.powerTrip) s = execPowerTrip s := rfl
theorem exec_thermalLimit (die s) : exec (.thermalLimit die) s = execThermalLimit die s := rfl
theorem exec_thermtrip (s) : exec (.thermtrip) s = execThermtrip s := rfl
theorem exec_dieLinkRetrain (link s) : exec (.dieLinkRetrain link) s = execDieLinkRetrain link s := rfl
theorem exec_scaleupRequestTimeout (w s) : exec (.scaleupRequestTimeout w) s = execScaleupRequestTimeout w s := rfl
theorem exec_deviceUnreachable (dev s) : exec (.deviceUnreachable dev) s = execDeviceUnreachable dev s := rfl
theorem exec_linkRecalibration (link s) : exec (.linkRecalibration link) s = execLinkRecalibration link s := rfl
theorem exec_patrolScrub (line s) : exec (.patrolScrub line) s = execPatrolScrub line s := rfl
theorem exec_dramRefresh (die bank s) : exec (.dramRefresh die bank) s = execDramRefresh die bank s := rfl
theorem exec_telemetrySample (s) : exec (.telemetrySample) s = execTelemetrySample s := rfl
theorem exec_remoteDeviceRequest (dev op s) : exec (.remoteDeviceRequest dev op) s = execRemoteDeviceRequest dev op s := rfl
theorem exec_flitResend (link s) : exec (.flitResend link) s = execFlitResend link s := rfl
theorem exec_dieLinkRetrainComplete (link s) : exec (.dieLinkRetrainComplete link) s = execDieLinkRetrainComplete link s := rfl
theorem exec_scaleUpRouteTrained (dev s) : exec (.scaleUpRouteTrained dev) s = execScaleUpRouteTrained dev s := rfl
theorem exec_firmwareCoreAccess (core acc s) : exec (.firmwareCoreAccess core acc) s = execFirmwareCoreAccess core acc s := rfl
theorem exec_blotoPulseEnd (s) : exec (.blotoPulseEnd) s = execBlotoPulseEnd s := rfl

end Sys2Proof.Machine
end

