-- ==== Sys2Proof/Laws/State.lean ====
section
/-! SUPPORT. What each update of the state leaves alone: one lemma per field. -/

set_option Elab.async false

namespace Sys2Proof.Machine

@[simp] theorem putWarp_mem (s : State) (w : Warp) :
    (putWarp s w).mem = s.mem := rfl
@[simp] theorem putWarp_bad (s : State) (w : Warp) :
    (putWarp s w).bad = s.bad := rfl
@[simp] theorem putWarp_soft (s : State) (w : Warp) :
    (putWarp s w).soft = s.soft := rfl
@[simp] theorem putWarp_cores (s : State) (w : Warp) :
    (putWarp s w).cores = s.cores := rfl
@[simp] theorem putWarp_clusters (s : State) (w : Warp) :
    (putWarp s w).clusters = s.clusters := rfl
@[simp] theorem putWarp_dies (s : State) (w : Warp) :
    (putWarp s w).dies = s.dies := rfl
@[simp] theorem putWarp_ctxs (s : State) (w : Warp) :
    (putWarp s w).ctxs = s.ctxs := rfl
@[simp] theorem putWarp_launches (s : State) (w : Warp) :
    (putWarp s w).launches = s.launches := rfl
@[simp] theorem putWarp_crounds (s : State) (w : Warp) :
    (putWarp s w).crounds = s.crounds := rfl
@[simp] theorem putWarp_migs (s : State) (w : Warp) :
    (putWarp s w).migs = s.migs := rfl
@[simp] theorem putWarp_hub (s : State) (w : Warp) :
    (putWarp s w).hub = s.hub := rfl
@[simp] theorem putWarp_cycle (s : State) (w : Warp) :
    (putWarp s w).cycle = s.cycle := rfl
@[simp] theorem putWarp_nextUid (s : State) (w : Warp) :
    (putWarp s w).nextUid = s.nextUid := rfl
@[simp] theorem putWarp_nextRec (s : State) (w : Warp) :
    (putWarp s w).nextRec = s.nextRec := rfl
@[simp] theorem putWarp_agenda (s : State) (w : Warp) :
    (putWarp s w).agenda = s.agenda := rfl
@[simp] theorem putWarp_cur (s : State) (w : Warp) :
    (putWarp s w).cur = s.cur := rfl
@[simp] theorem putWarp_uncounted (s : State) (w : Warp) :
    (putWarp s w).uncounted = s.uncounted := rfl
@[simp] theorem putWarp_tick (s : State) (w : Warp) :
    (putWarp s w).tick = s.tick := rfl
@[simp] theorem putWarp_freeCtr (s : State) (w : Warp) :
    (putWarp s w).freeCtr = s.freeCtr := rfl
@[simp] theorem putWarp_suppUsed (s : State) (w : Warp) :
    (putWarp s w).suppUsed = s.suppUsed := rfl

@[simp] theorem updWarp_mem (s : State) (u : Nat) (f : Warp → Warp) :
    (updWarp s u f).mem = s.mem := rfl
@[simp] theorem updWarp_bad (s : State) (u : Nat) (f : Warp → Warp) :
    (updWarp s u f).bad = s.bad := rfl
@[simp] theorem updWarp_soft (s : State) (u : Nat) (f : Warp → Warp) :
    (updWarp s u f).soft = s.soft := rfl
@[simp] theorem updWarp_cores (s : State) (u : Nat) (f : Warp → Warp) :
    (updWarp s u f).cores = s.cores := rfl
@[simp] theorem updWarp_clusters (s : State) (u : Nat) (f : Warp → Warp) :
    (updWarp s u f).clusters = s.clusters := rfl
@[simp] theorem updWarp_dies (s : State) (u : Nat) (f : Warp → Warp) :
    (updWarp s u f).dies = s.dies := rfl
@[simp] theorem updWarp_ctxs (s : State) (u : Nat) (f : Warp → Warp) :
    (updWarp s u f).ctxs = s.ctxs := rfl
@[simp] theorem updWarp_launches (s : State) (u : Nat) (f : Warp → Warp) :
    (updWarp s u f).launches = s.launches := rfl
@[simp] theorem updWarp_crounds (s : State) (u : Nat) (f : Warp → Warp) :
    (updWarp s u f).crounds = s.crounds := rfl
@[simp] theorem updWarp_migs (s : State) (u : Nat) (f : Warp → Warp) :
    (updWarp s u f).migs = s.migs := rfl
@[simp] theorem updWarp_hub (s : State) (u : Nat) (f : Warp → Warp) :
    (updWarp s u f).hub = s.hub := rfl
@[simp] theorem updWarp_cycle (s : State) (u : Nat) (f : Warp → Warp) :
    (updWarp s u f).cycle = s.cycle := rfl
@[simp] theorem updWarp_nextUid (s : State) (u : Nat) (f : Warp → Warp) :
    (updWarp s u f).nextUid = s.nextUid := rfl
@[simp] theorem updWarp_nextRec (s : State) (u : Nat) (f : Warp → Warp) :
    (updWarp s u f).nextRec = s.nextRec := rfl
@[simp] theorem updWarp_agenda (s : State) (u : Nat) (f : Warp → Warp) :
    (updWarp s u f).agenda = s.agenda := rfl
@[simp] theorem updWarp_cur (s : State) (u : Nat) (f : Warp → Warp) :
    (updWarp s u f).cur = s.cur := rfl
@[simp] theorem updWarp_uncounted (s : State) (u : Nat) (f : Warp → Warp) :
    (updWarp s u f).uncounted = s.uncounted := rfl
@[simp] theorem updWarp_tick (s : State) (u : Nat) (f : Warp → Warp) :
    (updWarp s u f).tick = s.tick := rfl
@[simp] theorem updWarp_freeCtr (s : State) (u : Nat) (f : Warp → Warp) :
    (updWarp s u f).freeCtr = s.freeCtr := rfl
@[simp] theorem updWarp_suppUsed (s : State) (u : Nat) (f : Warp → Warp) :
    (updWarp s u f).suppUsed = s.suppUsed := rfl

@[simp] theorem dropWarp_mem (s : State) (u : Nat) :
    (dropWarp s u).mem = s.mem := rfl
@[simp] theorem dropWarp_bad (s : State) (u : Nat) :
    (dropWarp s u).bad = s.bad := rfl
@[simp] theorem dropWarp_soft (s : State) (u : Nat) :
    (dropWarp s u).soft = s.soft := rfl
@[simp] theorem dropWarp_cores (s : State) (u : Nat) :
    (dropWarp s u).cores = s.cores := rfl
@[simp] theorem dropWarp_clusters (s : State) (u : Nat) :
    (dropWarp s u).clusters = s.clusters := rfl
@[simp] theorem dropWarp_dies (s : State) (u : Nat) :
    (dropWarp s u).dies = s.dies := rfl
@[simp] theorem dropWarp_ctxs (s : State) (u : Nat) :
    (dropWarp s u).ctxs = s.ctxs := rfl
@[simp] theorem dropWarp_launches (s : State) (u : Nat) :
    (dropWarp s u).launches = s.launches := rfl
@[simp] theorem dropWarp_crounds (s : State) (u : Nat) :
    (dropWarp s u).crounds = s.crounds := rfl
@[simp] theorem dropWarp_migs (s : State) (u : Nat) :
    (dropWarp s u).migs = s.migs := rfl
@[simp] theorem dropWarp_hub (s : State) (u : Nat) :
    (dropWarp s u).hub = s.hub := rfl
@[simp] theorem dropWarp_cycle (s : State) (u : Nat) :
    (dropWarp s u).cycle = s.cycle := rfl
@[simp] theorem dropWarp_nextUid (s : State) (u : Nat) :
    (dropWarp s u).nextUid = s.nextUid := rfl
@[simp] theorem dropWarp_nextRec (s : State) (u : Nat) :
    (dropWarp s u).nextRec = s.nextRec := rfl
@[simp] theorem dropWarp_agenda (s : State) (u : Nat) :
    (dropWarp s u).agenda = s.agenda := rfl
@[simp] theorem dropWarp_cur (s : State) (u : Nat) :
    (dropWarp s u).cur = s.cur := rfl
@[simp] theorem dropWarp_uncounted (s : State) (u : Nat) :
    (dropWarp s u).uncounted = s.uncounted := rfl
@[simp] theorem dropWarp_tick (s : State) (u : Nat) :
    (dropWarp s u).tick = s.tick := rfl
@[simp] theorem dropWarp_freeCtr (s : State) (u : Nat) :
    (dropWarp s u).freeCtr = s.freeCtr := rfl
@[simp] theorem dropWarp_suppUsed (s : State) (u : Nat) :
    (dropWarp s u).suppUsed = s.suppUsed := rfl

@[simp] theorem putCore_mem (s : State) (c : Core) :
    (putCore s c).mem = s.mem := by unfold putCore; split <;> rfl
@[simp] theorem putCore_bad (s : State) (c : Core) :
    (putCore s c).bad = s.bad := by unfold putCore; split <;> rfl
@[simp] theorem putCore_soft (s : State) (c : Core) :
    (putCore s c).soft = s.soft := by unfold putCore; split <;> rfl
@[simp] theorem putCore_warps (s : State) (c : Core) :
    (putCore s c).warps = s.warps := by unfold putCore; split <;> rfl
@[simp] theorem putCore_clusters (s : State) (c : Core) :
    (putCore s c).clusters = s.clusters := by unfold putCore; split <;> rfl
@[simp] theorem putCore_dies (s : State) (c : Core) :
    (putCore s c).dies = s.dies := by unfold putCore; split <;> rfl
@[simp] theorem putCore_ctxs (s : State) (c : Core) :
    (putCore s c).ctxs = s.ctxs := by unfold putCore; split <;> rfl
@[simp] theorem putCore_launches (s : State) (c : Core) :
    (putCore s c).launches = s.launches := by unfold putCore; split <;> rfl
@[simp] theorem putCore_crounds (s : State) (c : Core) :
    (putCore s c).crounds = s.crounds := by unfold putCore; split <;> rfl
@[simp] theorem putCore_migs (s : State) (c : Core) :
    (putCore s c).migs = s.migs := by unfold putCore; split <;> rfl
@[simp] theorem putCore_hub (s : State) (c : Core) :
    (putCore s c).hub = s.hub := by unfold putCore; split <;> rfl
@[simp] theorem putCore_cycle (s : State) (c : Core) :
    (putCore s c).cycle = s.cycle := by unfold putCore; split <;> rfl
@[simp] theorem putCore_nextUid (s : State) (c : Core) :
    (putCore s c).nextUid = s.nextUid := by unfold putCore; split <;> rfl
@[simp] theorem putCore_nextRec (s : State) (c : Core) :
    (putCore s c).nextRec = s.nextRec := by unfold putCore; split <;> rfl
@[simp] theorem putCore_agenda (s : State) (c : Core) :
    (putCore s c).agenda = s.agenda := by unfold putCore; split <;> rfl
@[simp] theorem putCore_cur (s : State) (c : Core) :
    (putCore s c).cur = s.cur := by unfold putCore; split <;> rfl
@[simp] theorem putCore_uncounted (s : State) (c : Core) :
    (putCore s c).uncounted = s.uncounted := by unfold putCore; split <;> rfl
@[simp] theorem putCore_tick (s : State) (c : Core) :
    (putCore s c).tick = s.tick := by unfold putCore; split <;> rfl
@[simp] theorem putCore_freeCtr (s : State) (c : Core) :
    (putCore s c).freeCtr = s.freeCtr := by unfold putCore; split <;> rfl
@[simp] theorem putCore_suppUsed (s : State) (c : Core) :
    (putCore s c).suppUsed = s.suppUsed := by unfold putCore; split <;> rfl

@[simp] theorem updCore_mem (s : State) (p : Pos) (f : Core → Core) :
    (updCore s p f).mem = s.mem := by simp [updCore]
@[simp] theorem updCore_bad (s : State) (p : Pos) (f : Core → Core) :
    (updCore s p f).bad = s.bad := by simp [updCore]
@[simp] theorem updCore_soft (s : State) (p : Pos) (f : Core → Core) :
    (updCore s p f).soft = s.soft := by simp [updCore]
@[simp] theorem updCore_warps (s : State) (p : Pos) (f : Core → Core) :
    (updCore s p f).warps = s.warps := by simp [updCore]
@[simp] theorem updCore_clusters (s : State) (p : Pos) (f : Core → Core) :
    (updCore s p f).clusters = s.clusters := by simp [updCore]
@[simp] theorem updCore_dies (s : State) (p : Pos) (f : Core → Core) :
    (updCore s p f).dies = s.dies := by simp [updCore]
@[simp] theorem updCore_ctxs (s : State) (p : Pos) (f : Core → Core) :
    (updCore s p f).ctxs = s.ctxs := by simp [updCore]
@[simp] theorem updCore_launches (s : State) (p : Pos) (f : Core → Core) :
    (updCore s p f).launches = s.launches := by simp [updCore]
@[simp] theorem updCore_crounds (s : State) (p : Pos) (f : Core → Core) :
    (updCore s p f).crounds = s.crounds := by simp [updCore]
@[simp] theorem updCore_migs (s : State) (p : Pos) (f : Core → Core) :
    (updCore s p f).migs = s.migs := by simp [updCore]
@[simp] theorem updCore_hub (s : State) (p : Pos) (f : Core → Core) :
    (updCore s p f).hub = s.hub := by simp [updCore]
@[simp] theorem updCore_cycle (s : State) (p : Pos) (f : Core → Core) :
    (updCore s p f).cycle = s.cycle := by simp [updCore]
@[simp] theorem updCore_nextUid (s : State) (p : Pos) (f : Core → Core) :
    (updCore s p f).nextUid = s.nextUid := by simp [updCore]
@[simp] theorem updCore_nextRec (s : State) (p : Pos) (f : Core → Core) :
    (updCore s p f).nextRec = s.nextRec := by simp [updCore]
@[simp] theorem updCore_agenda (s : State) (p : Pos) (f : Core → Core) :
    (updCore s p f).agenda = s.agenda := by simp [updCore]
@[simp] theorem updCore_cur (s : State) (p : Pos) (f : Core → Core) :
    (updCore s p f).cur = s.cur := by simp [updCore]
@[simp] theorem updCore_uncounted (s : State) (p : Pos) (f : Core → Core) :
    (updCore s p f).uncounted = s.uncounted := by simp [updCore]
@[simp] theorem updCore_tick (s : State) (p : Pos) (f : Core → Core) :
    (updCore s p f).tick = s.tick := by simp [updCore]
@[simp] theorem updCore_freeCtr (s : State) (p : Pos) (f : Core → Core) :
    (updCore s p f).freeCtr = s.freeCtr := by simp [updCore]
@[simp] theorem updCore_suppUsed (s : State) (p : Pos) (f : Core → Core) :
    (updCore s p f).suppUsed = s.suppUsed := by simp [updCore]

@[simp] theorem updCoreCtx_mem (s : State) (p : Pos) (a : Nat) (f : CoreState → CoreState) :
    (updCoreCtx s p a f).mem = s.mem := by simp [updCoreCtx]
@[simp] theorem updCoreCtx_bad (s : State) (p : Pos) (a : Nat) (f : CoreState → CoreState) :
    (updCoreCtx s p a f).bad = s.bad := by simp [updCoreCtx]
@[simp] theorem updCoreCtx_soft (s : State) (p : Pos) (a : Nat) (f : CoreState → CoreState) :
    (updCoreCtx s p a f).soft = s.soft := by simp [updCoreCtx]
@[simp] theorem updCoreCtx_warps (s : State) (p : Pos) (a : Nat) (f : CoreState → CoreState) :
    (updCoreCtx s p a f).warps = s.warps := by simp [updCoreCtx]
@[simp] theorem updCoreCtx_clusters (s : State) (p : Pos) (a : Nat) (f : CoreState → CoreState) :
    (updCoreCtx s p a f).clusters = s.clusters := by simp [updCoreCtx]
@[simp] theorem updCoreCtx_dies (s : State) (p : Pos) (a : Nat) (f : CoreState → CoreState) :
    (updCoreCtx s p a f).dies = s.dies := by simp [updCoreCtx]
@[simp] theorem updCoreCtx_ctxs (s : State) (p : Pos) (a : Nat) (f : CoreState → CoreState) :
    (updCoreCtx s p a f).ctxs = s.ctxs := by simp [updCoreCtx]
@[simp] theorem updCoreCtx_launches (s : State) (p : Pos) (a : Nat) (f : CoreState → CoreState) :
    (updCoreCtx s p a f).launches = s.launches := by simp [updCoreCtx]
@[simp] theorem updCoreCtx_crounds (s : State) (p : Pos) (a : Nat) (f : CoreState → CoreState) :
    (updCoreCtx s p a f).crounds = s.crounds := by simp [updCoreCtx]
@[simp] theorem updCoreCtx_migs (s : State) (p : Pos) (a : Nat) (f : CoreState → CoreState) :
    (updCoreCtx s p a f).migs = s.migs := by simp [updCoreCtx]
@[simp] theorem updCoreCtx_hub (s : State) (p : Pos) (a : Nat) (f : CoreState → CoreState) :
    (updCoreCtx s p a f).hub = s.hub := by simp [updCoreCtx]
@[simp] theorem updCoreCtx_cycle (s : State) (p : Pos) (a : Nat) (f : CoreState → CoreState) :
    (updCoreCtx s p a f).cycle = s.cycle := by simp [updCoreCtx]
@[simp] theorem updCoreCtx_nextUid (s : State) (p : Pos) (a : Nat) (f : CoreState → CoreState) :
    (updCoreCtx s p a f).nextUid = s.nextUid := by simp [updCoreCtx]
@[simp] theorem updCoreCtx_nextRec (s : State) (p : Pos) (a : Nat) (f : CoreState → CoreState) :
    (updCoreCtx s p a f).nextRec = s.nextRec := by simp [updCoreCtx]
@[simp] theorem updCoreCtx_agenda (s : State) (p : Pos) (a : Nat) (f : CoreState → CoreState) :
    (updCoreCtx s p a f).agenda = s.agenda := by simp [updCoreCtx]
@[simp] theorem updCoreCtx_cur (s : State) (p : Pos) (a : Nat) (f : CoreState → CoreState) :
    (updCoreCtx s p a f).cur = s.cur := by simp [updCoreCtx]
@[simp] theorem updCoreCtx_uncounted (s : State) (p : Pos) (a : Nat) (f : CoreState → CoreState) :
    (updCoreCtx s p a f).uncounted = s.uncounted := by simp [updCoreCtx]
@[simp] theorem updCoreCtx_tick (s : State) (p : Pos) (a : Nat) (f : CoreState → CoreState) :
    (updCoreCtx s p a f).tick = s.tick := by simp [updCoreCtx]
@[simp] theorem updCoreCtx_freeCtr (s : State) (p : Pos) (a : Nat) (f : CoreState → CoreState) :
    (updCoreCtx s p a f).freeCtr = s.freeCtr := by simp [updCoreCtx]
@[simp] theorem updCoreCtx_suppUsed (s : State) (p : Pos) (a : Nat) (f : CoreState → CoreState) :
    (updCoreCtx s p a f).suppUsed = s.suppUsed := by simp [updCoreCtx]

@[simp] theorem putCluster_mem (s : State) (c : Cluster) :
    (putCluster s c).mem = s.mem := by unfold putCluster; split <;> rfl
@[simp] theorem putCluster_bad (s : State) (c : Cluster) :
    (putCluster s c).bad = s.bad := by unfold putCluster; split <;> rfl
@[simp] theorem putCluster_soft (s : State) (c : Cluster) :
    (putCluster s c).soft = s.soft := by unfold putCluster; split <;> rfl
@[simp] theorem putCluster_warps (s : State) (c : Cluster) :
    (putCluster s c).warps = s.warps := by unfold putCluster; split <;> rfl
@[simp] theorem putCluster_cores (s : State) (c : Cluster) :
    (putCluster s c).cores = s.cores := by unfold putCluster; split <;> rfl
@[simp] theorem putCluster_dies (s : State) (c : Cluster) :
    (putCluster s c).dies = s.dies := by unfold putCluster; split <;> rfl
@[simp] theorem putCluster_ctxs (s : State) (c : Cluster) :
    (putCluster s c).ctxs = s.ctxs := by unfold putCluster; split <;> rfl
@[simp] theorem putCluster_launches (s : State) (c : Cluster) :
    (putCluster s c).launches = s.launches := by unfold putCluster; split <;> rfl
@[simp] theorem putCluster_crounds (s : State) (c : Cluster) :
    (putCluster s c).crounds = s.crounds := by unfold putCluster; split <;> rfl
@[simp] theorem putCluster_migs (s : State) (c : Cluster) :
    (putCluster s c).migs = s.migs := by unfold putCluster; split <;> rfl
@[simp] theorem putCluster_hub (s : State) (c : Cluster) :
    (putCluster s c).hub = s.hub := by unfold putCluster; split <;> rfl
@[simp] theorem putCluster_cycle (s : State) (c : Cluster) :
    (putCluster s c).cycle = s.cycle := by unfold putCluster; split <;> rfl
@[simp] theorem putCluster_nextUid (s : State) (c : Cluster) :
    (putCluster s c).nextUid = s.nextUid := by unfold putCluster; split <;> rfl
@[simp] theorem putCluster_nextRec (s : State) (c : Cluster) :
    (putCluster s c).nextRec = s.nextRec := by unfold putCluster; split <;> rfl
@[simp] theorem putCluster_agenda (s : State) (c : Cluster) :
    (putCluster s c).agenda = s.agenda := by unfold putCluster; split <;> rfl
@[simp] theorem putCluster_cur (s : State) (c : Cluster) :
    (putCluster s c).cur = s.cur := by unfold putCluster; split <;> rfl
@[simp] theorem putCluster_uncounted (s : State) (c : Cluster) :
    (putCluster s c).uncounted = s.uncounted := by unfold putCluster; split <;> rfl
@[simp] theorem putCluster_tick (s : State) (c : Cluster) :
    (putCluster s c).tick = s.tick := by unfold putCluster; split <;> rfl
@[simp] theorem putCluster_freeCtr (s : State) (c : Cluster) :
    (putCluster s c).freeCtr = s.freeCtr := by unfold putCluster; split <;> rfl
@[simp] theorem putCluster_suppUsed (s : State) (c : Cluster) :
    (putCluster s c).suppUsed = s.suppUsed := by unfold putCluster; split <;> rfl

@[simp] theorem updCluster_mem (s : State) (p : Pos) (f : Cluster → Cluster) :
    (updCluster s p f).mem = s.mem := by simp [updCluster]
@[simp] theorem updCluster_bad (s : State) (p : Pos) (f : Cluster → Cluster) :
    (updCluster s p f).bad = s.bad := by simp [updCluster]
@[simp] theorem updCluster_soft (s : State) (p : Pos) (f : Cluster → Cluster) :
    (updCluster s p f).soft = s.soft := by simp [updCluster]
@[simp] theorem updCluster_warps (s : State) (p : Pos) (f : Cluster → Cluster) :
    (updCluster s p f).warps = s.warps := by simp [updCluster]
@[simp] theorem updCluster_cores (s : State) (p : Pos) (f : Cluster → Cluster) :
    (updCluster s p f).cores = s.cores := by simp [updCluster]
@[simp] theorem updCluster_dies (s : State) (p : Pos) (f : Cluster → Cluster) :
    (updCluster s p f).dies = s.dies := by simp [updCluster]
@[simp] theorem updCluster_ctxs (s : State) (p : Pos) (f : Cluster → Cluster) :
    (updCluster s p f).ctxs = s.ctxs := by simp [updCluster]
@[simp] theorem updCluster_launches (s : State) (p : Pos) (f : Cluster → Cluster) :
    (updCluster s p f).launches = s.launches := by simp [updCluster]
@[simp] theorem updCluster_crounds (s : State) (p : Pos) (f : Cluster → Cluster) :
    (updCluster s p f).crounds = s.crounds := by simp [updCluster]
@[simp] theorem updCluster_migs (s : State) (p : Pos) (f : Cluster → Cluster) :
    (updCluster s p f).migs = s.migs := by simp [updCluster]
@[simp] theorem updCluster_hub (s : State) (p : Pos) (f : Cluster → Cluster) :
    (updCluster s p f).hub = s.hub := by simp [updCluster]
@[simp] theorem updCluster_cycle (s : State) (p : Pos) (f : Cluster → Cluster) :
    (updCluster s p f).cycle = s.cycle := by simp [updCluster]
@[simp] theorem updCluster_nextUid (s : State) (p : Pos) (f : Cluster → Cluster) :
    (updCluster s p f).nextUid = s.nextUid := by simp [updCluster]
@[simp] theorem updCluster_nextRec (s : State) (p : Pos) (f : Cluster → Cluster) :
    (updCluster s p f).nextRec = s.nextRec := by simp [updCluster]
@[simp] theorem updCluster_agenda (s : State) (p : Pos) (f : Cluster → Cluster) :
    (updCluster s p f).agenda = s.agenda := by simp [updCluster]
@[simp] theorem updCluster_cur (s : State) (p : Pos) (f : Cluster → Cluster) :
    (updCluster s p f).cur = s.cur := by simp [updCluster]
@[simp] theorem updCluster_uncounted (s : State) (p : Pos) (f : Cluster → Cluster) :
    (updCluster s p f).uncounted = s.uncounted := by simp [updCluster]
@[simp] theorem updCluster_tick (s : State) (p : Pos) (f : Cluster → Cluster) :
    (updCluster s p f).tick = s.tick := by simp [updCluster]
@[simp] theorem updCluster_freeCtr (s : State) (p : Pos) (f : Cluster → Cluster) :
    (updCluster s p f).freeCtr = s.freeCtr := by simp [updCluster]
@[simp] theorem updCluster_suppUsed (s : State) (p : Pos) (f : Cluster → Cluster) :
    (updCluster s p f).suppUsed = s.suppUsed := by simp [updCluster]

@[simp] theorem updDie_mem (s : State) (n : Nat) (f : Die → Die) :
    (updDie s n f).mem = s.mem := rfl
@[simp] theorem updDie_bad (s : State) (n : Nat) (f : Die → Die) :
    (updDie s n f).bad = s.bad := rfl
@[simp] theorem updDie_soft (s : State) (n : Nat) (f : Die → Die) :
    (updDie s n f).soft = s.soft := rfl
@[simp] theorem updDie_warps (s : State) (n : Nat) (f : Die → Die) :
    (updDie s n f).warps = s.warps := rfl
@[simp] theorem updDie_cores (s : State) (n : Nat) (f : Die → Die) :
    (updDie s n f).cores = s.cores := rfl
@[simp] theorem updDie_clusters (s : State) (n : Nat) (f : Die → Die) :
    (updDie s n f).clusters = s.clusters := rfl
@[simp] theorem updDie_ctxs (s : State) (n : Nat) (f : Die → Die) :
    (updDie s n f).ctxs = s.ctxs := rfl
@[simp] theorem updDie_launches (s : State) (n : Nat) (f : Die → Die) :
    (updDie s n f).launches = s.launches := rfl
@[simp] theorem updDie_crounds (s : State) (n : Nat) (f : Die → Die) :
    (updDie s n f).crounds = s.crounds := rfl
@[simp] theorem updDie_migs (s : State) (n : Nat) (f : Die → Die) :
    (updDie s n f).migs = s.migs := rfl
@[simp] theorem updDie_hub (s : State) (n : Nat) (f : Die → Die) :
    (updDie s n f).hub = s.hub := rfl
@[simp] theorem updDie_cycle (s : State) (n : Nat) (f : Die → Die) :
    (updDie s n f).cycle = s.cycle := rfl
@[simp] theorem updDie_nextUid (s : State) (n : Nat) (f : Die → Die) :
    (updDie s n f).nextUid = s.nextUid := rfl
@[simp] theorem updDie_nextRec (s : State) (n : Nat) (f : Die → Die) :
    (updDie s n f).nextRec = s.nextRec := rfl
@[simp] theorem updDie_agenda (s : State) (n : Nat) (f : Die → Die) :
    (updDie s n f).agenda = s.agenda := rfl
@[simp] theorem updDie_cur (s : State) (n : Nat) (f : Die → Die) :
    (updDie s n f).cur = s.cur := rfl
@[simp] theorem updDie_uncounted (s : State) (n : Nat) (f : Die → Die) :
    (updDie s n f).uncounted = s.uncounted := rfl
@[simp] theorem updDie_tick (s : State) (n : Nat) (f : Die → Die) :
    (updDie s n f).tick = s.tick := rfl
@[simp] theorem updDie_freeCtr (s : State) (n : Nat) (f : Die → Die) :
    (updDie s n f).freeCtr = s.freeCtr := rfl
@[simp] theorem updDie_suppUsed (s : State) (n : Nat) (f : Die → Die) :
    (updDie s n f).suppUsed = s.suppUsed := rfl

@[simp] theorem putCtx_mem (s : State) (c : Ctx) :
    (putCtx s c).mem = s.mem := by unfold putCtx; split <;> rfl
@[simp] theorem putCtx_bad (s : State) (c : Ctx) :
    (putCtx s c).bad = s.bad := by unfold putCtx; split <;> rfl
@[simp] theorem putCtx_soft (s : State) (c : Ctx) :
    (putCtx s c).soft = s.soft := by unfold putCtx; split <;> rfl
@[simp] theorem putCtx_warps (s : State) (c : Ctx) :
    (putCtx s c).warps = s.warps := by unfold putCtx; split <;> rfl
@[simp] theorem putCtx_cores (s : State) (c : Ctx) :
    (putCtx s c).cores = s.cores := by unfold putCtx; split <;> rfl
@[simp] theorem putCtx_clusters (s : State) (c : Ctx) :
    (putCtx s c).clusters = s.clusters := by unfold putCtx; split <;> rfl
@[simp] theorem putCtx_dies (s : State) (c : Ctx) :
    (putCtx s c).dies = s.dies := by unfold putCtx; split <;> rfl
@[simp] theorem putCtx_launches (s : State) (c : Ctx) :
    (putCtx s c).launches = s.launches := by unfold putCtx; split <;> rfl
@[simp] theorem putCtx_crounds (s : State) (c : Ctx) :
    (putCtx s c).crounds = s.crounds := by unfold putCtx; split <;> rfl
@[simp] theorem putCtx_migs (s : State) (c : Ctx) :
    (putCtx s c).migs = s.migs := by unfold putCtx; split <;> rfl
@[simp] theorem putCtx_hub (s : State) (c : Ctx) :
    (putCtx s c).hub = s.hub := by unfold putCtx; split <;> rfl
@[simp] theorem putCtx_cycle (s : State) (c : Ctx) :
    (putCtx s c).cycle = s.cycle := by unfold putCtx; split <;> rfl
@[simp] theorem putCtx_nextUid (s : State) (c : Ctx) :
    (putCtx s c).nextUid = s.nextUid := by unfold putCtx; split <;> rfl
@[simp] theorem putCtx_nextRec (s : State) (c : Ctx) :
    (putCtx s c).nextRec = s.nextRec := by unfold putCtx; split <;> rfl
@[simp] theorem putCtx_agenda (s : State) (c : Ctx) :
    (putCtx s c).agenda = s.agenda := by unfold putCtx; split <;> rfl
@[simp] theorem putCtx_cur (s : State) (c : Ctx) :
    (putCtx s c).cur = s.cur := by unfold putCtx; split <;> rfl
@[simp] theorem putCtx_uncounted (s : State) (c : Ctx) :
    (putCtx s c).uncounted = s.uncounted := by unfold putCtx; split <;> rfl
@[simp] theorem putCtx_tick (s : State) (c : Ctx) :
    (putCtx s c).tick = s.tick := by unfold putCtx; split <;> rfl
@[simp] theorem putCtx_freeCtr (s : State) (c : Ctx) :
    (putCtx s c).freeCtr = s.freeCtr := by unfold putCtx; split <;> rfl
@[simp] theorem putCtx_suppUsed (s : State) (c : Ctx) :
    (putCtx s c).suppUsed = s.suppUsed := by unfold putCtx; split <;> rfl

@[simp] theorem updCtx_mem (s : State) (a : Nat) (f : Ctx → Ctx) :
    (updCtx s a f).mem = s.mem := by simp [updCtx]
@[simp] theorem updCtx_bad (s : State) (a : Nat) (f : Ctx → Ctx) :
    (updCtx s a f).bad = s.bad := by simp [updCtx]
@[simp] theorem updCtx_soft (s : State) (a : Nat) (f : Ctx → Ctx) :
    (updCtx s a f).soft = s.soft := by simp [updCtx]
@[simp] theorem updCtx_warps (s : State) (a : Nat) (f : Ctx → Ctx) :
    (updCtx s a f).warps = s.warps := by simp [updCtx]
@[simp] theorem updCtx_cores (s : State) (a : Nat) (f : Ctx → Ctx) :
    (updCtx s a f).cores = s.cores := by simp [updCtx]
@[simp] theorem updCtx_clusters (s : State) (a : Nat) (f : Ctx → Ctx) :
    (updCtx s a f).clusters = s.clusters := by simp [updCtx]
@[simp] theorem updCtx_dies (s : State) (a : Nat) (f : Ctx → Ctx) :
    (updCtx s a f).dies = s.dies := by simp [updCtx]
@[simp] theorem updCtx_launches (s : State) (a : Nat) (f : Ctx → Ctx) :
    (updCtx s a f).launches = s.launches := by simp [updCtx]
@[simp] theorem updCtx_crounds (s : State) (a : Nat) (f : Ctx → Ctx) :
    (updCtx s a f).crounds = s.crounds := by simp [updCtx]
@[simp] theorem updCtx_migs (s : State) (a : Nat) (f : Ctx → Ctx) :
    (updCtx s a f).migs = s.migs := by simp [updCtx]
@[simp] theorem updCtx_hub (s : State) (a : Nat) (f : Ctx → Ctx) :
    (updCtx s a f).hub = s.hub := by simp [updCtx]
@[simp] theorem updCtx_cycle (s : State) (a : Nat) (f : Ctx → Ctx) :
    (updCtx s a f).cycle = s.cycle := by simp [updCtx]
@[simp] theorem updCtx_nextUid (s : State) (a : Nat) (f : Ctx → Ctx) :
    (updCtx s a f).nextUid = s.nextUid := by simp [updCtx]
@[simp] theorem updCtx_nextRec (s : State) (a : Nat) (f : Ctx → Ctx) :
    (updCtx s a f).nextRec = s.nextRec := by simp [updCtx]
@[simp] theorem updCtx_agenda (s : State) (a : Nat) (f : Ctx → Ctx) :
    (updCtx s a f).agenda = s.agenda := by simp [updCtx]
@[simp] theorem updCtx_cur (s : State) (a : Nat) (f : Ctx → Ctx) :
    (updCtx s a f).cur = s.cur := by simp [updCtx]
@[simp] theorem updCtx_uncounted (s : State) (a : Nat) (f : Ctx → Ctx) :
    (updCtx s a f).uncounted = s.uncounted := by simp [updCtx]
@[simp] theorem updCtx_tick (s : State) (a : Nat) (f : Ctx → Ctx) :
    (updCtx s a f).tick = s.tick := by simp [updCtx]
@[simp] theorem updCtx_freeCtr (s : State) (a : Nat) (f : Ctx → Ctx) :
    (updCtx s a f).freeCtr = s.freeCtr := by simp [updCtx]
@[simp] theorem updCtx_suppUsed (s : State) (a : Nat) (f : Ctx → Ctx) :
    (updCtx s a f).suppUsed = s.suppUsed := by simp [updCtx]

@[simp] theorem updLaunch_mem (s : State) (a n : Nat) (f : Launch → Launch) :
    (updLaunch s a n f).mem = s.mem := rfl
@[simp] theorem updLaunch_bad (s : State) (a n : Nat) (f : Launch → Launch) :
    (updLaunch s a n f).bad = s.bad := rfl
@[simp] theorem updLaunch_soft (s : State) (a n : Nat) (f : Launch → Launch) :
    (updLaunch s a n f).soft = s.soft := rfl
@[simp] theorem updLaunch_warps (s : State) (a n : Nat) (f : Launch → Launch) :
    (updLaunch s a n f).warps = s.warps := rfl
@[simp] theorem updLaunch_cores (s : State) (a n : Nat) (f : Launch → Launch) :
    (updLaunch s a n f).cores = s.cores := rfl
@[simp] theorem updLaunch_clusters (s : State) (a n : Nat) (f : Launch → Launch) :
    (updLaunch s a n f).clusters = s.clusters := rfl
@[simp] theorem updLaunch_dies (s : State) (a n : Nat) (f : Launch → Launch) :
    (updLaunch s a n f).dies = s.dies := rfl
@[simp] theorem updLaunch_ctxs (s : State) (a n : Nat) (f : Launch → Launch) :
    (updLaunch s a n f).ctxs = s.ctxs := rfl
@[simp] theorem updLaunch_crounds (s : State) (a n : Nat) (f : Launch → Launch) :
    (updLaunch s a n f).crounds = s.crounds := rfl
@[simp] theorem updLaunch_migs (s : State) (a n : Nat) (f : Launch → Launch) :
    (updLaunch s a n f).migs = s.migs := rfl
@[simp] theorem updLaunch_hub (s : State) (a n : Nat) (f : Launch → Launch) :
    (updLaunch s a n f).hub = s.hub := rfl
@[simp] theorem updLaunch_cycle (s : State) (a n : Nat) (f : Launch → Launch) :
    (updLaunch s a n f).cycle = s.cycle := rfl
@[simp] theorem updLaunch_nextUid (s : State) (a n : Nat) (f : Launch → Launch) :
    (updLaunch s a n f).nextUid = s.nextUid := rfl
@[simp] theorem updLaunch_nextRec (s : State) (a n : Nat) (f : Launch → Launch) :
    (updLaunch s a n f).nextRec = s.nextRec := rfl
@[simp] theorem updLaunch_agenda (s : State) (a n : Nat) (f : Launch → Launch) :
    (updLaunch s a n f).agenda = s.agenda := rfl
@[simp] theorem updLaunch_cur (s : State) (a n : Nat) (f : Launch → Launch) :
    (updLaunch s a n f).cur = s.cur := rfl
@[simp] theorem updLaunch_uncounted (s : State) (a n : Nat) (f : Launch → Launch) :
    (updLaunch s a n f).uncounted = s.uncounted := rfl
@[simp] theorem updLaunch_tick (s : State) (a n : Nat) (f : Launch → Launch) :
    (updLaunch s a n f).tick = s.tick := rfl
@[simp] theorem updLaunch_freeCtr (s : State) (a n : Nat) (f : Launch → Launch) :
    (updLaunch s a n f).freeCtr = s.freeCtr := rfl
@[simp] theorem updLaunch_suppUsed (s : State) (a n : Nat) (f : Launch → Launch) :
    (updLaunch s a n f).suppUsed = s.suppUsed := rfl

@[simp] theorem updHub_mem (s : State) (f : Hub → Hub) :
    (updHub s f).mem = s.mem := rfl
@[simp] theorem updHub_bad (s : State) (f : Hub → Hub) :
    (updHub s f).bad = s.bad := rfl
@[simp] theorem updHub_soft (s : State) (f : Hub → Hub) :
    (updHub s f).soft = s.soft := rfl
@[simp] theorem updHub_warps (s : State) (f : Hub → Hub) :
    (updHub s f).warps = s.warps := rfl
@[simp] theorem updHub_cores (s : State) (f : Hub → Hub) :
    (updHub s f).cores = s.cores := rfl
@[simp] theorem updHub_clusters (s : State) (f : Hub → Hub) :
    (updHub s f).clusters = s.clusters := rfl
@[simp] theorem updHub_dies (s : State) (f : Hub → Hub) :
    (updHub s f).dies = s.dies := rfl
@[simp] theorem updHub_ctxs (s : State) (f : Hub → Hub) :
    (updHub s f).ctxs = s.ctxs := rfl
@[simp] theorem updHub_launches (s : State) (f : Hub → Hub) :
    (updHub s f).launches = s.launches := rfl
@[simp] theorem updHub_crounds (s : State) (f : Hub → Hub) :
    (updHub s f).crounds = s.crounds := rfl
@[simp] theorem updHub_migs (s : State) (f : Hub → Hub) :
    (updHub s f).migs = s.migs := rfl
@[simp] theorem updHub_cycle (s : State) (f : Hub → Hub) :
    (updHub s f).cycle = s.cycle := rfl
@[simp] theorem updHub_nextUid (s : State) (f : Hub → Hub) :
    (updHub s f).nextUid = s.nextUid := rfl
@[simp] theorem updHub_nextRec (s : State) (f : Hub → Hub) :
    (updHub s f).nextRec = s.nextRec := rfl
@[simp] theorem updHub_agenda (s : State) (f : Hub → Hub) :
    (updHub s f).agenda = s.agenda := rfl
@[simp] theorem updHub_cur (s : State) (f : Hub → Hub) :
    (updHub s f).cur = s.cur := rfl
@[simp] theorem updHub_uncounted (s : State) (f : Hub → Hub) :
    (updHub s f).uncounted = s.uncounted := rfl
@[simp] theorem updHub_tick (s : State) (f : Hub → Hub) :
    (updHub s f).tick = s.tick := rfl
@[simp] theorem updHub_freeCtr (s : State) (f : Hub → Hub) :
    (updHub s f).freeCtr = s.freeCtr := rfl
@[simp] theorem updHub_suppUsed (s : State) (f : Hub → Hub) :
    (updHub s f).suppUsed = s.suppUsed := rfl

end Sys2Proof.Machine
end

