-- ==== Sys2Proof/Laws/Issue.lean ====
section
/-! SUPPORT. What the shared ways of carrying out an instruction do once its checks pass. -/

set_option Elab.async false

namespace Sys2Proof.Machine

/-- The channel values a replay keeps. -/
theorem replayPopped_eq (w : Warp) : replayPopped w = w.kept.1 := by
  unfold replayPopped Warp.kept; cases w.replay <;> rfl

/-- The lanes' values a replay keeps. -/
theorem replayPart_eq (w : Warp) : replayPart w = w.kept.2 := by
  unfold replayPart Warp.kept; cases w.replay <;> rfl

/-- The lanes' results with those of an earlier execution. -/
theorem withPart_eq (r : Ready) (l : List (Nat × LaneRes)) : withPart r l = l ++ earlier r.w := by
  unfold withPart earlier replayPart Warp.kept; cases r.w.replay <;> rfl

/-- An accepted word is carried out. -/
theorem issue_accepts {s t : State} {i : Ins} {r : Ready} (h : Accepts s i t r) (k : State → Ready → State) :
    issue s i k = .next (k t r) := by
  obtain ⟨h1, ha, hb, hc, h2, h3, h4, h5, h6, h7, h8, h9⟩ := h
  rcases r with ⟨w, eff, vec, ops, popped, whole⟩
  simp only at *
  subst h4; subst h2; subst hc
  have hm : (i.priv && !w.sup && !skipped w) = false := by
    cases hp : i.priv
    · simp
    · simp [h5 hp]
  rw [replayPopped_eq] at h9
  unfold dstReady at h9
  simp only [issue, h1, ha, hb, hm, h6, h7, h8, h3, Bool.false_and, Bool.false_eq_true, if_false, Bool.not_true,
    beq_iff_eq]
  split <;> (rename_i he; cases h9.symm.trans he)
  rfl

/-- Lanes that all have a result raise no fault and none diverts. -/
theorem laneFaults_ok {l : List (Nat × LaneRes)} (h : ∀ p ∈ l, ∃ vs fl n, p.2 = .ok vs fl n) :
    laneFaults l = [] ∧ laneDivs l = [] := by
  constructor <;>
  · simp only [laneFaults, laneDivs, List.filterMap_eq_nil_iff]
    intro p hp
    obtain ⟨vs, fl, n, e⟩ := h p hp
    simp [e]

/-- Results of every lane: what `finish` does. -/
theorem finish_ok {s t : State} {i : Ins} {r : Ready} {n : Fin} {l : List (Nat × LaneRes)}
    (h : ∀ p ∈ l, ∃ vs fl n, p.2 = .ok vs fl n) :
    finish s t i r n l = lanesDone t r i n.traps l := by
  obtain ⟨h1, h2⟩ := laneFaults_ok h
  simp only [lanesDone, finish, h1, h2, worstFault, List.isEmpty_nil, ite_true, nanReport, withPart_eq]
  cases n.traps <;> by_cases hn : (nanLanes l == 0#32) = true <;> simp [hn]

/-- The lanes of a table entry, as results. -/
theorem out_ok {L : LaneSpec} {r : Ready} (h : L.ok r) : ∀ p ∈ L.out r, ∃ vs fl n, p.2 = .ok vs fl n := by
  intro p hp
  simp only [LaneSpec.out, List.mem_map] at hp
  obtain ⟨k, hk, e⟩ := hp
  obtain ⟨vs, fl, n, he⟩ := h k hk
  subst e
  exact ⟨vs, fl, n, by simp [he]⟩

/-- `finish` over the results of a table entry. -/
theorem finish_laneDone {s t : State} {r : Ready} {L : LaneSpec} {n : Fin} (hn : n.traps = L.traps)
    (h : L.ok r) : finish s t L.ins r n (L.out r) = laneDone t r L := by
  rw [finish_ok (out_ok h), hn]; rfl

/-- A lane instruction whose lanes compute what the table says. -/
theorem pureIns_done {s t : State} {r : Ready} {L : LaneSpec} {n : Fin} {op : Ready → Nat → LaneRes}
    (ha : Accepts s L.ins t r) (h : L.ok r) (hn : n.traps = L.traps) (hon : L.on r = execLanes r)
    (he : ∀ k ∈ execLanes r, ∀ x, L.res r k = some x → op r k = x) :
    pureIns s L.ins n op = .next (laneDone t r L) := by
  rw [pureIns, issue_accepts ha]
  have : (execLanes r).map (fun k => (k, op r k)) = L.out r := by
    simp only [LaneSpec.out, hon]
    apply List.map_congr_left
    intro k hk
    obtain ⟨vs, fl, n, e⟩ := h k (hon ▸ hk)
    rw [e, he k hk _ e]; rfl
  rw [this, finish_laneDone hn h]

end Sys2Proof.Machine
end

