-- ==== Sys2Proof/Laws/Memory.lean ====
section
/-! SUPPORT. Sparse maps and memory: reading after writing, and the canonical form. -/

set_option Elab.async false

namespace Sys2Proof.Machine

/-! ### Sparse maps -/

section Sparse

variable {α : Type} [DecidableEq α] {d : α}

theorem spWfFrom_mono {lo hi : Nat} {l : List (Nat × α)} (h : hi ≤ lo) (w : spWfFrom d lo l = true) :
    spWfFrom d hi l = true := by
  cases l with
  | nil => rfl
  | cons p l =>
    simp only [spWfFrom, Bool.and_eq_true, decide_eq_true_eq] at *
    exact ⟨⟨by omega, w.1.2⟩, w.2⟩

/-- Below its first key a map reads as the default. -/
theorem spGet_below {lo a : Nat} {l : List (Nat × α)} (w : spWfFrom d lo l = true) (h : a < lo) :
    spGet d l a = d := by
  cases l with
  | nil => rfl
  | cons p l =>
    simp [spWfFrom] at w
    simp [spGet]
    split
    · omega
    · split
      · rfl
      · omega

theorem spSet_wfFrom (a : Nat) (x : α) : ∀ {l : List (Nat × α)} {lo : Nat}, spWfFrom d lo l = true → lo ≤ a →
    spWfFrom d lo (spSet d l a x) = true
  | [], lo, _, h => by
    simp only [spSet]
    split
    · rfl
    · simpa [spWfFrom] using ⟨h, ‹_›⟩
  | (k, v) :: l, lo, w, h => by
    simp [spWfFrom] at w
    obtain ⟨⟨hk, hv⟩, hl⟩ := w
    simp only [spSet]
    split
    · split
      · simp [spWfFrom, hk, hv, hl]
      · rename_i h1 h2
        simp only [spWfFrom, Bool.and_eq_true, decide_eq_true_eq]
        exact ⟨⟨h, h2⟩, ⟨by omega, hv⟩, hl⟩
    · split
      · split
        · exact spWfFrom_mono (by omega) hl
        · rename_i h1 h2 h3
          have e : a = k := by simpa using h2
          subst e
          simp only [spWfFrom, Bool.and_eq_true, decide_eq_true_eq]
          exact ⟨⟨h, h3⟩, hl⟩
      · rename_i h1 h2
        have e : a ≠ k := by simpa using h2
        simp only [spWfFrom, Bool.and_eq_true, decide_eq_true_eq]
        exact ⟨⟨hk, hv⟩, spSet_wfFrom a x hl (by omega)⟩

/-- Every update keeps the canonical form. -/
theorem spSet_wf (a : Nat) (x : α) {l : List (Nat × α)} (w : spWf d l = true) : spWf d (spSet d l a x) = true :=
  spSet_wfFrom a x w (Nat.zero_le _)

/-- Reading the key just written. -/
theorem spGet_spSet_same (a : Nat) (x : α) : ∀ {l : List (Nat × α)} {lo : Nat}, spWfFrom d lo l = true →
    spGet d (spSet d l a x) a = x
  | [], _, _ => by
    simp only [spSet]
    split
    · exact (‹x = d›).symm
    · simp [spGet]
  | (k, v) :: l, lo, w => by
    simp [spWfFrom] at w
    obtain ⟨⟨hk, hv⟩, hl⟩ := w
    simp only [spSet]
    split
    · split
      · rename_i h1 h2
        subst h2
        have e : a ≠ k := by omega
        simp [spGet, e, h1]
      · simp [spGet]
    · split
      · rename_i h1 h2
        simp at h2
        split
        · rename_i h3; subst h3; exact spGet_below hl (by omega)
        · simp [spGet]
      · rename_i h1 h2
        simp at h2
        simp [spGet, h2, h1, spGet_spSet_same a x hl]

/-- Reading any other key. -/
theorem spGet_spSet_other {a b : Nat} (x : α) (h : b ≠ a) : ∀ {l : List (Nat × α)} {lo : Nat},
    spWfFrom d lo l = true → spGet d (spSet d l a x) b = spGet d l b
  | [], _, _ => by
    simp only [spSet]
    split
    · rfl
    · simp [spGet, h]
  | (k, v) :: l, lo, w => by
    simp [spWfFrom] at w
    obtain ⟨⟨hk, hv⟩, hl⟩ := w
    simp only [spSet]
    split
    · split
      · rfl
      · rename_i h1 _
        by_cases hb : b < a
        · have : b ≠ k := by omega
          have h3 : b < k := by omega
          simp [spGet, h, hb, this, h3]
        · simp [spGet, h, hb]
    · split
      · rename_i h1 h2
        simp at h2
        split
        · subst h2
          by_cases hb : b < a
          · simp [spGet, h, hb, spGet_below hl (show b < a + 1 by omega)]
          · simp [spGet, h, hb]
        · subst h2; simp [spGet, h]
      · rename_i h1 h2
        simp [spGet, spGet_spSet_other x h hl]

end Sparse

/-! ### Bytes -/

theorem cellsSet_wf : ∀ (n a x : Nat) {l : List Host.Cell}, spWf 0#8 l = true → spWf 0#8 (cellsSet l a n x) = true
  | 0, _, _, _, w => w
  | n + 1, a, x, _, w => cellsSet_wf n (a + 1) (x / 256) (spSet_wf a _ w)

/-- A byte outside the bytes written reads as before. -/
theorem cellsSet_other : ∀ (n a x : Nat) {l : List Host.Cell} {b : Nat}, spWf 0#8 l = true → b < a ∨ a + n ≤ b →
    spGet 0#8 (cellsSet l a n x) b = spGet 0#8 l b
  | 0, _, _, _, _, _, _ => rfl
  | n + 1, a, x, l, b, w, h => by
    rw [cellsSet, cellsSet_other n (a + 1) (x / 256) (spSet_wf a _ w) (by omega)]
    exact spGet_spSet_other _ (by omega) w

/-- Bytes outside the bytes written read as before. -/
theorem cellsGet_cellsSet_other : ∀ (k b n a x : Nat) {l : List Host.Cell}, spWf 0#8 l = true →
    b + k ≤ a ∨ a + n ≤ b → cellsGet (cellsSet l a n x) b k = cellsGet l b k
  | 0, _, _, _, _, _, _, _ => rfl
  | k + 1, b, n, a, x, l, w, h => by
    simp only [cellsGet]
    rw [cellsSet_other n a x w (by omega), cellsGet_cellsSet_other k (b + 1) n a x w (by omega)]

/-- The bytes written read as the low bytes of the value. -/
theorem cellsGet_cellsSet : ∀ (n a x : Nat) {l : List Host.Cell}, spWf 0#8 l = true →
    cellsGet (cellsSet l a n x) a n = x % 256 ^ n
  | 0, _, x, _, _ => by simp [cellsGet, Nat.mod_one]
  | n + 1, a, x, l, w => by
    have w1 := spSet_wf a (BitVec.ofNat 8 x) w
    simp only [cellsGet, cellsSet]
    rw [cellsSet_other n (a + 1) (x / 256) w1 (by omega), spGet_spSet_same a _ w,
      cellsGet_cellsSet n (a + 1) (x / 256) w1, Nat.pow_succ, Nat.mul_comm (256 ^ n), Nat.mod_mul]
    simp

/-! ### Memory -/

theorem memStore_wf {m : Memory} (a n x : Nat) (w : m.wf = true) : (memStore m a n x).wf = true := by
  simp only [Memory.wf, Bool.and_eq_true] at *
  exact ⟨cellsSet_wf n a x w.1, w.2⟩

theorem memSetTag_wf {m : Memory} (a : Nat) (t : BitVec 4) (w : m.wf = true) : (memSetTag m a t).wf = true := by
  simp only [Memory.wf, Bool.and_eq_true] at *
  exact ⟨w.1, spSet_wf _ _ w.2⟩

/-- A store keeps the canonical form. -/
theorem memPut_wf {m : Memory} (a n x : Nat) (t : Option (BitVec 4)) (w : m.wf = true) :
    (memPut m a n x t).wf = true := by
  cases t with
  | none => exact memStore_wf a n x w
  | some t => exact memSetTag_wf a t (memStore_wf a n x w)

theorem foldl_wf {β : Type} (f : Memory → β → Memory) (h : ∀ m b, m.wf = true → (f m b).wf = true) :
    ∀ (l : List β) {m : Memory}, m.wf = true → (l.foldl f m).wf = true
  | [], _, w => w
  | b :: l, _, w => foldl_wf f h l (h _ b w)

/-- Moving a line keeps the canonical form. -/
theorem memCopyLine_wf {m : Memory} (src dst : Nat) (w : m.wf = true) : (memCopyLine m src dst).wf = true :=
  foldl_wf _ (fun _ _ w => memPut_wf _ _ _ _ w) _ w

theorem spWfFrom_filter {α : Type} [DecidableEq α] {d : α} (p : Nat × α → Bool) :
    ∀ {l : List (Nat × α)} {lo : Nat}, spWfFrom d lo l = true → spWfFrom d lo (l.filter p) = true
  | [], _, _ => rfl
  | (k, v) :: l, lo, w => by
    simp [spWfFrom] at w
    obtain ⟨⟨hk, hv⟩, hl⟩ := w
    have h := spWfFrom_filter p hl
    by_cases hp : p (k, v) = true
    · simp [hp, spWfFrom, hk, hv, h]
    · simp [hp]; exact spWfFrom_mono (by omega) h

/-- Filling with zeros keeps the canonical form. -/
theorem memZero_wf {m : Memory} (a n : Nat) (w : m.wf = true) : (memZero m a n).wf = true := by
  simp only [Memory.wf, Bool.and_eq_true, spWf] at *
  exact ⟨spWfFrom_filter _ w.1, spWfFrom_filter _ w.2⟩

/-- Bytes that a destroyed key leaves unreadable keep the canonical form, whatever they read as. -/
theorem memScramble_wf {m : Memory} (a n : Nat) (x : Nat → Byte) (w : m.wf = true) : (memScramble m a n x).wf = true := by
  simp only [Memory.wf, Bool.and_eq_true] at *
  refine ⟨?_, w.2⟩
  show spWf 0#8 ((List.range n).foldl (fun l k => spSet 0#8 l (a + k) (x k)) m.bytes) = true
  generalize List.range n = ks
  have h : spWf 0#8 m.bytes = true := w.1
  revert h
  generalize m.bytes = l
  induction ks generalizing l with
  | nil => exact id
  | cons k ks ih => exact fun h => ih _ (spSet_wf _ _ h)

theorem putWords_wf (a : Nat) (t : Nat → Option (BitVec 4)) : ∀ (l : List Nat) (k : Nat) {m : Memory}, m.wf = true →
    (putWords m a t k l).wf = true
  | [], _, _, w => w
  | _ :: l, k, _, w => putWords_wf a t l (k + 1) (memPut_wf _ _ _ _ w)

/-- Words that the host writes lose their tags; the form stays. -/
theorem rawTags_wf {m : Memory} (a n : Nat) (w : m.wf = true) : (rawTags m a n).wf = true := by
  unfold rawTags
  split
  · exact w
  · exact foldl_wf _ (fun _ _ w => memSetTag_wf _ _ w) _ w

theorem cellsPut_wf (f : Nat → Nat) (a n : Nat) : ∀ (l : List Host.Cell) {m : List Host.Cell}, spWf 0#8 m = true →
    spWf 0#8 (cellsPut f a n l m) = true
  | [], _, w => w
  | c :: l, m, w => by
    have h : spWf 0#8 (if c.1 < n then spSet 0#8 m (f (a + c.1)) c.2 else m) = true := by
      split
      · exact spSet_wf _ _ w
      · exact w
    exact cellsPut_wf f a n l h

/-- A core image written to memory keeps the canonical form. -/
theorem imageMem_wf {m : Memory} (f : Nat → Nat) (b : Nat) (c : CoreState) (ws : List (Nat × List Val))
    (w : m.wf = true) : (imageMem m f b c ws).wf = true := by
  refine foldl_wf _ (fun _ _ w => foldl_wf _ (fun _ _ w => memPut_wf _ _ _ _ w) _ w) _ ?_
  simp only [Memory.wf, Bool.and_eq_true] at *
  exact ⟨cellsPut_wf _ _ _ _ (cellsPut_wf _ _ _ _ (cellsPut_wf _ _ _ _ w.1)), w.2⟩

@[simp] theorem memPut_bytes (m : Memory) (a n x : Nat) (t : Option (BitVec 4)) :
    (memPut m a n x t).bytes = cellsSet m.bytes a n x := by cases t <;> rfl

/-- What was stored is read back. -/
theorem memLoad_memPut {m : Memory} (a n x : Nat) (t : Option (BitVec 4)) (w : m.wf = true) :
    memLoad (memPut m a n x t) a n = x % 256 ^ n := by
  simp only [Memory.wf, Bool.and_eq_true] at w
  simp [memLoad, cellsGet_cellsSet n a x w.1]

/-- A store leaves every byte outside it. -/
theorem memByte_memPut_other {m : Memory} {a n x b : Nat} (t : Option (BitVec 4)) (w : m.wf = true)
    (h : b < a ∨ a + n ≤ b) : memByte (memPut m a n x t) b = memByte m b := by
  simp only [Memory.wf, Bool.and_eq_true] at w
  simp [memByte, cellsSet_other n a x w.1 h]

theorem memLoad_memPut_other {m : Memory} {a n x b k : Nat} (t : Option (BitVec 4)) (w : m.wf = true)
    (h : b + k ≤ a ∨ a + n ≤ b) : memLoad (memPut m a n x t) b k = memLoad m b k := by
  simp only [Memory.wf, Bool.and_eq_true] at w
  simp [memLoad, cellsGet_cellsSet_other k b n a x w.1 h]

/-- A store with a tag sets the tag of its word. -/
theorem memTag_memPut {m : Memory} (a n x : Nat) (t : BitVec 4) (w : m.wf = true) :
    memTag (memPut m a n x (some t)) a = t := by
  simp only [Memory.wf, Bool.and_eq_true] at w
  simp only [memTag, memPut, memSetTag, memStore]
  exact spGet_spSet_same _ _ w.2

/-- The tags of other words stay. -/
theorem memTag_memPut_other {m : Memory} {a n x b : Nat} (t : Option (BitVec 4)) (w : m.wf = true)
    (h : b / 8 ≠ a / 8) : memTag (memPut m a n x t) b = memTag m b := by
  simp only [Memory.wf, Bool.and_eq_true] at w
  cases t with
  | none => rfl
  | some t => simp only [memTag, memPut, memSetTag, memStore]; exact spGet_spSet_other _ h w.2

end Sys2Proof.Machine
end

