-- ==== Sys2Proof/Laws/PerInstr.lean ====
section
/-! SUPPORT. Decoding the fields of a well-formed instruction gives it back: one lemma for each opcode, then one for
each constructor. -/

set_option Elab.async false

namespace Sys2Proof

set_option maxRecDepth 2000

theorem opcode_01 {r : Raw} (h : r.op = 0x01#8) : decodeRaw r = (do modIs r 0; decDAB r .add) :=
  decodeRaw_at (by rw [h]; rfl) 0 0 rfl rfl rfl
theorem opcode_02 {r : Raw} (h : r.op = 0x02#8) : decodeRaw r = (do modIs r 0; decDAB r .sub) :=
  decodeRaw_at (by rw [h]; rfl) 0 1 rfl rfl rfl
theorem opcode_03 {r : Raw} (h : r.op = 0x03#8) : decodeRaw r = (do modIs r 0; decDAB r .mul) :=
  decodeRaw_at (by rw [h]; rfl) 0 2 rfl rfl rfl
theorem opcode_04 {r : Raw} (h : r.op = 0x04#8) : decodeRaw r = (do modIs r 0; decDAB r .div) :=
  decodeRaw_at (by rw [h]; rfl) 0 3 rfl rfl rfl
theorem opcode_05 {r : Raw} (h : r.op = 0x05#8) : decodeRaw r = (do modIs r 0; decDAB r .idiv) :=
  decodeRaw_at (by rw [h]; rfl) 0 4 rfl rfl rfl
theorem opcode_06 {r : Raw} (h : r.op = 0x06#8) : decodeRaw r = (do modIs r 0; decDAB r .mod) :=
  decodeRaw_at (by rw [h]; rfl) 0 5 rfl rfl rfl
theorem opcode_07 {r : Raw} (h : r.op = 0x07#8) : decodeRaw r = (do modIs r 0; decDA r .neg) :=
  decodeRaw_at (by rw [h]; rfl) 0 6 rfl rfl rfl
theorem opcode_08 {r : Raw} (h : r.op = 0x08#8) : decodeRaw r = (do modIs r 0; decDA r .abs) :=
  decodeRaw_at (by rw [h]; rfl) 0 7 rfl rfl rfl
theorem opcode_09 {r : Raw} (h : r.op = 0x09#8) : decodeRaw r = (do modIs r 0; decDAB r .min) :=
  decodeRaw_at (by rw [h]; rfl) 0 8 rfl rfl rfl
theorem opcode_0A {r : Raw} (h : r.op = 0x0A#8) : decodeRaw r = (do modIs r 0; decDAB r .max) :=
  decodeRaw_at (by rw [h]; rfl) 0 9 rfl rfl rfl
theorem opcode_0B {r : Raw} (h : r.op = 0x0B#8) : decodeRaw r = (do modIs r 0; decDAB r .ceq) :=
  decodeRaw_at (by rw [h]; rfl) 0 10 rfl rfl rfl
theorem opcode_0C {r : Raw} (h : r.op = 0x0C#8) : decodeRaw r = (do modIs r 0; decDAB r .cne) :=
  decodeRaw_at (by rw [h]; rfl) 0 11 rfl rfl rfl
theorem opcode_0D {r : Raw} (h : r.op = 0x0D#8) : decodeRaw r = (do modIs r 0; decDAB r .clt) :=
  decodeRaw_at (by rw [h]; rfl) 0 12 rfl rfl rfl
theorem opcode_0E {r : Raw} (h : r.op = 0x0E#8) : decodeRaw r = (do modIs r 0; decDAB r .cle) :=
  decodeRaw_at (by rw [h]; rfl) 0 13 rfl rfl rfl
theorem opcode_0F {r : Raw} (h : r.op = 0x0F#8) : decodeRaw r = (do modIs r 0; decDA r .truth) :=
  decodeRaw_at (by rw [h]; rfl) 0 14 rfl rfl rfl
theorem opcode_10 {r : Raw} (h : r.op = 0x10#8) : decodeRaw r = (do modIs r 0; decDA r .tagof) :=
  decodeRaw_at (by rw [h]; rfl) 0 15 rfl rfl rfl
theorem opcode_11 {r : Raw} (h : r.op = 0x11#8) : decodeRaw r = decTagset r :=
  decodeRaw_at (by rw [h]; rfl) 0 16 rfl rfl rfl
theorem opcode_12 {r : Raw} (h : r.op = 0x12#8) : decodeRaw r = (do modIs r 0; decDAB r .tagis) :=
  decodeRaw_at (by rw [h]; rfl) 0 17 rfl rfl rfl
theorem opcode_13 {r : Raw} (h : r.op = 0x13#8) : decodeRaw r = (do modIs r 0; decDA r .mov) :=
  decodeRaw_at (by rw [h]; rfl) 0 18 rfl rfl rfl
theorem opcode_14 {r : Raw} (h : r.op = 0x14#8) : decodeRaw r = (do let ov ← orMod (Ov.ofCode r.md.toNat); decDAB r (.iadd · ov)) :=
  decodeRaw_at (by rw [h]; rfl) 1 0 rfl rfl rfl
theorem opcode_15 {r : Raw} (h : r.op = 0x15#8) : decodeRaw r = (do let ov ← orMod (Ov.ofCode r.md.toNat); decDAB r (.isub · ov)) :=
  decodeRaw_at (by rw [h]; rfl) 1 1 rfl rfl rfl
theorem opcode_16 {r : Raw} (h : r.op = 0x16#8) : decodeRaw r = (do let ov ← orMod (Ov.ofCode r.md.toNat); decDAB r (.imul · ov)) :=
  decodeRaw_at (by rw [h]; rfl) 1 2 rfl rfl rfl
theorem opcode_17 {r : Raw} (h : r.op = 0x17#8) : decodeRaw r = (do let u ← decBit r; decDAB r (.imulh · u)) :=
  decodeRaw_at (by rw [h]; rfl) 1 3 rfl rfl rfl
theorem opcode_18 {r : Raw} (h : r.op = 0x18#8) : decodeRaw r = (do let u ← decBit r; decDAB r (.idivt · u)) :=
  decodeRaw_at (by rw [h]; rfl) 1 4 rfl rfl rfl
theorem opcode_19 {r : Raw} (h : r.op = 0x19#8) : decodeRaw r = (do let u ← decBit r; decDAB r (.iremt · u)) :=
  decodeRaw_at (by rw [h]; rfl) 1 5 rfl rfl rfl
theorem opcode_1A {r : Raw} (h : r.op = 0x1A#8) : decodeRaw r = (do let ov ← orMod (Ov.ofCode r.md.toNat); decDABC r (.imad · ov)) :=
  decodeRaw_at (by rw [h]; rfl) 1 6 rfl rfl rfl
theorem opcode_1B {r : Raw} (h : r.op = 0x1B#8) : decodeRaw r = (do modIs r 0; decDAB r .and) :=
  decodeRaw_at (by rw [h]; rfl) 1 7 rfl rfl rfl
theorem opcode_1C {r : Raw} (h : r.op = 0x1C#8) : decodeRaw r = (do modIs r 0; decDAB r .or) :=
  decodeRaw_at (by rw [h]; rfl) 1 8 rfl rfl rfl
theorem opcode_1D {r : Raw} (h : r.op = 0x1D#8) : decodeRaw r = (do modIs r 0; decDAB r .xor) :=
  decodeRaw_at (by rw [h]; rfl) 1 9 rfl rfl rfl
theorem opcode_1E {r : Raw} (h : r.op = 0x1E#8) : decodeRaw r = (do modIs r 0; decDAB r .andn) :=
  decodeRaw_at (by rw [h]; rfl) 1 10 rfl rfl rfl
theorem opcode_1F {r : Raw} (h : r.op = 0x1F#8) : decodeRaw r = (do modIs r 0; decDA r .not) :=
  decodeRaw_at (by rw [h]; rfl) 1 11 rfl rfl rfl
theorem opcode_20 {r : Raw} (h : r.op = 0x20#8) : decodeRaw r = (do let w ← decBit r; decDAB r (.shl · w)) :=
  decodeRaw_at (by rw [h]; rfl) 1 12 rfl rfl rfl
theorem opcode_21 {r : Raw} (h : r.op = 0x21#8) : decodeRaw r = (do let w ← decBit r; decDAB r (.shr · w)) :=
  decodeRaw_at (by rw [h]; rfl) 1 13 rfl rfl rfl
theorem opcode_22 {r : Raw} (h : r.op = 0x22#8) : decodeRaw r = (do let w ← decBit r; decDAB r (.sar · w)) :=
  decodeRaw_at (by rw [h]; rfl) 1 14 rfl rfl rfl
theorem opcode_23 {r : Raw} (h : r.op = 0x23#8) : decodeRaw r = (do modIs r 0; decDAB r .rol) :=
  decodeRaw_at (by rw [h]; rfl) 1 15 rfl rfl rfl
theorem opcode_24 {r : Raw} (h : r.op = 0x24#8) : decodeRaw r = (do modIs r 0; decDA r .popc) :=
  decodeRaw_at (by rw [h]; rfl) 1 16 rfl rfl rfl
theorem opcode_25 {r : Raw} (h : r.op = 0x25#8) : decodeRaw r = (do modIs r 0; decDA r .clz) :=
  decodeRaw_at (by rw [h]; rfl) 1 17 rfl rfl rfl
theorem opcode_26 {r : Raw} (h : r.op = 0x26#8) : decodeRaw r = (do modIs r 0; decDA r .ctz) :=
  decodeRaw_at (by rw [h]; rfl) 1 18 rfl rfl rfl
theorem opcode_27 {r : Raw} (h : r.op = 0x27#8) : decodeRaw r = (do modIs r 0; decDA r .brev) :=
  decodeRaw_at (by rw [h]; rfl) 1 19 rfl rfl rfl
theorem opcode_28 {r : Raw} (h : r.op = 0x28#8) : decodeRaw r = (do let x ← decBit r; decDAB r (.bfx · x)) :=
  decodeRaw_at (by rw [h]; rfl) 1 20 rfl rfl rfl
theorem opcode_29 {r : Raw} (h : r.op = 0x29#8) : decodeRaw r = (do modIs r 0; decDABC r .bfi) :=
  decodeRaw_at (by rw [h]; rfl) 1 21 rfl rfl rfl
theorem opcode_2A {r : Raw} (h : r.op = 0x2A#8) : decodeRaw r = (do modIs r 0; decDAB r .imin) :=
  decodeRaw_at (by rw [h]; rfl) 1 22 rfl rfl rfl
theorem opcode_2B {r : Raw} (h : r.op = 0x2B#8) : decodeRaw r = (do modIs r 0; decDAB r .imax) :=
  decodeRaw_at (by rw [h]; rfl) 1 23 rfl rfl rfl
theorem opcode_2C {r : Raw} (h : r.op = 0x2C#8) : decodeRaw r = (do modIs r 0; decDAB r .nmin) :=
  decodeRaw_at (by rw [h]; rfl) 1 24 rfl rfl rfl
theorem opcode_2D {r : Raw} (h : r.op = 0x2D#8) : decodeRaw r = (do modIs r 0; decDAB r .nmax) :=
  decodeRaw_at (by rw [h]; rfl) 1 25 rfl rfl rfl
theorem opcode_2E {r : Raw} (h : r.op = 0x2E#8) : decodeRaw r = (do let c ← orMod (Cnd.ofCode r.md.toNat); decDAB r (.icmp · c)) :=
  decodeRaw_at (by rw [h]; rfl) 1 26 rfl rfl rfl
theorem opcode_2F {r : Raw} (h : r.op = 0x2F#8) : decodeRaw r = (do let s ← decBit r; decDABC r (.sel · s)) :=
  decodeRaw_at (by rw [h]; rfl) 1 27 rfl rfl rfl
theorem opcode_30 {r : Raw} (h : r.op = 0x30#8) : decodeRaw r = (do modBelow r 4; decDABC r (.lea · (r.md.extractLsb' 0 2))) :=
  decodeRaw_at (by rw [h]; rfl) 1 28 rfl rfl rfl
theorem opcode_40 {r : Raw} (h : r.op = 0x40#8) : decodeRaw r = (do let p ← decFRm r; decDAB r (.fadd · p.1 p.2)) :=
  decodeRaw_at (by rw [h]; rfl) 2 0 rfl rfl rfl
theorem opcode_41 {r : Raw} (h : r.op = 0x41#8) : decodeRaw r = (do let p ← decFRm r; decDAB r (.fsub · p.1 p.2)) :=
  decodeRaw_at (by rw [h]; rfl) 2 1 rfl rfl rfl
theorem opcode_42 {r : Raw} (h : r.op = 0x42#8) : decodeRaw r = (do let p ← decFRm r; decDAB r (.fmul · p.1 p.2)) :=
  decodeRaw_at (by rw [h]; rfl) 2 2 rfl rfl rfl
theorem opcode_44 {r : Raw} (h : r.op = 0x44#8) : decodeRaw r = (do let p ← decFRm r; decDAB r (.fdiv · p.1 p.2)) :=
  decodeRaw_at (by rw [h]; rfl) 2 3 rfl rfl rfl
theorem opcode_43 {r : Raw} (h : r.op = 0x43#8) : decodeRaw r = (do let p ← decFRm r; decDABC r (.ffma · p.1 p.2)) :=
  decodeRaw_at (by rw [h]; rfl) 2 4 rfl rfl rfl
theorem opcode_45 {r : Raw} (h : r.op = 0x45#8) : decodeRaw r = (do let p ← decFRm r; decDA r (.fsqrt · p.1 p.2)) :=
  decodeRaw_at (by rw [h]; rfl) 2 5 rfl rfl rfl
theorem opcode_49 {r : Raw} (h : r.op = 0x49#8) : decodeRaw r = (do let p ← decFRm r; decDA r (.frnd · p.1 p.2)) :=
  decodeRaw_at (by rw [h]; rfl) 2 6 rfl rfl rfl
theorem opcode_46 {r : Raw} (h : r.op = 0x46#8) : decodeRaw r = (do let p ← decP r; decDAB r (.fmin · p)) :=
  decodeRaw_at (by rw [h]; rfl) 2 7 rfl rfl rfl
theorem opcode_47 {r : Raw} (h : r.op = 0x47#8) : decodeRaw r = (do let p ← decP r; decDAB r (.fmax · p)) :=
  decodeRaw_at (by rw [h]; rfl) 2 8 rfl rfl rfl
theorem opcode_48 {r : Raw} (h : r.op = 0x48#8) : decodeRaw r = (do modBelow r 16; let c ← orMod (FCnd.ofCode (r.md.toNat % 8)); decDAB r (.fcmp · (bitN r.md.toNat 3) c)) :=
  decodeRaw_at (by rw [h]; rfl) 2 9 rfl rfl rfl
theorem opcode_4A {r : Raw} (h : r.op = 0x4A#8) : decodeRaw r = (do let p ← decP r; decDA r (.fabs · p)) :=
  decodeRaw_at (by rw [h]; rfl) 2 10 rfl rfl rfl
theorem opcode_4B {r : Raw} (h : r.op = 0x4B#8) : decodeRaw r = (do let p ← decP r; decDA r (.fneg · p)) :=
  decodeRaw_at (by rw [h]; rfl) 2 11 rfl rfl rfl
theorem opcode_4C {r : Raw} (h : r.op = 0x4C#8) : decodeRaw r = (do let p ← decP r; decDA r (.log2 · p)) :=
  decodeRaw_at (by rw [h]; rfl) 2 12 rfl rfl rfl
theorem opcode_4D {r : Raw} (h : r.op = 0x4D#8) : decodeRaw r = (do let p ← decP r; decDA r (.exp2 · p)) :=
  decodeRaw_at (by rw [h]; rfl) 2 13 rfl rfl rfl
theorem opcode_4E {r : Raw} (h : r.op = 0x4E#8) : decodeRaw r = (do let p ← decP r; decDA r (.rcp · p)) :=
  decodeRaw_at (by rw [h]; rfl) 2 14 rfl rfl rfl
theorem opcode_4F {r : Raw} (h : r.op = 0x4F#8) : decodeRaw r = (do let p ← decP r; decDA r (.rsq · p)) :=
  decodeRaw_at (by rw [h]; rfl) 2 15 rfl rfl rfl
theorem opcode_50 {r : Raw} (h : r.op = 0x50#8) : decodeRaw r = (do let p ← decP r; decDA r (.sin · p)) :=
  decodeRaw_at (by rw [h]; rfl) 2 16 rfl rfl rfl
theorem opcode_51 {r : Raw} (h : r.op = 0x51#8) : decodeRaw r = (do let p ← decP r; decDA r (.cos · p)) :=
  decodeRaw_at (by rw [h]; rfl) 2 17 rfl rfl rfl
theorem opcode_52 {r : Raw} (h : r.op = 0x52#8) : decodeRaw r = decCvt r :=
  decodeRaw_at (by rw [h]; rfl) 2 18 rfl rfl rfl
theorem opcode_53 {r : Raw} (h : r.op = 0x53#8) : decodeRaw r = decPack r :=
  decodeRaw_at (by rw [h]; rfl) 2 19 rfl rfl rfl
theorem opcode_54 {r : Raw} (h : r.op = 0x54#8) : decodeRaw r = decUnpk r :=
  decodeRaw_at (by rw [h]; rfl) 2 20 rfl rfl rfl
theorem opcode_55 {r : Raw} (h : r.op = 0x55#8) : decodeRaw r = decK8 r :=
  decodeRaw_at (by rw [h]; rfl) 2 21 rfl rfl rfl
theorem opcode_56 {r : Raw} (h : r.op = 0x56#8) : decodeRaw r = (do modIs r 0; decDAB r .hash) :=
  decodeRaw_at (by rw [h]; rfl) 2 22 rfl rfl rfl
theorem opcode_57 {r : Raw} (h : r.op = 0x57#8) : decodeRaw r = (do modIs r 0; decDAB r .rndu) :=
  decodeRaw_at (by rw [h]; rfl) 2 23 rfl rfl rfl
theorem opcode_60 {r : Raw} (h : r.op = 0x60#8) : decodeRaw r = (do modIs r 0; zeroField r.d; decBr r fun g o => .ok (.jmp g o)) :=
  decodeRaw_at (by rw [h]; rfl) 3 0 rfl rfl rfl
theorem opcode_61 {r : Raw} (h : r.op = 0x61#8) : decodeRaw r = (do let n ← decBit r; let c ← Src.dec r.d r.lit; check (!c.isLit) .literalRule; decBr r fun g o => .ok (.br g n c o)) :=
  decodeRaw_at (by rw [h]; rfl) 3 1 rfl rfl rfl
theorem opcode_62 {r : Raw} (h : r.op = 0x62#8) : decodeRaw r = (do modIs r 0; let l ← Dst.dec r.d; decBr r fun g o => formOk (.call g l o) .operandField) :=
  decodeRaw_at (by rw [h]; rfl) 3 2 rfl rfl rfl
theorem opcode_63 {r : Raw} (h : r.op = 0x63#8) : decodeRaw r = decCallr r :=
  decodeRaw_at (by rw [h]; rfl) 3 3 rfl rfl rfl
theorem opcode_64 {r : Raw} (h : r.op = 0x64#8) : decodeRaw r = (do modIs r 0; decA r .ret) :=
  decodeRaw_at (by rw [h]; rfl) 3 4 rfl rfl rfl
theorem opcode_65 {r : Raw} (h : r.op = 0x65#8) : decodeRaw r = decLoopd r :=
  decodeRaw_at (by rw [h]; rfl) 3 5 rfl rfl rfl
theorem opcode_66 {r : Raw} (h : r.op = 0x66#8) : decodeRaw r = (do modIs r 0; decNone r .exit) :=
  decodeRaw_at (by rw [h]; rfl) 3 6 rfl rfl rfl
theorem opcode_67 {r : Raw} (h : r.op = 0x67#8) : decodeRaw r = (do modIs r 0; decNone r .nop) :=
  decodeRaw_at (by rw [h]; rfl) 3 7 rfl rfl rfl
theorem opcode_68 {r : Raw} (h : r.op = 0x68#8) : decodeRaw r = (do modBelow r 4; let i ← decLoad r (.ld · (bitN r.md.toNat 1) (bitN r.md.toNat 0)); formOk i .operandField) :=
  decodeRaw_at (by rw [h]; rfl) 3 8 rfl rfl rfl
theorem opcode_69 {r : Raw} (h : r.op = 0x69#8) : decodeRaw r = (do check (r.md.toNat == 0 || r.md.toNat == 2) .modValue; let i ← decStore r (.st · (bitN r.md.toNat 1)); formOk i .operandField) :=
  decodeRaw_at (by rw [h]; rfl) 3 9 rfl rfl rfl
theorem opcode_6A {r : Raw} (h : r.op = 0x6A#8) : decodeRaw r = (do check (r.md.toNat % 8 == 0) .modValue; let f ← orMod (Fmt.ofCode (r.md.toNat / 8)); let i ← decLoad r (.ldt · f); formOk i .modValue) :=
  decodeRaw_at (by rw [h]; rfl) 3 10 rfl rfl rfl
theorem opcode_6B {r : Raw} (h : r.op = 0x6B#8) : decodeRaw r = (do let f ← orMod (Fmt.ofCode (r.md.toNat / 8)); let i ← decStore r (.stt · f (r.md.extractLsb' 0 3)); formOk i .modValue) :=
  decodeRaw_at (by rw [h]; rfl) 3 11 rfl rfl rfl
theorem opcode_6C {r : Raw} (h : r.op = 0x6C#8) : decodeRaw r = (do modIs r 0; decLoad r .hld) :=
  decodeRaw_at (by rw [h]; rfl) 3 12 rfl rfl rfl
theorem opcode_6D {r : Raw} (h : r.op = 0x6D#8) : decodeRaw r = (do modIs r 0; decStore r .hst) :=
  decodeRaw_at (by rw [h]; rfl) 3 13 rfl rfl rfl
theorem opcode_6E {r : Raw} (h : r.op = 0x6E#8) : decodeRaw r = (do modIs r 0; decDAB r .alloc) :=
  decodeRaw_at (by rw [h]; rfl) 3 14 rfl rfl rfl
theorem opcode_6F {r : Raw} (h : r.op = 0x6F#8) : decodeRaw r = decLdl r :=
  decodeRaw_at (by rw [h]; rfl) 3 15 rfl rfl rfl
theorem opcode_70 {r : Raw} (h : r.op = 0x70#8) : decodeRaw r = (do modIs r 0; decA r .trap) :=
  decodeRaw_at (by rw [h]; rfl) 3 16 rfl rfl rfl
theorem opcode_71 {r : Raw} (h : r.op = 0x71#8) : decodeRaw r = (do modIs r 0; decA r .sysc) :=
  decodeRaw_at (by rw [h]; rfl) 3 17 rfl rfl rfl
theorem opcode_72 {r : Raw} (h : r.op = 0x72#8) : decodeRaw r = (do modIs r 0; noGuard r; decA r fun _ a => .hret a) :=
  decodeRaw_at (by rw [h]; rfl) 3 18 rfl rfl rfl
theorem opcode_73 {r : Raw} (h : r.op = 0x73#8) : decodeRaw r = (do modIs r 0; decNone r .bkpt) :=
  decodeRaw_at (by rw [h]; rfl) 3 19 rfl rfl rfl
theorem opcode_74 {r : Raw} (h : r.op = 0x74#8) : decodeRaw r = decMfs r :=
  decodeRaw_at (by rw [h]; rfl) 3 20 rfl rfl rfl
theorem opcode_75 {r : Raw} (h : r.op = 0x75#8) : decodeRaw r = decMts r :=
  decodeRaw_at (by rw [h]; rfl) 3 21 rfl rfl rfl
theorem opcode_76 {r : Raw} (h : r.op = 0x76#8) : decodeRaw r = (do modIs r 0; decA r .snap) :=
  decodeRaw_at (by rw [h]; rfl) 3 22 rfl rfl rfl
theorem opcode_80 {r : Raw} (h : r.op = 0x80#8) : decodeRaw r = (do modIs r 0; let i ← decDAB r .mand; formOk i .operandField) :=
  decodeRaw_at (by rw [h]; rfl) 4 0 rfl rfl rfl
theorem opcode_81 {r : Raw} (h : r.op = 0x81#8) : decodeRaw r = (do modIs r 0; let i ← decDAB r .mor; formOk i .operandField) :=
  decodeRaw_at (by rw [h]; rfl) 4 1 rfl rfl rfl
theorem opcode_82 {r : Raw} (h : r.op = 0x82#8) : decodeRaw r = (do modIs r 0; let i ← decDAB r .mxor; formOk i .operandField) :=
  decodeRaw_at (by rw [h]; rfl) 4 2 rfl rfl rfl
theorem opcode_83 {r : Raw} (h : r.op = 0x83#8) : decodeRaw r = (do modIs r 0; let i ← decDA r .mnot; formOk i .operandField) :=
  decodeRaw_at (by rw [h]; rfl) 4 3 rfl rfl rfl
theorem opcode_84 {r : Raw} (h : r.op = 0x84#8) : decodeRaw r = (do modIs r 0; let i ← decDA r .mpopc; formOk i .operandField) :=
  decodeRaw_at (by rw [h]; rfl) 4 4 rfl rfl rfl
theorem opcode_85 {r : Raw} (h : r.op = 0x85#8) : decodeRaw r = (do let h ← decBit r; let i ← decDA r (.mffs · h); formOk i .operandField) :=
  decodeRaw_at (by rw [h]; rfl) 4 5 rfl rfl rfl
theorem opcode_86 {r : Raw} (h : r.op = 0x86#8) : decodeRaw r = (do let h ← decBit r; let i ← decDA r (.mset · h); formOk i .operandField) :=
  decodeRaw_at (by rw [h]; rfl) 4 6 rfl rfl rfl
theorem opcode_87 {r : Raw} (h : r.op = 0x87#8) : decodeRaw r = (do modIs r 0; let i ← decDA r .mget; formOk i .operandField) :=
  decodeRaw_at (by rw [h]; rfl) 4 7 rfl rfl rfl
theorem opcode_88 {r : Raw} (h : r.op = 0x88#8) : decodeRaw r = decBrd r :=
  decodeRaw_at (by rw [h]; rfl) 4 8 rfl rfl rfl
theorem opcode_89 {r : Raw} (h : r.op = 0x89#8) : decodeRaw r = (do let m ← orMod (VoteMode.ofCode r.md.toNat); let i ← decDA r (.vote · m); formOk i .operandField) :=
  decodeRaw_at (by rw [h]; rfl) 4 9 rfl rfl rfl
theorem opcode_8A {r : Raw} (h : r.op = 0x8A#8) : decodeRaw r = decShfl r :=
  decodeRaw_at (by rw [h]; rfl) 4 10 rfl rfl rfl
theorem opcode_8B {r : Raw} (h : r.op = 0x8B#8) : decodeRaw r = decLgather r :=
  decodeRaw_at (by rw [h]; rfl) 4 11 rfl rfl rfl
theorem opcode_8C {r : Raw} (h : r.op = 0x8C#8) : decodeRaw r = decBcast r :=
  decodeRaw_at (by rw [h]; rfl) 4 12 rfl rfl rfl
theorem opcode_8D {r : Raw} (h : r.op = 0x8D#8) : decodeRaw r = decRedw r :=
  decodeRaw_at (by rw [h]; rfl) 4 13 rfl rfl rfl
theorem opcode_8E {r : Raw} (h : r.op = 0x8E#8) : decodeRaw r = decScanw r :=
  decodeRaw_at (by rw [h]; rfl) 4 14 rfl rfl rfl
theorem opcode_8F {r : Raw} (h : r.op = 0x8F#8) : decodeRaw r = decTopk r :=
  decodeRaw_at (by rw [h]; rfl) 4 15 rfl rfl rfl
theorem opcode_90 {r : Raw} (h : r.op = 0x90#8) : decodeRaw r = decMerge r :=
  decodeRaw_at (by rw [h]; rfl) 4 16 rfl rfl rfl
theorem opcode_91 {r : Raw} (h : r.op = 0x91#8) : decodeRaw r = decSortw r :=
  decodeRaw_at (by rw [h]; rfl) 4 17 rfl rfl rfl
theorem opcode_92 {r : Raw} (h : r.op = 0x92#8) : decodeRaw r = decGbar r :=
  decodeRaw_at (by rw [h]; rfl) 4 18 rfl rfl rfl
theorem opcode_93 {r : Raw} (h : r.op = 0x93#8) : decodeRaw r = decSpawn r :=
  decodeRaw_at (by rw [h]; rfl) 4 19 rfl rfl rfl
theorem opcode_94 {r : Raw} (h : r.op = 0x94#8) : decodeRaw r = decJoin r :=
  decodeRaw_at (by rw [h]; rfl) 4 20 rfl rfl rfl
theorem opcode_95 {r : Raw} (h : r.op = 0x95#8) : decodeRaw r = (do modIs r 0; let i ← decDAB r .jadd; formOk i .operandField) :=
  decodeRaw_at (by rw [h]; rfl) 4 21 rfl rfl rfl
theorem opcode_96 {r : Raw} (h : r.op = 0x96#8) : decodeRaw r = (do modIs r 0; decA r .regs) :=
  decodeRaw_at (by rw [h]; rfl) 4 22 rfl rfl rfl
theorem opcode_97 {r : Raw} (h : r.op = 0x97#8) : decodeRaw r = (do modIs r 0; let i ← decDA r .launch; formOk i .operandField) :=
  decodeRaw_at (by rw [h]; rfl) 4 23 rfl rfl rfl
theorem opcode_A0 {r : Raw} (h : r.op = 0xA0#8) : decodeRaw r = decAtom r :=
  decodeRaw_at (by rw [h]; rfl) 5 0 rfl rfl rfl
theorem opcode_A1 {r : Raw} (h : r.op = 0xA1#8) : decodeRaw r = decCas r .cas :=
  decodeRaw_at (by rw [h]; rfl) 5 1 rfl rfl rfl
theorem opcode_A2 {r : Raw} (h : r.op = 0xA2#8) : decodeRaw r = decCas r .cas2 :=
  decodeRaw_at (by rw [h]; rfl) 5 2 rfl rfl rfl
theorem opcode_A3 {r : Raw} (h : r.op = 0xA3#8) : decodeRaw r = (do modIs r 0; let g ← guardDec r; let d ← Dst.dec r.d; let m ← scopeDec r; litRule r [m.base]; formOk (.lda g d m) .modValue) :=
  decodeRaw_at (by rw [h]; rfl) 5 3 rfl rfl rfl
theorem opcode_A4 {r : Raw} (h : r.op = 0xA4#8) : decodeRaw r = (do modIs r 0; let g ← guardDec r; let d ← Src.dec r.d r.lit; let m ← scopeDec r; litRule r [d, m.base]; formOk (.stl g d m) .modValue) :=
  decodeRaw_at (by rw [h]; rfl) 5 4 rfl rfl rfl
theorem opcode_A5 {r : Raw} (h : r.op = 0xA5#8) : decodeRaw r = decPhase r :=
  decodeRaw_at (by rw [h]; rfl) 5 5 rfl rfl rfl
theorem opcode_A6 {r : Raw} (h : r.op = 0xA6#8) : decodeRaw r = (do let b ← decBit r; decHint r (.cflush · b)) :=
  decodeRaw_at (by rw [h]; rfl) 5 6 rfl rfl rfl
theorem opcode_A7 {r : Raw} (h : r.op = 0xA7#8) : decodeRaw r = (do let b ← decBit r; decHint r (.cinvl · b)) :=
  decodeRaw_at (by rw [h]; rfl) 5 7 rfl rfl rfl
theorem opcode_A8 {r : Raw} (h : r.op = 0xA8#8) : decodeRaw r = (do let b ← decBit r; decHint r (.pref · b)) :=
  decodeRaw_at (by rw [h]; rfl) 5 8 rfl rfl rfl
theorem opcode_A9 {r : Raw} (h : r.op = 0xA9#8) : decodeRaw r = (do check (r.md.toNat % 8 == 0) .modValue; let f ← orMod (Fmt.ofCode (r.md.toNat / 8)); decLoad r (.lds · f)) :=
  decodeRaw_at (by rw [h]; rfl) 5 9 rfl rfl rfl
theorem opcode_AA {r : Raw} (h : r.op = 0xAA#8) : decodeRaw r = (do let f ← orMod (Fmt.ofCode (r.md.toNat / 8)); let i ← decStore r (.sts · f (r.md.extractLsb' 0 3)); formOk i .modValue) :=
  decodeRaw_at (by rw [h]; rfl) 5 10 rfl rfl rfl
theorem opcode_AB {r : Raw} (h : r.op = 0xAB#8) : decodeRaw r = (do modBelow r 4; decLoad r (.ldw · (r.md.extractLsb' 0 2))) :=
  decodeRaw_at (by rw [h]; rfl) 5 11 rfl rfl rfl
theorem opcode_AC {r : Raw} (h : r.op = 0xAC#8) : decodeRaw r = (do modBelow r 4; decStore r (.stw · (r.md.extractLsb' 0 2))) :=
  decodeRaw_at (by rw [h]; rfl) 5 12 rfl rfl rfl
theorem opcode_AD {r : Raw} (h : r.op = 0xAD#8) : decodeRaw r = decChbind r :=
  decodeRaw_at (by rw [h]; rfl) 5 13 rfl rfl rfl
theorem opcode_AE {r : Raw} (h : r.op = 0xAE#8) : decodeRaw r = decQueue r .enq :=
  decodeRaw_at (by rw [h]; rfl) 5 14 rfl rfl rfl
theorem opcode_AF {r : Raw} (h : r.op = 0xAF#8) : decodeRaw r = decQueue r .deq :=
  decodeRaw_at (by rw [h]; rfl) 5 15 rfl rfl rfl
theorem opcode_B0 {r : Raw} (h : r.op = 0xB0#8) : decodeRaw r = (do modIs r 0; decDAB r .sld) :=
  decodeRaw_at (by rw [h]; rfl) 6 0 rfl rfl rfl
theorem opcode_B1 {r : Raw} (h : r.op = 0xB1#8) : decodeRaw r = (do modIs r 0; zeroField r.d; decDABC r (fun g _ a b c => .sst g a b c)) :=
  decodeRaw_at (by rw [h]; rfl) 6 1 rfl rfl rfl
theorem opcode_B2 {r : Raw} (h : r.op = 0xB2#8) : decodeRaw r = (do let o ← orMod (SOp.ofCode r.md.toNat); decDABC r (.sadd · o)) :=
  decodeRaw_at (by rw [h]; rfl) 6 2 rfl rfl rfl
theorem opcode_B3 {r : Raw} (h : r.op = 0xB3#8) : decodeRaw r = (do modIs r 0; decDABC r .sxch) :=
  decodeRaw_at (by rw [h]; rfl) 6 3 rfl rfl rfl
theorem opcode_B4 {r : Raw} (h : r.op = 0xB4#8) : decodeRaw r = decScas r :=
  decodeRaw_at (by rw [h]; rfl) 6 4 rfl rfl rfl
theorem opcode_B5 {r : Raw} (h : r.op = 0xB5#8) : decodeRaw r = decSnext r :=
  decodeRaw_at (by rw [h]; rfl) 6 5 rfl rfl rfl
theorem opcode_B6 {r : Raw} (h : r.op = 0xB6#8) : decodeRaw r = decSscan r :=
  decodeRaw_at (by rw [h]; rfl) 6 6 rfl rfl rfl
theorem opcode_B7 {r : Raw} (h : r.op = 0xB7#8) : decodeRaw r = decSstat r :=
  decodeRaw_at (by rw [h]; rfl) 6 7 rfl rfl rfl
theorem opcode_C0 {r : Raw} (h : r.op = 0xC0#8) : decodeRaw r = (do let t ← decBit r; let i ← decDABC r (.cpy · t); formOk i .operandField) :=
  decodeRaw_at (by rw [h]; rfl) 7 0 rfl rfl rfl
theorem opcode_C1 {r : Raw} (h : r.op = 0xC1#8) : decodeRaw r = (do modBelow r 8; let i ← decDABC r (.cpyg · (r.md.extractLsb' 1 2) (bitN r.md.toNat 0)); formOk i .operandField) :=
  decodeRaw_at (by rw [h]; rfl) 7 1 rfl rfl rfl
theorem opcode_C2 {r : Raw} (h : r.op = 0xC2#8) : decodeRaw r = decCpym r :=
  decodeRaw_at (by rw [h]; rfl) 7 2 rfl rfl rfl
theorem opcode_C3 {r : Raw} (h : r.op = 0xC3#8) : decodeRaw r = (do modIs r 0; let i ← decDAB r .cpyd; formOk i .operandField) :=
  decodeRaw_at (by rw [h]; rfl) 7 3 rfl rfl rfl
theorem opcode_C4 {r : Raw} (h : r.op = 0xC4#8) : decodeRaw r = (do modIs r 0; let i ← decDAB r .cpys; formOk i .operandField) :=
  decodeRaw_at (by rw [h]; rfl) 7 4 rfl rfl rfl
theorem opcode_C5 {r : Raw} (h : r.op = 0xC5#8) : decodeRaw r = (do modIs r 0; let i ← decDAB r .cpyx; formOk i .operandField) :=
  decodeRaw_at (by rw [h]; rfl) 7 5 rfl rfl rfl
theorem opcode_C6 {r : Raw} (h : r.op = 0xC6#8) : decodeRaw r = (do modIs r 0; let i ← decDAB r .gwait; formOk i .operandField) :=
  decodeRaw_at (by rw [h]; rfl) 7 6 rfl rfl rfl
theorem opcode_C7 {r : Raw} (h : r.op = 0xC7#8) : decodeRaw r = (do modIs r 0; let i ← decDAB r .gtest; formOk i .operandField) :=
  decodeRaw_at (by rw [h]; rfl) 7 7 rfl rfl rfl
theorem opcode_C8 {r : Raw} (h : r.op = 0xC8#8) : decodeRaw r = (do modBelow r 4; zeroField r.d; decDABC r (fun g _ a b c => .garm g (r.md.extractLsb' 0 2) a b c)) :=
  decodeRaw_at (by rw [h]; rfl) 7 8 rfl rfl rfl
theorem opcode_C9 {r : Raw} (h : r.op = 0xC9#8) : decodeRaw r = decGdis r :=
  decodeRaw_at (by rw [h]; rfl) 7 9 rfl rfl rfl
theorem opcode_CA {r : Raw} (h : r.op = 0xCA#8) : decodeRaw r = decCpyq r :=
  decodeRaw_at (by rw [h]; rfl) 7 10 rfl rfl rfl
theorem opcode_D0 {r : Raw} (h : r.op = 0xD0#8) : decodeRaw r = (do modIs r 0; decTile r .tshape) :=
  decodeRaw_at (by rw [h]; rfl) 8 0 rfl rfl rfl
theorem opcode_D1 {r : Raw} (h : r.op = 0xD1#8) : decodeRaw r = (do modIs r 0; decTile r .tld) :=
  decodeRaw_at (by rw [h]; rfl) 8 1 rfl rfl rfl
theorem opcode_D2 {r : Raw} (h : r.op = 0xD2#8) : decodeRaw r = (do modIs r 0; decTile r .tst) :=
  decodeRaw_at (by rw [h]; rfl) 8 2 rfl rfl rfl
theorem opcode_D3 {r : Raw} (h : r.op = 0xD3#8) : decodeRaw r = decMma r :=
  decodeRaw_at (by rw [h]; rfl) 8 3 rfl rfl rfl
theorem opcode_D4 {r : Raw} (h : r.op = 0xD4#8) : decodeRaw r = decSacc r :=
  decodeRaw_at (by rw [h]; rfl) 8 4 rfl rfl rfl
theorem opcode_D5 {r : Raw} (h : r.op = 0xD5#8) : decodeRaw r = (do modIs r 0; decAcc r .acq) :=
  decodeRaw_at (by rw [h]; rfl) 8 5 rfl rfl rfl
theorem opcode_D6 {r : Raw} (h : r.op = 0xD6#8) : decodeRaw r = (do modIs r 0; decAcc r .rel) :=
  decodeRaw_at (by rw [h]; rfl) 8 6 rfl rfl rfl
theorem opcode_D7 {r : Raw} (h : r.op = 0xD7#8) : decodeRaw r = decAccout r :=
  decodeRaw_at (by rw [h]; rfl) 8 7 rfl rfl rfl
theorem opcode_D8 {r : Raw} (h : r.op = 0xD8#8) : decodeRaw r = (do let t ← decBit r; decAcc r (.accz · t)) :=
  decodeRaw_at (by rw [h]; rfl) 8 8 rfl rfl rfl
theorem opcode_D9 {r : Raw} (h : r.op = 0xD9#8) : decodeRaw r = decMfence r :=
  decodeRaw_at (by rw [h]; rfl) 8 9 rfl rfl rfl
theorem opcode_DA {r : Raw} (h : r.op = 0xDA#8) : decodeRaw r = (do modIs r 0; decA r .mwait) :=
  decodeRaw_at (by rw [h]; rfl) 8 10 rfl rfl rfl
theorem opcode_DB {r : Raw} (h : r.op = 0xDB#8) : decodeRaw r = (do modIs r 0; decA r .cbld) :=
  decodeRaw_at (by rw [h]; rfl) 8 11 rfl rfl rfl
theorem opcode_E0 {r : Raw} (h : r.op = 0xE0#8) : decodeRaw r = decSret r :=
  decodeRaw_at (by rw [h]; rfl) 9 0 rfl rfl rfl
theorem opcode_E1 {r : Raw} (h : r.op = 0xE1#8) : decodeRaw r = decPmap r :=
  decodeRaw_at (by rw [h]; rfl) 9 1 rfl rfl rfl
theorem opcode_E2 {r : Raw} (h : r.op = 0xE2#8) : decodeRaw r = decPinv r :=
  decodeRaw_at (by rw [h]; rfl) 9 2 rfl rfl rfl
theorem opcode_E3 {r : Raw} (h : r.op = 0xE3#8) : decodeRaw r = decPmig r :=
  decodeRaw_at (by rw [h]; rfl) 9 3 rfl rfl rfl
theorem opcode_E4 {r : Raw} (h : r.op = 0xE4#8) : decodeRaw r = decIcinv r :=
  decodeRaw_at (by rw [h]; rfl) 9 4 rfl rfl rfl
theorem opcode_E5 {r : Raw} (h : r.op = 0xE5#8) : decodeRaw r = decRdctls r :=
  decodeRaw_at (by rw [h]; rfl) 9 5 rfl rfl rfl
theorem opcode_E6 {r : Raw} (h : r.op = 0xE6#8) : decodeRaw r = decSdecl r :=
  decodeRaw_at (by rw [h]; rfl) 9 6 rfl rfl rfl
theorem opcode_E7 {r : Raw} (h : r.op = 0xE7#8) : decodeRaw r = decGtbl r :=
  decodeRaw_at (by rw [h]; rfl) 9 7 rfl rfl rfl
theorem opcode_FC {r : Raw} (h : r.op = 0xFC#8) : decodeRaw r = decRep r :=
  decodeRaw_at (by rw [h]; rfl) 9 8 rfl rfl rfl

namespace Laws.RoundTrip

/-- The fields that the encoder gives a well-formed instruction decode to it. -/
def Statement (i : Instr) : Prop := i.isWord = true → i.wf = true → decodeRaw (toRaw i) = .ok i

set_option linter.unusedSimpArgs false
set_option linter.unusedVariables false

theorem add g d a b : Statement (.add g d a b) := by
  intro _ hwf
  have hw : (g.wf && srcsWf [a, b]) = true := hwf
  simp only [Bool.and_eq_true] at hw
  show decodeRaw (mkDAB 0x01 0 g d a b) = _
  rw [opcode_01 rfl]
  simp [modIs_mk, decDAB_mk, mkDAB, hw]

theorem sub g d a b : Statement (.sub g d a b) := by
  intro _ hwf
  have hw : (g.wf && srcsWf [a, b]) = true := hwf
  simp only [Bool.and_eq_true] at hw
  show decodeRaw (mkDAB 0x02 0 g d a b) = _
  rw [opcode_02 rfl]
  simp [modIs_mk, decDAB_mk, mkDAB, hw]

theorem mul g d a b : Statement (.mul g d a b) := by
  intro _ hwf
  have hw : (g.wf && srcsWf [a, b]) = true := hwf
  simp only [Bool.and_eq_true] at hw
  show decodeRaw (mkDAB 0x03 0 g d a b) = _
  rw [opcode_03 rfl]
  simp [modIs_mk, decDAB_mk, mkDAB, hw]

theorem div g d a b : Statement (.div g d a b) := by
  intro _ hwf
  have hw : (g.wf && srcsWf [a, b]) = true := hwf
  simp only [Bool.and_eq_true] at hw
  show decodeRaw (mkDAB 0x04 0 g d a b) = _
  rw [opcode_04 rfl]
  simp [modIs_mk, decDAB_mk, mkDAB, hw]

theorem idiv g d a b : Statement (.idiv g d a b) := by
  intro _ hwf
  have hw : (g.wf && srcsWf [a, b]) = true := hwf
  simp only [Bool.and_eq_true] at hw
  show decodeRaw (mkDAB 0x05 0 g d a b) = _
  rw [opcode_05 rfl]
  simp [modIs_mk, decDAB_mk, mkDAB, hw]

theorem mod g d a b : Statement (.mod g d a b) := by
  intro _ hwf
  have hw : (g.wf && srcsWf [a, b]) = true := hwf
  simp only [Bool.and_eq_true] at hw
  show decodeRaw (mkDAB 0x06 0 g d a b) = _
  rw [opcode_06 rfl]
  simp [modIs_mk, decDAB_mk, mkDAB, hw]

theorem neg g d a : Statement (.neg g d a) := by
  intro _ hwf
  have hw : (g.wf && srcsWf [a]) = true := hwf
  simp only [Bool.and_eq_true] at hw
  show decodeRaw (mkDA 0x07 0 g d a) = _
  rw [opcode_07 rfl]
  simp [modIs_mk, decDA_mk, mkDA, hw]

theorem abs g d a : Statement (.abs g d a) := by
  intro _ hwf
  have hw : (g.wf && srcsWf [a]) = true := hwf
  simp only [Bool.and_eq_true] at hw
  show decodeRaw (mkDA 0x08 0 g d a) = _
  rw [opcode_08 rfl]
  simp [modIs_mk, decDA_mk, mkDA, hw]

theorem min g d a b : Statement (.min g d a b) := by
  intro _ hwf
  have hw : (g.wf && srcsWf [a, b]) = true := hwf
  simp only [Bool.and_eq_true] at hw
  show decodeRaw (mkDAB 0x09 0 g d a b) = _
  rw [opcode_09 rfl]
  simp [modIs_mk, decDAB_mk, mkDAB, hw]

theorem max g d a b : Statement (.max g d a b) := by
  intro _ hwf
  have hw : (g.wf && srcsWf [a, b]) = true := hwf
  simp only [Bool.and_eq_true] at hw
  show decodeRaw (mkDAB 0x0A 0 g d a b) = _
  rw [opcode_0A rfl]
  simp [modIs_mk, decDAB_mk, mkDAB, hw]

theorem ceq g d a b : Statement (.ceq g d a b) := by
  intro _ hwf
  have hw : (g.wf && srcsWf [a, b]) = true := hwf
  simp only [Bool.and_eq_true] at hw
  show decodeRaw (mkDAB 0x0B 0 g d a b) = _
  rw [opcode_0B rfl]
  simp [modIs_mk, decDAB_mk, mkDAB, hw]

theorem cne g d a b : Statement (.cne g d a b) := by
  intro _ hwf
  have hw : (g.wf && srcsWf [a, b]) = true := hwf
  simp only [Bool.and_eq_true] at hw
  show decodeRaw (mkDAB 0x0C 0 g d a b) = _
  rw [opcode_0C rfl]
  simp [modIs_mk, decDAB_mk, mkDAB, hw]

theorem clt g d a b : Statement (.clt g d a b) := by
  intro _ hwf
  have hw : (g.wf && srcsWf [a, b]) = true := hwf
  simp only [Bool.and_eq_true] at hw
  show decodeRaw (mkDAB 0x0D 0 g d a b) = _
  rw [opcode_0D rfl]
  simp [modIs_mk, decDAB_mk, mkDAB, hw]

theorem cle g d a b : Statement (.cle g d a b) := by
  intro _ hwf
  have hw : (g.wf && srcsWf [a, b]) = true := hwf
  simp only [Bool.and_eq_true] at hw
  show decodeRaw (mkDAB 0x0E 0 g d a b) = _
  rw [opcode_0E rfl]
  simp [modIs_mk, decDAB_mk, mkDAB, hw]

theorem truth g d a : Statement (.truth g d a) := by
  intro _ hwf
  have hw : (g.wf && srcsWf [a]) = true := hwf
  simp only [Bool.and_eq_true] at hw
  show decodeRaw (mkDA 0x0F 0 g d a) = _
  rw [opcode_0F rfl]
  simp [modIs_mk, decDA_mk, mkDA, hw]

theorem tagof g d a : Statement (.tagof g d a) := by
  intro _ hwf
  have hw : (g.wf && srcsWf [a]) = true := hwf
  simp only [Bool.and_eq_true] at hw
  show decodeRaw (mkDA 0x10 0 g d a) = _
  rw [opcode_10 rfl]
  simp [modIs_mk, decDA_mk, mkDA, hw]

theorem tagset g t d a : Statement (.tagset g t d a) := by
  have e : (mdOf t.toNat).toNat < 16 ∧ (mdOf t.toNat).extractLsb' 0 4 = t := by revert t; decide
  intro _ hwf
  have hw : (g.wf && srcsWf [a]) = true := hwf
  simp only [Bool.and_eq_true] at hw
  show decodeRaw (mkDA 0x11 t.toNat g d a) = _
  rw [opcode_11 rfl]
  simp [decTagset, mkDA, guardDec_mkRaw (g := g) (by simp_all), Dst.dec_enc, Run.dec_enc, vregDec_vreg, accField_accEnc, zeroField, check, orMod, modIs_mk, decBit_mk, modBelow, litRule_nil, e, formOk_wf hwf, decDA_mk, hw]

theorem tagsetDyn g d a b : Statement (.tagsetDyn g d a b) := by
  have e : ¬(mdOf 16).toNat < 16 ∧ (mdOf 16).toNat = 16 := by decide
  intro _ hwf
  have hw : (g.wf && srcsWf [a, b]) = true := hwf
  simp only [Bool.and_eq_true] at hw
  show decodeRaw (mkDAB 0x11 16 g d a b) = _
  rw [opcode_11 rfl]
  simp [decTagset, mkDAB, guardDec_mkRaw (g := g) (by simp_all), Dst.dec_enc, Run.dec_enc, vregDec_vreg, accField_accEnc, zeroField, check, orMod, modIs_mk, decBit_mk, modBelow, litRule_nil, e, formOk_wf hwf, decDAB_mk, hw]

theorem tagis g d a b : Statement (.tagis g d a b) := by
  intro _ hwf
  have hw : (g.wf && srcsWf [a, b]) = true := hwf
  simp only [Bool.and_eq_true] at hw
  show decodeRaw (mkDAB 0x12 0 g d a b) = _
  rw [opcode_12 rfl]
  simp [modIs_mk, decDAB_mk, mkDAB, hw]

theorem mov g d a : Statement (.mov g d a) := by
  intro _ hwf
  have hw : (g.wf && srcsWf [a]) = true := hwf
  simp only [Bool.and_eq_true] at hw
  show decodeRaw (mkDA 0x13 0 g d a) = _
  rw [opcode_13 rfl]
  simp [modIs_mk, decDA_mk, mkDA, hw]

theorem iadd g ov d a b : Statement (.iadd g ov d a b) := by
  intro _ hwf
  have hw : (g.wf && srcsWf [a, b]) = true := hwf
  simp only [Bool.and_eq_true] at hw
  show decodeRaw (mkDAB 0x14 ov.code g d a b) = _
  rw [opcode_14 rfl]
  simp [orMod, Ov.ofCode_mod, decDAB_mk, mkDAB, hw]

theorem isub g ov d a b : Statement (.isub g ov d a b) := by
  intro _ hwf
  have hw : (g.wf && srcsWf [a, b]) = true := hwf
  simp only [Bool.and_eq_true] at hw
  show decodeRaw (mkDAB 0x15 ov.code g d a b) = _
  rw [opcode_15 rfl]
  simp [orMod, Ov.ofCode_mod, decDAB_mk, mkDAB, hw]

theorem imul g ov d a b : Statement (.imul g ov d a b) := by
  intro _ hwf
  have hw : (g.wf && srcsWf [a, b]) = true := hwf
  simp only [Bool.and_eq_true] at hw
  show decodeRaw (mkDAB 0x16 ov.code g d a b) = _
  rw [opcode_16 rfl]
  simp [orMod, Ov.ofCode_mod, decDAB_mk, mkDAB, hw]

theorem imulh g u d a b : Statement (.imulh g u d a b) := by
  intro _ hwf
  have hw : (g.wf && srcsWf [a, b]) = true := hwf
  simp only [Bool.and_eq_true] at hw
  show decodeRaw (mkDAB 0x17 (boolN u) g d a b) = _
  rw [opcode_17 rfl]
  simp [decBit_mk, decDAB_mk, mkDAB, hw]

theorem idivt g u d a b : Statement (.idivt g u d a b) := by
  intro _ hwf
  have hw : (g.wf && srcsWf [a, b]) = true := hwf
  simp only [Bool.and_eq_true] at hw
  show decodeRaw (mkDAB 0x18 (boolN u) g d a b) = _
  rw [opcode_18 rfl]
  simp [decBit_mk, decDAB_mk, mkDAB, hw]

theorem iremt g u d a b : Statement (.iremt g u d a b) := by
  intro _ hwf
  have hw : (g.wf && srcsWf [a, b]) = true := hwf
  simp only [Bool.and_eq_true] at hw
  show decodeRaw (mkDAB 0x19 (boolN u) g d a b) = _
  rw [opcode_19 rfl]
  simp [decBit_mk, decDAB_mk, mkDAB, hw]

theorem imad g ov d a b c : Statement (.imad g ov d a b c) := by
  intro _ hwf
  have hw : (g.wf && srcsWf [a, b, c]) = true := hwf
  simp only [Bool.and_eq_true] at hw
  show decodeRaw (mkDABC 0x1A ov.code g d a b c) = _
  rw [opcode_1A rfl]
  simp [orMod, Ov.ofCode_mod, decDABC_mk, mkDABC, hw]

theorem and g d a b : Statement (.and g d a b) := by
  intro _ hwf
  have hw : (g.wf && srcsWf [a, b]) = true := hwf
  simp only [Bool.and_eq_true] at hw
  show decodeRaw (mkDAB 0x1B 0 g d a b) = _
  rw [opcode_1B rfl]
  simp [modIs_mk, decDAB_mk, mkDAB, hw]

theorem or g d a b : Statement (.or g d a b) := by
  intro _ hwf
  have hw : (g.wf && srcsWf [a, b]) = true := hwf
  simp only [Bool.and_eq_true] at hw
  show decodeRaw (mkDAB 0x1C 0 g d a b) = _
  rw [opcode_1C rfl]
  simp [modIs_mk, decDAB_mk, mkDAB, hw]

theorem xor g d a b : Statement (.xor g d a b) := by
  intro _ hwf
  have hw : (g.wf && srcsWf [a, b]) = true := hwf
  simp only [Bool.and_eq_true] at hw
  show decodeRaw (mkDAB 0x1D 0 g d a b) = _
  rw [opcode_1D rfl]
  simp [modIs_mk, decDAB_mk, mkDAB, hw]

theorem andn g d a b : Statement (.andn g d a b) := by
  intro _ hwf
  have hw : (g.wf && srcsWf [a, b]) = true := hwf
  simp only [Bool.and_eq_true] at hw
  show decodeRaw (mkDAB 0x1E 0 g d a b) = _
  rw [opcode_1E rfl]
  simp [modIs_mk, decDAB_mk, mkDAB, hw]

theorem not g d a : Statement (.not g d a) := by
  intro _ hwf
  have hw : (g.wf && srcsWf [a]) = true := hwf
  simp only [Bool.and_eq_true] at hw
  show decodeRaw (mkDA 0x1F 0 g d a) = _
  rw [opcode_1F rfl]
  simp [modIs_mk, decDA_mk, mkDA, hw]

theorem shl g u d a b : Statement (.shl g u d a b) := by
  intro _ hwf
  have hw : (g.wf && srcsWf [a, b]) = true := hwf
  simp only [Bool.and_eq_true] at hw
  show decodeRaw (mkDAB 0x20 (boolN u) g d a b) = _
  rw [opcode_20 rfl]
  simp [decBit_mk, decDAB_mk, mkDAB, hw]

theorem shr g u d a b : Statement (.shr g u d a b) := by
  intro _ hwf
  have hw : (g.wf && srcsWf [a, b]) = true := hwf
  simp only [Bool.and_eq_true] at hw
  show decodeRaw (mkDAB 0x21 (boolN u) g d a b) = _
  rw [opcode_21 rfl]
  simp [decBit_mk, decDAB_mk, mkDAB, hw]

theorem sar g u d a b : Statement (.sar g u d a b) := by
  intro _ hwf
  have hw : (g.wf && srcsWf [a, b]) = true := hwf
  simp only [Bool.and_eq_true] at hw
  show decodeRaw (mkDAB 0x22 (boolN u) g d a b) = _
  rw [opcode_22 rfl]
  simp [decBit_mk, decDAB_mk, mkDAB, hw]

theorem rol g d a b : Statement (.rol g d a b) := by
  intro _ hwf
  have hw : (g.wf && srcsWf [a, b]) = true := hwf
  simp only [Bool.and_eq_true] at hw
  show decodeRaw (mkDAB 0x23 0 g d a b) = _
  rw [opcode_23 rfl]
  simp [modIs_mk, decDAB_mk, mkDAB, hw]

theorem popc g d a : Statement (.popc g d a) := by
  intro _ hwf
  have hw : (g.wf && srcsWf [a]) = true := hwf
  simp only [Bool.and_eq_true] at hw
  show decodeRaw (mkDA 0x24 0 g d a) = _
  rw [opcode_24 rfl]
  simp [modIs_mk, decDA_mk, mkDA, hw]

theorem clz g d a : Statement (.clz g d a) := by
  intro _ hwf
  have hw : (g.wf && srcsWf [a]) = true := hwf
  simp only [Bool.and_eq_true] at hw
  show decodeRaw (mkDA 0x25 0 g d a) = _
  rw [opcode_25 rfl]
  simp [modIs_mk, decDA_mk, mkDA, hw]

theorem ctz g d a : Statement (.ctz g d a) := by
  intro _ hwf
  have hw : (g.wf && srcsWf [a]) = true := hwf
  simp only [Bool.and_eq_true] at hw
  show decodeRaw (mkDA 0x26 0 g d a) = _
  rw [opcode_26 rfl]
  simp [modIs_mk, decDA_mk, mkDA, hw]

theorem brev g d a : Statement (.brev g d a) := by
  intro _ hwf
  have hw : (g.wf && srcsWf [a]) = true := hwf
  simp only [Bool.and_eq_true] at hw
  show decodeRaw (mkDA 0x27 0 g d a) = _
  rw [opcode_27 rfl]
  simp [modIs_mk, decDA_mk, mkDA, hw]

theorem bfx g u d a b : Statement (.bfx g u d a b) := by
  intro _ hwf
  have hw : (g.wf && srcsWf [a, b]) = true := hwf
  simp only [Bool.and_eq_true] at hw
  show decodeRaw (mkDAB 0x28 (boolN u) g d a b) = _
  rw [opcode_28 rfl]
  simp [decBit_mk, decDAB_mk, mkDAB, hw]

theorem bfi g d a b c : Statement (.bfi g d a b c) := by
  intro _ hwf
  have hw : (g.wf && srcsWf [a, b, c]) = true := hwf
  simp only [Bool.and_eq_true] at hw
  show decodeRaw (mkDABC 0x29 0 g d a b c) = _
  rw [opcode_29 rfl]
  simp [modIs_mk, decDABC_mk, mkDABC, hw]

theorem imin g d a b : Statement (.imin g d a b) := by
  intro _ hwf
  have hw : (g.wf && srcsWf [a, b]) = true := hwf
  simp only [Bool.and_eq_true] at hw
  show decodeRaw (mkDAB 0x2A 0 g d a b) = _
  rw [opcode_2A rfl]
  simp [modIs_mk, decDAB_mk, mkDAB, hw]

theorem imax g d a b : Statement (.imax g d a b) := by
  intro _ hwf
  have hw : (g.wf && srcsWf [a, b]) = true := hwf
  simp only [Bool.and_eq_true] at hw
  show decodeRaw (mkDAB 0x2B 0 g d a b) = _
  rw [opcode_2B rfl]
  simp [modIs_mk, decDAB_mk, mkDAB, hw]

theorem nmin g d a b : Statement (.nmin g d a b) := by
  intro _ hwf
  have hw : (g.wf && srcsWf [a, b]) = true := hwf
  simp only [Bool.and_eq_true] at hw
  show decodeRaw (mkDAB 0x2C 0 g d a b) = _
  rw [opcode_2C rfl]
  simp [modIs_mk, decDAB_mk, mkDAB, hw]

theorem nmax g d a b : Statement (.nmax g d a b) := by
  intro _ hwf
  have hw : (g.wf && srcsWf [a, b]) = true := hwf
  simp only [Bool.and_eq_true] at hw
  show decodeRaw (mkDAB 0x2D 0 g d a b) = _
  rw [opcode_2D rfl]
  simp [modIs_mk, decDAB_mk, mkDAB, hw]

theorem icmp g cn d a b : Statement (.icmp g cn d a b) := by
  intro _ hwf
  have hw : (g.wf && srcsWf [a, b]) = true := hwf
  simp only [Bool.and_eq_true] at hw
  show decodeRaw (mkDAB 0x2E cn.code g d a b) = _
  rw [opcode_2E rfl]
  simp [orMod, Cnd.ofCode_mod, decDAB_mk, mkDAB, hw]

theorem sel g s d a b c : Statement (.sel g s d a b c) := by
  intro _ hwf
  have hw : (g.wf && srcsWf [a, b, c]) = true := hwf
  simp only [Bool.and_eq_true] at hw
  show decodeRaw (mkDABC 0x2F (boolN s) g d a b c) = _
  rw [opcode_2F rfl]
  simp [decBit_mk, decDABC_mk, mkDABC, hw]

theorem lea g sc d a b c : Statement (.lea g sc d a b c) := by
  have e : (mdOf sc.toNat).toNat < 4 ∧ (mdOf sc.toNat).extractLsb' 0 2 = sc := by revert sc; decide
  intro _ hwf
  have hw : (g.wf && srcsWf [a, b, c]) = true := hwf
  simp only [Bool.and_eq_true] at hw
  show decodeRaw (mkDABC 0x30 sc.toNat g d a b c) = _
  rw [opcode_30 rfl]
  simp [mkDABC, guardDec_mkRaw (g := g) (by simp_all), Dst.dec_enc, Run.dec_enc, vregDec_vreg, accField_accEnc, zeroField, check, orMod, modIs_mk, decBit_mk, modBelow, litRule_nil, e, formOk_wf hwf, decDABC_mk, hw]

theorem fadd g p rm d a b : Statement (.fadd g p rm d a b) := by
  intro _ hwf
  have hw : (g.wf && rm != .sr && srcsWf [a, b]) = true := hwf
  simp only [Bool.and_eq_true] at hw
  show decodeRaw (mkDAB 0x40 (8 * boolN p + rm.code) g d a b) = _
  rw [opcode_40 rfl]
  simp [decFRm_mk, decDAB_mk, mkDAB, hw]

theorem fsub g p rm d a b : Statement (.fsub g p rm d a b) := by
  intro _ hwf
  have hw : (g.wf && rm != .sr && srcsWf [a, b]) = true := hwf
  simp only [Bool.and_eq_true] at hw
  show decodeRaw (mkDAB 0x41 (8 * boolN p + rm.code) g d a b) = _
  rw [opcode_41 rfl]
  simp [decFRm_mk, decDAB_mk, mkDAB, hw]

theorem fmul g p rm d a b : Statement (.fmul g p rm d a b) := by
  intro _ hwf
  have hw : (g.wf && rm != .sr && srcsWf [a, b]) = true := hwf
  simp only [Bool.and_eq_true] at hw
  show decodeRaw (mkDAB 0x42 (8 * boolN p + rm.code) g d a b) = _
  rw [opcode_42 rfl]
  simp [decFRm_mk, decDAB_mk, mkDAB, hw]

theorem ffma g p rm d a b c : Statement (.ffma g p rm d a b c) := by
  intro _ hwf
  have hw : (g.wf && rm != .sr && srcsWf [a, b, c]) = true := hwf
  simp only [Bool.and_eq_true] at hw
  show decodeRaw (mkDABC 0x43 (8 * boolN p + rm.code) g d a b c) = _
  rw [opcode_43 rfl]
  simp [decFRm_mk, decDABC_mk, mkDABC, hw]

theorem fdiv g p rm d a b : Statement (.fdiv g p rm d a b) := by
  intro _ hwf
  have hw : (g.wf && rm != .sr && srcsWf [a, b]) = true := hwf
  simp only [Bool.and_eq_true] at hw
  show decodeRaw (mkDAB 0x44 (8 * boolN p + rm.code) g d a b) = _
  rw [opcode_44 rfl]
  simp [decFRm_mk, decDAB_mk, mkDAB, hw]

theorem fsqrt g p rm d a : Statement (.fsqrt g p rm d a) := by
  intro _ hwf
  have hw : (g.wf && rm != .sr && srcsWf [a]) = true := hwf
  simp only [Bool.and_eq_true] at hw
  show decodeRaw (mkDA 0x45 (8 * boolN p + rm.code) g d a) = _
  rw [opcode_45 rfl]
  simp [decFRm_mk, decDA_mk, mkDA, hw]

theorem fmin g p d a b : Statement (.fmin g p d a b) := by
  intro _ hwf
  have hw : (g.wf && srcsWf [a, b]) = true := hwf
  simp only [Bool.and_eq_true] at hw
  show decodeRaw (mkDAB 0x46 (8 * boolN p) g d a b) = _
  rw [opcode_46 rfl]
  simp [decP_mk, decDAB_mk, mkDAB, hw]

theorem fmax g p d a b : Statement (.fmax g p d a b) := by
  intro _ hwf
  have hw : (g.wf && srcsWf [a, b]) = true := hwf
  simp only [Bool.and_eq_true] at hw
  show decodeRaw (mkDAB 0x47 (8 * boolN p) g d a b) = _
  rw [opcode_47 rfl]
  simp [decP_mk, decDAB_mk, mkDAB, hw]

theorem fcmp g p cn d a b : Statement (.fcmp g p cn d a b) := by
  have e : (mdOf (8 * boolN p + cn.code)).toNat < 16 ∧ FCnd.ofCode ((mdOf (8 * boolN p + cn.code)).toNat % 8) = some cn ∧ bitN (mdOf (8 * boolN p + cn.code)).toNat 3 = p := by cases p <;> cases cn <;> decide
  intro _ hwf
  have hw : (g.wf && srcsWf [a, b]) = true := hwf
  simp only [Bool.and_eq_true] at hw
  show decodeRaw (mkDAB 0x48 (8 * boolN p + cn.code) g d a b) = _
  rw [opcode_48 rfl]
  simp [mkDAB, guardDec_mkRaw (g := g) (by simp_all), Dst.dec_enc, Run.dec_enc, vregDec_vreg, accField_accEnc, zeroField, check, orMod, modIs_mk, decBit_mk, modBelow, litRule_nil, e, formOk_wf hwf, decDAB_mk, hw]

theorem frnd g p rm d a : Statement (.frnd g p rm d a) := by
  intro _ hwf
  have hw : (g.wf && rm != .sr && srcsWf [a]) = true := hwf
  simp only [Bool.and_eq_true] at hw
  show decodeRaw (mkDA 0x49 (8 * boolN p + rm.code) g d a) = _
  rw [opcode_49 rfl]
  simp [decFRm_mk, decDA_mk, mkDA, hw]

theorem fabs g p d a : Statement (.fabs g p d a) := by
  intro _ hwf
  have hw : (g.wf && srcsWf [a]) = true := hwf
  simp only [Bool.and_eq_true] at hw
  show decodeRaw (mkDA 0x4A (8 * boolN p) g d a) = _
  rw [opcode_4A rfl]
  simp [decP_mk, decDA_mk, mkDA, hw]

theorem fneg g p d a : Statement (.fneg g p d a) := by
  intro _ hwf
  have hw : (g.wf && srcsWf [a]) = true := hwf
  simp only [Bool.and_eq_true] at hw
  show decodeRaw (mkDA 0x4B (8 * boolN p) g d a) = _
  rw [opcode_4B rfl]
  simp [decP_mk, decDA_mk, mkDA, hw]

theorem log2 g p d a : Statement (.log2 g p d a) := by
  intro _ hwf
  have hw : (g.wf && srcsWf [a]) = true := hwf
  simp only [Bool.and_eq_true] at hw
  show decodeRaw (mkDA 0x4C (8 * boolN p) g d a) = _
  rw [opcode_4C rfl]
  simp [decP_mk, decDA_mk, mkDA, hw]

theorem exp2 g p d a : Statement (.exp2 g p d a) := by
  intro _ hwf
  have hw : (g.wf && srcsWf [a]) = true := hwf
  simp only [Bool.and_eq_true] at hw
  show decodeRaw (mkDA 0x4D (8 * boolN p) g d a) = _
  rw [opcode_4D rfl]
  simp [decP_mk, decDA_mk, mkDA, hw]

theorem rcp g p d a : Statement (.rcp g p d a) := by
  intro _ hwf
  have hw : (g.wf && srcsWf [a]) = true := hwf
  simp only [Bool.and_eq_true] at hw
  show decodeRaw (mkDA 0x4E (8 * boolN p) g d a) = _
  rw [opcode_4E rfl]
  simp [decP_mk, decDA_mk, mkDA, hw]

theorem rsq g p d a : Statement (.rsq g p d a) := by
  intro _ hwf
  have hw : (g.wf && srcsWf [a]) = true := hwf
  simp only [Bool.and_eq_true] at hw
  show decodeRaw (mkDA 0x4F (8 * boolN p) g d a) = _
  rw [opcode_4F rfl]
  simp [decP_mk, decDA_mk, mkDA, hw]

theorem sin g p d a : Statement (.sin g p d a) := by
  intro _ hwf
  have hw : (g.wf && srcsWf [a]) = true := hwf
  simp only [Bool.and_eq_true] at hw
  show decodeRaw (mkDA 0x50 (8 * boolN p) g d a) = _
  rw [opcode_50 rfl]
  simp [decP_mk, decDA_mk, mkDA, hw]

theorem cos g p d a : Statement (.cos g p d a) := by
  intro _ hwf
  have hw : (g.wf && srcsWf [a]) = true := hwf
  simp only [Bool.and_eq_true] at hw
  show decodeRaw (mkDA 0x51 (8 * boolN p) g d a) = _
  rw [opcode_51 rfl]
  simp [decP_mk, decDA_mk, mkDA, hw]

theorem cvt g f rm d a : Statement (.cvt g f rm d a) := by
  have e : Fmt.ofCode ((mdOf (8 * f.code + rm.code)).toNat / 8) = some f ∧ Rm.ofCode ((mdOf (8 * f.code + rm.code)).toNat % 8) = some rm := by cases f <;> cases rm <;> decide
  intro _ hwf
  have hw : (g.wf && f != .ts && f != .raw && srcsWf [a]) = true := hwf
  simp only [Bool.and_eq_true] at hw
  show decodeRaw (mkDA 0x52 (8 * f.code + rm.code) g d a) = _
  rw [opcode_52 rfl]
  simp [decCvt, mkDA, guardDec_mkRaw (g := g) (by simp_all), Dst.dec_enc, Run.dec_enc, vregDec_vreg, accField_accEnc, zeroField, check, orMod, modIs_mk, decBit_mk, modBelow, litRule_nil, e, formOk_wf hwf, decDA_mk, hw]

theorem pack g f md d a : Statement (.pack g f md d a) := by
  have e : Fmt.ofCode ((mdOf (8 * f.code + md.toNat)).toNat / 8) = some f ∧ (mdOf (8 * f.code + md.toNat)).extractLsb' 0 3 = md := by cases f <;> revert md <;> decide
  intro _ hwf
  have hw : (g.wf && f.packOk && storeModeOk f md true) = true := hwf
  simp only [Bool.and_eq_true] at hw
  show decodeRaw (mkRaw 0x53 g d.enc a.enc 0#11 0#11 (8 * f.code + md.toNat) []) = _
  rw [opcode_53 rfl]
  simp [decPack, guardDec_mkRaw (g := g) (by simp_all), Dst.dec_enc, Run.dec_enc, vregDec_vreg, accField_accEnc, zeroField, check, orMod, modIs_mk, decBit_mk, modBelow, litRule_nil, e, formOk_wf hwf]

theorem unpk g f w d a : Statement (.unpk g f w d a) := by
  have e : Fmt.ofCode ((mdOf (8 * f.code + boolN w)).toNat / 8) = some f ∧ (mdOf (8 * f.code + boolN w)).toNat % 8 < 2 ∧ bitN (mdOf (8 * f.code + boolN w)).toNat 0 = w := by cases f <;> cases w <;> decide
  intro _ hwf
  have hw : (g.wf && f.packOk && !(f.isInt && w) && srcsWf [a]) = true := hwf
  simp only [Bool.and_eq_true] at hw
  show decodeRaw (mkRaw 0x54 g d.enc a.enc 0#11 0#11 (8 * f.code + boolN w) [a]) = _
  rw [opcode_54 rfl]
  have hs : srcsWf [a] = true := by simp_all
  have hd := dec_of_wf hs
  have hl := (srcsWf_iff.mp hs).2
  simp only [List.forall_mem_cons, MemOp.srcs] at hd
  simp [decUnpk, guardDec_mkRaw (g := g) (by simp_all), Dst.dec_enc, Run.dec_enc, vregDec_vreg, accField_accEnc, zeroField, check, orMod, modIs_mk, decBit_mk, modBelow, litRule_nil, litRule_mkRaw hl, hd, e, formOk_wf hwf]

theorem k8dec g f j d a : Statement (.k8dec g f j d a) := by
  have e : (mdOf (4 * boolN f + j.toNat)).toNat < 8 ∧ bitN (mdOf (4 * boolN f + j.toNat)).toNat 2 = f ∧ (mdOf (4 * boolN f + j.toNat)).extractLsb' 0 2 = j := by cases f <;> revert j <;> decide
  intro _ hwf
  have hw : (g.wf && srcsWf [a]) = true := hwf
  simp only [Bool.and_eq_true] at hw
  show decodeRaw (mkRaw 0x55 g d.enc a.enc 0#11 0#11 (4 * boolN f + j.toNat) [a]) = _
  rw [opcode_55 rfl]
  have hs : srcsWf [a] = true := by simp_all
  have hd := dec_of_wf hs
  have hl := (srcsWf_iff.mp hs).2
  simp only [List.forall_mem_cons, MemOp.srcs] at hd
  simp [decK8, guardDec_mkRaw (g := g) (by simp_all), Dst.dec_enc, Run.dec_enc, vregDec_vreg, accField_accEnc, zeroField, check, orMod, modIs_mk, decBit_mk, modBelow, litRule_nil, litRule_mkRaw hl, hd, e, formOk_wf hwf]

theorem hash g d a b : Statement (.hash g d a b) := by
  intro _ hwf
  have hw : (g.wf && srcsWf [a, b]) = true := hwf
  simp only [Bool.and_eq_true] at hw
  show decodeRaw (mkDAB 0x56 0 g d a b) = _
  rw [opcode_56 rfl]
  simp [modIs_mk, decDAB_mk, mkDAB, hw]

theorem rndu g d a b : Statement (.rndu g d a b) := by
  intro _ hwf
  have hw : (g.wf && srcsWf [a, b]) = true := hwf
  simp only [Bool.and_eq_true] at hw
  show decodeRaw (mkDAB 0x57 0 g d a b) = _
  rw [opcode_57 rfl]
  simp [modIs_mk, decDAB_mk, mkDAB, hw]

theorem jmp g o : Statement (.jmp g o) := by
  intro _ hwf
  have hw : (g.wf) = true := hwf
  show decodeRaw (mkBr 0x60 0 g 0#11 o) = _
  rw [opcode_60 rfl]
  simp [decBr, mkBr, guardDec_mkRaw (g := g) (by simp_all), Dst.dec_enc, Run.dec_enc, vregDec_vreg, accField_accEnc, zeroField, check, orMod, modIs_mk, decBit_mk, modBelow, litRule_nil, formOk_wf hwf, off_mk, lxOf]

theorem br g n c o : Statement (.br g n c o) := by
  intro _ hwf
  have hw : (g.wf && srcsNoLit [c]) = true := hwf
  simp only [Bool.and_eq_true] at hw
  show decodeRaw (mkBr 0x61 (boolN n) g c.enc o) = _
  rw [opcode_61 rfl]
  have hn : c.isLit = false := by simpa [srcsNoLit] using hw.2
  have hd : ∀ lit, Src.dec c.enc lit = .ok c := fun lit => Src.dec_enc (noLit_wf hn) (by simp [hn])
  simp [decBr, mkBr, guardDec_mkRaw (g := g) (by simp_all), Dst.dec_enc, Run.dec_enc, vregDec_vreg, accField_accEnc, zeroField, check, orMod, modIs_mk, decBit_mk, modBelow, litRule_nil, formOk_wf hwf, off_mk, lxOf, hn, hd]

theorem call g l o : Statement (.call g l o) := by
  intro _ hwf
  have hw : (g.wf && l.isScalar) = true := hwf
  simp only [Bool.and_eq_true] at hw
  show decodeRaw (mkBr 0x62 0 g l.enc o) = _
  rw [opcode_62 rfl]
  simp [decBr, mkBr, guardDec_mkRaw (g := g) (by simp_all), Dst.dec_enc, Run.dec_enc, vregDec_vreg, accField_accEnc, zeroField, check, orMod, modIs_mk, decBit_mk, modBelow, litRule_nil, formOk_wf hwf, off_mk, lxOf]

theorem callr g l t : Statement (.callr g l t) := by
  intro _ hwf
  have hw : (g.wf && l.isScalar && srcsWf [t]) = true := hwf
  simp only [Bool.and_eq_true] at hw
  show decodeRaw (mkDA 0x63 0 g l t) = _
  rw [opcode_63 rfl]
  simp [decCallr, mkDA, guardDec_mkRaw (g := g) (by simp_all), Dst.dec_enc, Run.dec_enc, vregDec_vreg, accField_accEnc, zeroField, check, orMod, modIs_mk, decBit_mk, modBelow, litRule_nil, formOk_wf hwf, decDA_mk, hw]

theorem ret g t : Statement (.ret g t) := by
  intro _ hwf
  have hw : (g.wf && srcsWf [t]) = true := hwf
  simp only [Bool.and_eq_true] at hw
  show decodeRaw (mkA 0x64 0 g t) = _
  rw [opcode_64 rfl]
  simp [modIs_mk, decA_mk, mkA, hw]

theorem loopd g c o : Statement (.loopd g c o) := by
  intro _ hwf
  have hw : (g.wf) = true := hwf
  show decodeRaw (mkBr 0x65 0 g (Reg.s c).enc o) = _
  rw [opcode_65 rfl]
  simp [decLoopd, mkBr, guardDec_mkRaw (g := g) (by simp_all), Dst.dec_enc, Run.dec_enc, vregDec_vreg, accField_accEnc, zeroField, check, orMod, modIs_mk, decBit_mk, modBelow, litRule_nil, formOk_wf hwf, Reg.dec_enc, decBr, off_mk, lxOf]

theorem exit g : Statement (.exit g) := by
  intro _ hwf
  have hw : (g.wf) = true := hwf
  show decodeRaw (mkNone 0x66 0 g) = _
  rw [opcode_66 rfl]
  simp [modIs_mk, decNone_mk, mkNone, hw]

theorem nop g : Statement (.nop g) := by
  intro _ hwf
  have hw : (g.wf) = true := hwf
  show decodeRaw (mkNone 0x67 0 g) = _
  rw [opcode_67 rfl]
  simp [modIs_mk, decNone_mk, mkNone, hw]

theorem ld g ln nh d m : Statement (.ld g ln nh d m) := by
  have e : (mdOf (2 * boolN ln + boolN nh)).toNat < 4 ∧ bitN (mdOf (2 * boolN ln + boolN nh)).toNat 1 = ln ∧ bitN (mdOf (2 * boolN ln + boolN nh)).toNat 0 = nh := by cases ln <;> cases nh <;> decide
  intro _ hwf
  have hw : (g.wf && !(ln && d.isOnce) && srcsWf m.srcs) = true := hwf
  simp only [Bool.and_eq_true] at hw
  show decodeRaw (mkMem 0x68 (2 * boolN ln + boolN nh) g d.enc m m.srcs) = _
  rw [opcode_68 rfl]
  simp [mkMem, guardDec_mkRaw (g := g) (by simp_all), Dst.dec_enc, Run.dec_enc, vregDec_vreg, accField_accEnc, zeroField, check, orMod, modIs_mk, decBit_mk, modBelow, litRule_nil, e, formOk_wf hwf, decLoad_mk, hw]

theorem st g ln d m : Statement (.st g ln d m) := by
  have e : ((mdOf (2 * boolN ln)).toNat = 0 ∨ (mdOf (2 * boolN ln)).toNat = 2) ∧ bitN (mdOf (2 * boolN ln)).toNat 1 = ln := by cases ln <;> decide
  intro _ hwf
  have hw : (g.wf && !(ln && d.isScalarReg) && srcsWf (d :: m.srcs)) = true := hwf
  simp only [Bool.and_eq_true] at hw
  show decodeRaw (mkMem 0x69 (2 * boolN ln) g d.enc m (d :: m.srcs)) = _
  rw [opcode_69 rfl]
  simp [mkMem, guardDec_mkRaw (g := g) (by simp_all), Dst.dec_enc, Run.dec_enc, vregDec_vreg, accField_accEnc, zeroField, check, orMod, modIs_mk, decBit_mk, modBelow, litRule_nil, e, formOk_wf hwf, decStore_mk, hw]

theorem ldt g f d m : Statement (.ldt g f d m) := by
  have e : Fmt.ofCode ((mdOf (8 * f.code)).toNat / 8) = some f ∧ (mdOf (8 * f.code)).toNat % 8 = 0 := by cases f <;> decide
  intro _ hwf
  have hw : (g.wf && f != .raw && srcsWf m.srcs) = true := hwf
  simp only [Bool.and_eq_true] at hw
  show decodeRaw (mkMem 0x6A (8 * f.code) g d.enc m m.srcs) = _
  rw [opcode_6A rfl]
  simp [mkMem, guardDec_mkRaw (g := g) (by simp_all), Dst.dec_enc, Run.dec_enc, vregDec_vreg, accField_accEnc, zeroField, check, orMod, modIs_mk, decBit_mk, modBelow, litRule_nil, e, formOk_wf hwf, decLoad_mk, hw]

theorem stt g f md d m : Statement (.stt g f md d m) := by
  have e : Fmt.ofCode ((mdOf (8 * f.code + md.toNat)).toNat / 8) = some f ∧ (mdOf (8 * f.code + md.toNat)).extractLsb' 0 3 = md := by cases f <;> revert md <;> decide
  intro _ hwf
  have hw : (g.wf && f != .raw && storeModeOk f md false && srcsWf (d :: m.srcs)) = true := hwf
  simp only [Bool.and_eq_true] at hw
  show decodeRaw (mkMem 0x6B (8 * f.code + md.toNat) g d.enc m (d :: m.srcs)) = _
  rw [opcode_6B rfl]
  simp [mkMem, guardDec_mkRaw (g := g) (by simp_all), Dst.dec_enc, Run.dec_enc, vregDec_vreg, accField_accEnc, zeroField, check, orMod, modIs_mk, decBit_mk, modBelow, litRule_nil, e, formOk_wf hwf, decStore_mk, hw]

theorem hld g d m : Statement (.hld g d m) := by
  intro _ hwf
  have hw : (g.wf && srcsWf m.srcs) = true := hwf
  simp only [Bool.and_eq_true] at hw
  show decodeRaw (mkMem 0x6C 0 g d.enc m m.srcs) = _
  rw [opcode_6C rfl]
  simp [modIs_mk, decLoad_mk, mkMem, hw]

theorem hst g d m : Statement (.hst g d m) := by
  intro _ hwf
  have hw : (g.wf && srcsWf (d :: m.srcs)) = true := hwf
  simp only [Bool.and_eq_true] at hw
  show decodeRaw (mkMem 0x6D 0 g d.enc m (d :: m.srcs)) = _
  rw [opcode_6D rfl]
  simp [modIs_mk, decStore_mk, mkMem, hw]

theorem alloc g d a b : Statement (.alloc g d a b) := by
  intro _ hwf
  have hw : (g.wf && srcsWf [a, b]) = true := hwf
  simp only [Bool.and_eq_true] at hw
  show decodeRaw (mkDAB 0x6E 0 g d a b) = _
  rw [opcode_6E rfl]
  simp [modIs_mk, decDAB_mk, mkDAB, hw]

theorem ldl g n nh d m : Statement (.ldl g n nh d m) := by
  have e : (mdOf (8 * boolN nh + n.toNat)).toNat < 16 ∧ (mdOf (8 * boolN nh + n.toNat)).extractLsb' 0 3 = n ∧ bitN (mdOf (8 * boolN nh + n.toNat)).toNat 3 = nh := by cases nh <;> revert n <;> decide
  intro _ hwf
  have hw : (g.wf && srcsWf m.srcs) = true := hwf
  simp only [Bool.and_eq_true] at hw
  show decodeRaw (mkMem 0x6F (8 * boolN nh + n.toNat) g (vreg d) m m.srcs) = _
  rw [opcode_6F rfl]
  have hs : srcsWf m.srcs = true := by simp_all
  have hd := dec_of_wf hs
  have hl := (srcsWf_iff.mp hs).2
  simp only [List.forall_mem_cons, MemOp.srcs] at hd
  simp [decLdl, mkMem, guardDec_mkRaw (g := g) (by simp_all), Dst.dec_enc, Run.dec_enc, vregDec_vreg, accField_accEnc, zeroField, check, orMod, modIs_mk, decBit_mk, modBelow, litRule_nil, litRule_mkRaw hl, hd, e, formOk_wf hwf, memDec_mk hs]

theorem trap g a : Statement (.trap g a) := by
  intro _ hwf
  have hw : (g.wf && srcsWf [a]) = true := hwf
  simp only [Bool.and_eq_true] at hw
  show decodeRaw (mkA 0x70 0 g a) = _
  rw [opcode_70 rfl]
  simp [modIs_mk, decA_mk, mkA, hw]

theorem sysc g a : Statement (.sysc g a) := by
  intro _ hwf
  have hw : (g.wf && srcsWf [a]) = true := hwf
  simp only [Bool.and_eq_true] at hw
  show decodeRaw (mkA 0x71 0 g a) = _
  rw [opcode_71 rfl]
  simp [modIs_mk, decA_mk, mkA, hw]

theorem hret a : Statement (.hret a) := by
  intro _ hwf
  have hw : (srcsWf [a]) = true := hwf
  show decodeRaw (mkA 0x72 0 Guard.always a) = _
  rw [opcode_72 rfl]
  simp [mkA, guardDec_mkRaw always_wf, noGuard_mk, Dst.dec_enc, Run.dec_enc, vregDec_vreg, accField_accEnc, zeroField, check, orMod, modIs_mk, decBit_mk, modBelow, litRule_nil, formOk_wf hwf, decA_mk always_wf hw]

theorem bkpt g : Statement (.bkpt g) := by
  intro _ hwf
  have hw : (g.wf) = true := hwf
  show decodeRaw (mkNone 0x73 0 g) = _
  rw [opcode_73 rfl]
  simp [modIs_mk, decNone_mk, mkNone, hw]

theorem mfs g d n : Statement (.mfs g d n) := by
  have e : n.toNat < 40 → (0#3 ++ n).toNat < 40 ∧ (0#3 ++ n).extractLsb' 0 8 = n := by revert n; decide +kernel
  intro _ hwf
  have hw : (g.wf && decide (n.toNat < 40)) = true := hwf
  simp only [Bool.and_eq_true] at hw
  show decodeRaw (mkRaw 0x74 g d.enc 0#11 0#11 (0#3 ++ n) 0 []) = _
  rw [opcode_74 rfl]
  have e := e (by simp_all)
  simp [decMfs, guardDec_mkRaw (g := g) (by simp_all), Dst.dec_enc, Run.dec_enc, vregDec_vreg, accField_accEnc, zeroField, check, orMod, modIs_mk, decBit_mk, modBelow, litRule_nil, e, formOk_wf hwf, srField]

theorem mts g a n : Statement (.mts g a n) := by
  have e : n.toNat < 40 → (0#3 ++ n).toNat < 40 ∧ (0#3 ++ n).extractLsb' 0 8 = n := by revert n; decide +kernel
  intro _ hwf
  have hw : (g.wf && decide (n.toNat < 40) && srcsWf [a]) = true := hwf
  simp only [Bool.and_eq_true] at hw
  show decodeRaw (mkRaw 0x75 g 0#11 a.enc 0#11 (0#3 ++ n) 0 [a]) = _
  rw [opcode_75 rfl]
  have hs : srcsWf [a] = true := by simp_all
  have hd := dec_of_wf hs
  have hl := (srcsWf_iff.mp hs).2
  simp only [List.forall_mem_cons, MemOp.srcs] at hd
  have e := e (by simp_all)
  simp [decMts, guardDec_mkRaw (g := g) (by simp_all), Dst.dec_enc, Run.dec_enc, vregDec_vreg, accField_accEnc, zeroField, check, orMod, modIs_mk, decBit_mk, modBelow, litRule_nil, litRule_mkRaw hl, hd, e, formOk_wf hwf, srField]

theorem snap g a : Statement (.snap g a) := by
  intro _ hwf
  have hw : (g.wf && srcsWf [a]) = true := hwf
  simp only [Bool.and_eq_true] at hw
  show decodeRaw (mkA 0x76 0 g a) = _
  rw [opcode_76 rfl]
  simp [modIs_mk, decA_mk, mkA, hw]

theorem mand g d a b : Statement (.mand g d a b) := by
  intro _ hwf
  have hw : (g.wf && d.isMask && srcsWf [a, b]) = true := hwf
  simp only [Bool.and_eq_true] at hw
  show decodeRaw (mkDAB 0x80 0 g d a b) = _
  rw [opcode_80 rfl]
  simp [modIs_mk, decDAB_mk, mkDAB, formOk_wf, hwf, hw]

theorem mor g d a b : Statement (.mor g d a b) := by
  intro _ hwf
  have hw : (g.wf && d.isMask && srcsWf [a, b]) = true := hwf
  simp only [Bool.and_eq_true] at hw
  show decodeRaw (mkDAB 0x81 0 g d a b) = _
  rw [opcode_81 rfl]
  simp [modIs_mk, decDAB_mk, mkDAB, formOk_wf, hwf, hw]

theorem mxor g d a b : Statement (.mxor g d a b) := by
  intro _ hwf
  have hw : (g.wf && d.isMask && srcsWf [a, b]) = true := hwf
  simp only [Bool.and_eq_true] at hw
  show decodeRaw (mkDAB 0x82 0 g d a b) = _
  rw [opcode_82 rfl]
  simp [modIs_mk, decDAB_mk, mkDAB, formOk_wf, hwf, hw]

theorem mnot g d a : Statement (.mnot g d a) := by
  intro _ hwf
  have hw : (g.wf && d.isMask && srcsWf [a]) = true := hwf
  simp only [Bool.and_eq_true] at hw
  show decodeRaw (mkDA 0x83 0 g d a) = _
  rw [opcode_83 rfl]
  simp [modIs_mk, decDA_mk, mkDA, formOk_wf, hwf, hw]

theorem mpopc g d a : Statement (.mpopc g d a) := by
  intro _ hwf
  have hw : (g.wf && d.isScalar && srcsWf [a]) = true := hwf
  simp only [Bool.and_eq_true] at hw
  show decodeRaw (mkDA 0x84 0 g d a) = _
  rw [opcode_84 rfl]
  simp [modIs_mk, decDA_mk, mkDA, formOk_wf, hwf, hw]

theorem mffs g h d a : Statement (.mffs g h d a) := by
  intro _ hwf
  have hw : (g.wf && d.isScalar && srcsWf [a]) = true := hwf
  simp only [Bool.and_eq_true] at hw
  show decodeRaw (mkDA 0x85 (boolN h) g d a) = _
  rw [opcode_85 rfl]
  simp [decBit_mk, decDA_mk, mkDA, formOk_wf, hwf, hw]

theorem mset g h d a : Statement (.mset g h d a) := by
  intro _ hwf
  have hw : (g.wf && d.isMask && srcsWf [a]) = true := hwf
  simp only [Bool.and_eq_true] at hw
  show decodeRaw (mkDA 0x86 (boolN h) g d a) = _
  rw [opcode_86 rfl]
  simp [decBit_mk, decDA_mk, mkDA, formOk_wf, hwf, hw]

theorem mget g d a : Statement (.mget g d a) := by
  intro _ hwf
  have hw : (g.wf && d.isVector && srcsWf [a]) = true := hwf
  simp only [Bool.and_eq_true] at hw
  show decodeRaw (mkDA 0x87 0 g d a) = _
  rw [opcode_87 rfl]
  simp [modIs_mk, decDA_mk, mkDA, formOk_wf, hwf, hw]

theorem brd g n c o j : Statement (.brd g n c o j) := by
  intro _ hwf
  have hw : (g.wf && srcsNoLit [c]) = true := hwf
  simp only [Bool.and_eq_true] at hw
  show decodeRaw (withLit (mkBr 0x88 (boolN n) g c.enc o) (j.signExtend 64)) = _
  rw [opcode_88 rfl]
  have hn : c.isLit = false := by simpa [srcsNoLit] using hw.2
  have hd : ∀ lit, Src.dec c.enc lit = .ok c := fun lit => Src.dec_enc (noLit_wf hn) (by simp [hn])
  simp [decBrd, guardDec_withLit, decBit_withLit, off_withLit, mkBr, guardDec_mkRaw hw.1, decBit_mk, off_mk, hd, hn, check, extract_signExtend]

theorem vote g m d a : Statement (.vote g m d a) := by
  intro _ hwf
  have hw : (g.wf && d.isScalar && srcsWf [a]) = true := hwf
  simp only [Bool.and_eq_true] at hw
  show decodeRaw (mkDA 0x89 m.code g d a) = _
  rw [opcode_89 rfl]
  simp [orMod, VoteMode.ofCode_mod, decDA_mk, mkDA, formOk_wf, hwf, hw]

theorem shfl g m f d a b : Statement (.shfl g m f d a b) := by
  have e : (mdOf (4 * boolN f.isSome + m.code)).toNat < 8 ∧ ShflMode.ofCode ((mdOf (4 * boolN f.isSome + m.code)).toNat % 4) = some m ∧ bitN (mdOf (4 * boolN f.isSome + m.code)).toNat 2 = f.isSome := by generalize f.isSome = q; cases q <;> cases m <;> decide
  intro _ hwf
  have hw : (g.wf && d.isVector && srcsWf (a :: b :: f.toList)) = true := hwf
  simp only [Bool.and_eq_true] at hw
  show decodeRaw (mkRaw 0x8A g d.enc a.enc b.enc (optEnc f) (4 * boolN f.isSome + m.code) (a :: b :: f.toList)) = _
  rw [opcode_8A rfl]
  have hs : srcsWf (a :: b :: f.toList) = true := by simp_all
  have hd := dec_of_wf hs
  have hl := (srcsWf_iff.mp hs).2
  simp only [List.forall_mem_cons, MemOp.srcs] at hd
  simp [decShfl, guardDec_mkRaw (g := g) (by simp_all), Dst.dec_enc, Run.dec_enc, vregDec_vreg, accField_accEnc, zeroField, check, orMod, modIs_mk, decBit_mk, modBelow, litRule_nil, litRule_mkRaw hl, hd, e, formOk_wf hwf, optField_mk f hd.2.2]

theorem lgather g n d a b : Statement (.lgather g n d a b) := by
  have e : (mdOf n.toNat).toNat < 8 ∧ (mdOf n.toNat).extractLsb' 0 3 = n := by revert n; decide
  intro _ hwf
  have hw : (g.wf && d.isVector && srcsWf [b]) = true := hwf
  simp only [Bool.and_eq_true] at hw
  show decodeRaw (mkRaw 0x8B g d.enc (vreg a) b.enc 0#11 n.toNat [b]) = _
  rw [opcode_8B rfl]
  have hs : srcsWf [b] = true := by simp_all
  have hd := dec_of_wf hs
  have hl := (srcsWf_iff.mp hs).2
  simp only [List.forall_mem_cons, MemOp.srcs] at hd
  simp [decLgather, guardDec_mkRaw (g := g) (by simp_all), Dst.dec_enc, Run.dec_enc, vregDec_vreg, accField_accEnc, zeroField, check, orMod, modIs_mk, decBit_mk, modBelow, litRule_nil, litRule_mkRaw hl, hd, e, formOk_wf hwf]

theorem bcast g l d a : Statement (.bcast g l d a) := by
  intro _ hwf
  have hw : (g.wf && d.isScalar && srcsWf (a :: l.toList)) = true := hwf
  simp only [Bool.and_eq_true] at hw
  show decodeRaw (mkRaw 0x8C g d.enc a.enc (optEnc l) 0#11 (boolN l.isNone) (a :: l.toList)) = _
  rw [opcode_8C rfl]
  have hs : srcsWf (a :: l.toList) = true := by simp_all
  have hd := dec_of_wf hs
  have hl := (srcsWf_iff.mp hs).2
  simp only [List.forall_mem_cons, MemOp.srcs] at hd
  simp [decBcast, guardDec_mkRaw (g := g) (by simp_all), Dst.dec_enc, Run.dec_enc, vregDec_vreg, accField_accEnc, zeroField, check, orMod, modIs_mk, decBit_mk, modBelow, litRule_nil, litRule_mkRaw hl, hd, formOk_wf hwf, optField_mk l hd.2]

theorem redw g op ty d a b : Statement (.redw g op ty d a b) := by
  have e : (mdOf (16 * op.code + 4 * ty.code)).toNat % 4 = 0 ∧ ROp.ofCode ((mdOf (16 * op.code + 4 * ty.code)).toNat / 16) = some op ∧ Ty.ofCode ((mdOf (16 * op.code + 4 * ty.code)).toNat / 4 % 4) = some ty := by cases op <;> cases ty <;> decide
  intro _ hwf
  have hw : (g.wf && op.okFor ty && srcsWf [a, b] && (if op.isArg then d.isScalarPair else d.isScalar && b.isZeroField)) = true := hwf
  simp only [Bool.and_eq_true] at hw
  show decodeRaw (mkDAB 0x8D (16 * op.code + 4 * ty.code) g d a b) = _
  rw [opcode_8D rfl]
  simp [decRedw, mkDAB, guardDec_mkRaw (g := g) (by simp_all), Dst.dec_enc, Run.dec_enc, vregDec_vreg, accField_accEnc, zeroField, check, orMod, modIs_mk, decBit_mk, modBelow, litRule_nil, e, formOk_wf hwf, decDAB_mk, hw]

theorem scanw g op ty ex d a : Statement (.scanw g op ty ex d a) := by
  have e : (mdOf (16 * op.code + 4 * ty.code + 2 * boolN ex)).toNat % 2 = 0 ∧ ROp.ofCode ((mdOf (16 * op.code + 4 * ty.code + 2 * boolN ex)).toNat / 16) = some op ∧ Ty.ofCode ((mdOf (16 * op.code + 4 * ty.code + 2 * boolN ex)).toNat / 4 % 4) = some ty ∧ bitN (mdOf (16 * op.code + 4 * ty.code + 2 * boolN ex)).toNat 1 = ex := by cases op <;> cases ty <;> cases ex <;> decide
  intro _ hwf
  have hw : (g.wf && !op.isArg && op.okFor ty && d.isVector && srcsWf [a]) = true := hwf
  simp only [Bool.and_eq_true] at hw
  show decodeRaw (mkDA 0x8E (16 * op.code + 4 * ty.code + 2 * boolN ex) g d a) = _
  rw [opcode_8E rfl]
  simp [decScanw, mkDA, guardDec_mkRaw (g := g) (by simp_all), Dst.dec_enc, Run.dec_enc, vregDec_vreg, accField_accEnc, zeroField, check, orMod, modIs_mk, decBit_mk, modBelow, litRule_nil, e, formOk_wf hwf, decDA_mk, hw]

theorem topk g n ty nf nz d a b : Statement (.topk g n ty nf nz d a b) := by
  have e : Ty.ofCode ((mdOf (16 * n.toNat + 4 * ty.code + 2 * boolN nf + boolN nz)).toNat / 4 % 4) = some ty ∧ (mdOf (16 * n.toNat + 4 * ty.code + 2 * boolN nf + boolN nz)).extractLsb' 4 3 = n ∧ bitN (mdOf (16 * n.toNat + 4 * ty.code + 2 * boolN nf + boolN nz)).toNat 1 = nf ∧ bitN (mdOf (16 * n.toNat + 4 * ty.code + 2 * boolN nf + boolN nz)).toNat 0 = nz := by cases ty <;> cases nf <;> cases nz <;> revert n <;> decide
  intro _ hwf
  have hw : (g.wf && srcsWf [b]) = true := hwf
  simp only [Bool.and_eq_true] at hw
  show decodeRaw (mkRaw 0x8F g (vreg d) (vreg a) b.enc 0#11 (16 * n.toNat + 4 * ty.code + 2 * boolN nf + boolN nz) [b]) = _
  rw [opcode_8F rfl]
  have hs : srcsWf [b] = true := by simp_all
  have hd := dec_of_wf hs
  have hl := (srcsWf_iff.mp hs).2
  simp only [List.forall_mem_cons, MemOp.srcs] at hd
  simp [decTopk, guardDec_mkRaw (g := g) (by simp_all), Dst.dec_enc, Run.dec_enc, vregDec_vreg, accField_accEnc, zeroField, check, orMod, modIs_mk, decBit_mk, modBelow, litRule_nil, litRule_mkRaw hl, hd, e, formOk_wf hwf]

theorem merge g ty d a b : Statement (.merge g ty d a b) := by
  have e : (mdOf (4 * ty.code)).toNat % 4 = 0 ∧ (mdOf (4 * ty.code)).toNat < 16 ∧ Ty.ofCode ((mdOf (4 * ty.code)).toNat / 4) = some ty := by cases ty <;> decide
  intro _ hwf
  have hw : (g.wf && ty != .f32) = true := hwf
  simp only [Bool.and_eq_true] at hw
  show decodeRaw (mkRaw 0x90 g (vreg d) (vreg a) (vreg b) 0#11 (4 * ty.code) []) = _
  rw [opcode_90 rfl]
  simp [decMerge, guardDec_mkRaw (g := g) (by simp_all), Dst.dec_enc, Run.dec_enc, vregDec_vreg, accField_accEnc, zeroField, check, orMod, modIs_mk, decBit_mk, modBelow, litRule_nil, e, formOk_wf hwf]

theorem sortw g ty ds d a : Statement (.sortw g ty ds d a) := by
  have e : (mdOf (4 * ty.code + 2 * boolN ds)).toNat % 2 = 0 ∧ (mdOf (4 * ty.code + 2 * boolN ds)).toNat < 16 ∧ Ty.ofCode ((mdOf (4 * ty.code + 2 * boolN ds)).toNat / 4) = some ty ∧ bitN (mdOf (4 * ty.code + 2 * boolN ds)).toNat 1 = ds := by cases ty <;> cases ds <;> decide
  intro _ hwf
  have hw : (g.wf) = true := hwf
  show decodeRaw (mkRaw 0x91 g (vreg d) (vreg a) 0#11 0#11 (4 * ty.code + 2 * boolN ds) []) = _
  rw [opcode_91 rfl]
  simp [decSortw, guardDec_mkRaw (g := g) (by simp_all), Dst.dec_enc, Run.dec_enc, vregDec_vreg, accField_accEnc, zeroField, check, orMod, modIs_mk, decBit_mk, modBelow, litRule_nil, e, formOk_wf hwf]

theorem gbar g op ty sl d a b : Statement (.gbar g op ty sl d a b) := by
  have e : ROp.ofCode ((mdOf (16 * op.code + 4 * ty.code + sl.toNat)).toNat / 16) = some op ∧ Ty.ofCode ((mdOf (16 * op.code + 4 * ty.code + sl.toNat)).toNat / 4 % 4) = some ty ∧ (mdOf (16 * op.code + 4 * ty.code + sl.toNat)).extractLsb' 0 2 = sl := by cases op <;> cases ty <;> revert sl <;> decide
  intro _ hwf
  have hw : (g.wf && op.okFor ty && srcsWf [a, b] && (if op.isArg then d.isScalarPair else d.isScalar && b.isZeroField)) = true := hwf
  simp only [Bool.and_eq_true] at hw
  show decodeRaw (mkDAB 0x92 (16 * op.code + 4 * ty.code + sl.toNat) g d a b) = _
  rw [opcode_92 rfl]
  simp [decGbar, mkDAB, guardDec_mkRaw (g := g) (by simp_all), Dst.dec_enc, Run.dec_enc, vregDec_vreg, accField_accEnc, zeroField, check, orMod, modIs_mk, decBit_mk, modBelow, litRule_nil, e, formOk_wf hwf, decDAB_mk, hw]

theorem spawn g cl k f a : Statement (.spawn g cl k f a) := by
  have e : (mdOf (8 * cl.toNat + 2 * k.toNat + boolN f)).extractLsb' 3 4 = cl ∧ (mdOf (8 * cl.toNat + 2 * k.toNat + boolN f)).extractLsb' 1 2 = k ∧ bitN (mdOf (8 * cl.toNat + 2 * k.toNat + boolN f)).toNat 0 = f := by cases f <;> revert cl k <;> decide
  intro _ hwf
  have hw : (g.wf) = true := hwf
  show decodeRaw (mkRaw 0x93 g 0#11 (vreg a) 0#11 0#11 (8 * cl.toNat + 2 * k.toNat + boolN f) []) = _
  rw [opcode_93 rfl]
  simp [decSpawn, guardDec_mkRaw (g := g) (by simp_all), Dst.dec_enc, Run.dec_enc, vregDec_vreg, accField_accEnc, zeroField, check, orMod, modIs_mk, decBit_mk, modBelow, litRule_nil, e, formOk_wf hwf]

theorem join g a b : Statement (.join g a b) := by
  intro _ hwf
  have hw : (g.wf && srcsWf [a, b]) = true := hwf
  simp only [Bool.and_eq_true] at hw
  show decodeRaw (mkRaw 0x94 g 0#11 a.enc b.enc 0#11 0 [a, b]) = _
  rw [opcode_94 rfl]
  have hs : srcsWf [a, b] = true := by simp_all
  have hd := dec_of_wf hs
  have hl := (srcsWf_iff.mp hs).2
  simp only [List.forall_mem_cons, MemOp.srcs] at hd
  simp [decJoin, guardDec_mkRaw (g := g) (by simp_all), Dst.dec_enc, Run.dec_enc, vregDec_vreg, accField_accEnc, zeroField, check, orMod, modIs_mk, decBit_mk, modBelow, litRule_nil, litRule_mkRaw hl, hd, formOk_wf hwf, decDAB, dst_zero]

theorem jadd g d a b : Statement (.jadd g d a b) := by
  intro _ hwf
  have hw : (g.wf && d.isScalar && srcsWf [a, b]) = true := hwf
  simp only [Bool.and_eq_true] at hw
  show decodeRaw (mkDAB 0x95 0 g d a b) = _
  rw [opcode_95 rfl]
  simp [modIs_mk, decDAB_mk, mkDAB, formOk_wf, hwf, hw]

theorem regs g a : Statement (.regs g a) := by
  intro _ hwf
  have hw : (g.wf && srcsWf [a]) = true := hwf
  simp only [Bool.and_eq_true] at hw
  show decodeRaw (mkA 0x96 0 g a) = _
  rw [opcode_96 rfl]
  simp [modIs_mk, decA_mk, mkA, hw]

theorem launch g d a : Statement (.launch g d a) := by
  intro _ hwf
  have hw : (g.wf && d.isScalar && srcsWf [a]) = true := hwf
  simp only [Bool.and_eq_true] at hw
  show decodeRaw (mkDA 0x97 0 g d a) = _
  rw [opcode_97 rfl]
  simp [modIs_mk, decDA_mk, mkDA, formOk_wf, hwf, hw]

theorem atom g op o d m : Statement (.atom g op o d m) := by
  have e : (mdOf (8 * op.code + 2 * o.code)).toNat % 2 = 0 ∧ AOp.ofCode ((mdOf (8 * op.code + 2 * o.code)).toNat / 8) = some op ∧ AOrd.ofCode ((mdOf (8 * op.code + 2 * o.code)).toNat / 2 % 4) = some o := by cases op <;> cases o <;> decide
  intro _ hwf
  have hw : (g.wf && d.isAtomDst && ordScopeOk o m.scope && srcsWf [m.base]) = true := hwf
  simp only [Bool.and_eq_true] at hw
  show decodeRaw (mkScope 0xA0 (8 * op.code + 2 * o.code) g d.enc m [m.base]) = _
  rw [opcode_A0 rfl]
  have hs : srcsWf [m.base] = true := by simp_all
  have hd := dec_of_wf hs
  have hl := (srcsWf_iff.mp hs).2
  simp only [List.forall_mem_cons, MemOp.srcs] at hd
  simp [decAtom, mkScope, guardDec_mkRaw (g := g) (by simp_all), Dst.dec_enc, Run.dec_enc, vregDec_vreg, accField_accEnc, zeroField, check, orMod, modIs_mk, decBit_mk, modBelow, litRule_nil, litRule_mkRaw hl, hd, e, formOk_wf hwf, Reg.dec_enc, scopeDec_mk hs]

theorem cas g o d m : Statement (.cas g o d m) := by
  have e : (mdOf (2 * o.code)).toNat % 2 = 0 ∧ (mdOf (2 * o.code)).toNat < 8 ∧ AOrd.ofCode ((mdOf (2 * o.code)).toNat / 2) = some o := by cases o <;> decide
  intro _ hwf
  have hw : (g.wf && ordScopeOk o m.scope && srcsWf [m.base]) = true := hwf
  simp only [Bool.and_eq_true] at hw
  show decodeRaw (mkScope 0xA1 (2 * o.code) g d.enc m [m.base]) = _
  rw [opcode_A1 rfl]
  have hs : srcsWf [m.base] = true := by simp_all
  have hd := dec_of_wf hs
  have hl := (srcsWf_iff.mp hs).2
  simp only [List.forall_mem_cons, MemOp.srcs] at hd
  simp [decCas, mkScope, guardDec_mkRaw (g := g) (by simp_all), Dst.dec_enc, Run.dec_enc, vregDec_vreg, accField_accEnc, zeroField, check, orMod, modIs_mk, decBit_mk, modBelow, litRule_nil, litRule_mkRaw hl, hd, e, formOk_wf hwf, scopeDec_mk hs]

theorem cas2 g o d m : Statement (.cas2 g o d m) := by
  have e : (mdOf (2 * o.code)).toNat % 2 = 0 ∧ (mdOf (2 * o.code)).toNat < 8 ∧ AOrd.ofCode ((mdOf (2 * o.code)).toNat / 2) = some o := by cases o <;> decide
  intro _ hwf
  have hw : (g.wf && ordScopeOk o m.scope && srcsWf [m.base]) = true := hwf
  simp only [Bool.and_eq_true] at hw
  show decodeRaw (mkScope 0xA2 (2 * o.code) g d.enc m [m.base]) = _
  rw [opcode_A2 rfl]
  have hs : srcsWf [m.base] = true := by simp_all
  have hd := dec_of_wf hs
  have hl := (srcsWf_iff.mp hs).2
  simp only [List.forall_mem_cons, MemOp.srcs] at hd
  simp [decCas, mkScope, guardDec_mkRaw (g := g) (by simp_all), Dst.dec_enc, Run.dec_enc, vregDec_vreg, accField_accEnc, zeroField, check, orMod, modIs_mk, decBit_mk, modBelow, litRule_nil, litRule_mkRaw hl, hd, e, formOk_wf hwf, scopeDec_mk hs]

theorem lda g d m : Statement (.lda g d m) := by
  intro _ hwf
  have hw : (g.wf && scopeOk m.scope && srcsWf [m.base]) = true := hwf
  simp only [Bool.and_eq_true] at hw
  show decodeRaw (mkScope 0xA3 0 g d.enc m [m.base]) = _
  rw [opcode_A3 rfl]
  have hs : srcsWf [m.base] = true := by simp_all
  have hd := dec_of_wf hs
  have hl := (srcsWf_iff.mp hs).2
  simp only [List.forall_mem_cons, MemOp.srcs] at hd
  simp [mkScope, guardDec_mkRaw (g := g) (by simp_all), Dst.dec_enc, Run.dec_enc, vregDec_vreg, accField_accEnc, zeroField, check, orMod, modIs_mk, decBit_mk, modBelow, litRule_nil, litRule_mkRaw hl, hd, formOk_wf hwf, scopeDec_mk hs]

theorem stl g d m : Statement (.stl g d m) := by
  intro _ hwf
  have hw : (g.wf && scopeOk m.scope && srcsWf [d, m.base]) = true := hwf
  simp only [Bool.and_eq_true] at hw
  show decodeRaw (mkScope 0xA4 0 g d.enc m [d, m.base]) = _
  rw [opcode_A4 rfl]
  have hs : srcsWf [d, m.base] = true := by simp_all
  have hd := dec_of_wf hs
  have hl := (srcsWf_iff.mp hs).2
  simp only [List.forall_mem_cons, MemOp.srcs] at hd
  simp [mkScope, guardDec_mkRaw (g := g) (by simp_all), Dst.dec_enc, Run.dec_enc, vregDec_vreg, accField_accEnc, zeroField, check, orMod, modIs_mk, decBit_mk, modBelow, litRule_nil, litRule_mkRaw hl, hd, formOk_wf hwf, scopeDec_mk hs]

theorem phase g k sc : Statement (.phase g k sc) := by
  have e : (mdOf (8 * sc.toNat + k.code)).toNat / 4 % 2 = 0 ∧ PhaseKind.ofCode ((mdOf (8 * sc.toNat + k.code)).toNat % 4) = some k ∧ (mdOf (8 * sc.toNat + k.code)).extractLsb' 3 4 = sc := by cases k <;> revert sc <;> decide
  intro _ hwf
  have hw : (g.wf && scopeOk sc) = true := hwf
  simp only [Bool.and_eq_true] at hw
  show decodeRaw (mkNone 0xA5 (8 * sc.toNat + k.code) g) = _
  rw [opcode_A5 rfl]
  simp [decPhase, mkNone, guardDec_mkRaw (g := g) (by simp_all), Dst.dec_enc, Run.dec_enc, vregDec_vreg, accField_accEnc, zeroField, check, orMod, modIs_mk, decBit_mk, modBelow, litRule_nil, e, formOk_wf hwf, decNone_mk, hw]

theorem cflush g b m : Statement (.cflush g b m) := by
  intro _ hwf
  have hw : (g.wf && srcsWf m.srcs) = true := hwf
  simp only [Bool.and_eq_true] at hw
  show decodeRaw (mkMem 0xA6 (boolN b) g 0#11 m m.srcs) = _
  rw [opcode_A6 rfl]
  simp [decBit_mk, decHint_mk, mkMem, hw]

theorem cinvl g b m : Statement (.cinvl g b m) := by
  intro _ hwf
  have hw : (g.wf && srcsWf m.srcs) = true := hwf
  simp only [Bool.and_eq_true] at hw
  show decodeRaw (mkMem 0xA7 (boolN b) g 0#11 m m.srcs) = _
  rw [opcode_A7 rfl]
  simp [decBit_mk, decHint_mk, mkMem, hw]

theorem pref g b m : Statement (.pref g b m) := by
  intro _ hwf
  have hw : (g.wf && srcsWf m.srcs) = true := hwf
  simp only [Bool.and_eq_true] at hw
  show decodeRaw (mkMem 0xA8 (boolN b) g 0#11 m m.srcs) = _
  rw [opcode_A8 rfl]
  simp [decBit_mk, decHint_mk, mkMem, hw]

theorem lds g f d m : Statement (.lds g f d m) := by
  have e : Fmt.ofCode ((mdOf (8 * f.code)).toNat / 8) = some f ∧ (mdOf (8 * f.code)).toNat % 8 = 0 := by cases f <;> decide
  intro _ hwf
  have hw : (g.wf && srcsWf m.srcs) = true := hwf
  simp only [Bool.and_eq_true] at hw
  show decodeRaw (mkMem 0xA9 (8 * f.code) g d.enc m m.srcs) = _
  rw [opcode_A9 rfl]
  simp [mkMem, guardDec_mkRaw (g := g) (by simp_all), Dst.dec_enc, Run.dec_enc, vregDec_vreg, accField_accEnc, zeroField, check, orMod, modIs_mk, decBit_mk, modBelow, litRule_nil, e, formOk_wf hwf, decLoad_mk, hw]

theorem sts g f md d m : Statement (.sts g f md d m) := by
  have e : Fmt.ofCode ((mdOf (8 * f.code + md.toNat)).toNat / 8) = some f ∧ (mdOf (8 * f.code + md.toNat)).extractLsb' 0 3 = md := by cases f <;> revert md <;> decide
  intro _ hwf
  have hw : (g.wf && storeModeOk f md false && srcsWf (d :: m.srcs)) = true := hwf
  simp only [Bool.and_eq_true] at hw
  show decodeRaw (mkMem 0xAA (8 * f.code + md.toNat) g d.enc m (d :: m.srcs)) = _
  rw [opcode_AA rfl]
  simp [mkMem, guardDec_mkRaw (g := g) (by simp_all), Dst.dec_enc, Run.dec_enc, vregDec_vreg, accField_accEnc, zeroField, check, orMod, modIs_mk, decBit_mk, modBelow, litRule_nil, e, formOk_wf hwf, decStore_mk, hw]

theorem ldw g sz d m : Statement (.ldw g sz d m) := by
  have e : (mdOf sz.toNat).toNat < 4 ∧ (mdOf sz.toNat).extractLsb' 0 2 = sz := by revert sz; decide
  intro _ hwf
  have hw : (g.wf && srcsWf m.srcs) = true := hwf
  simp only [Bool.and_eq_true] at hw
  show decodeRaw (mkMem 0xAB sz.toNat g d.enc m m.srcs) = _
  rw [opcode_AB rfl]
  simp [mkMem, guardDec_mkRaw (g := g) (by simp_all), Dst.dec_enc, Run.dec_enc, vregDec_vreg, accField_accEnc, zeroField, check, orMod, modIs_mk, decBit_mk, modBelow, litRule_nil, e, formOk_wf hwf, decLoad_mk, hw]

theorem stw g sz d m : Statement (.stw g sz d m) := by
  have e : (mdOf sz.toNat).toNat < 4 ∧ (mdOf sz.toNat).extractLsb' 0 2 = sz := by revert sz; decide
  intro _ hwf
  have hw : (g.wf && srcsWf (d :: m.srcs)) = true := hwf
  simp only [Bool.and_eq_true] at hw
  show decodeRaw (mkMem 0xAC sz.toNat g d.enc m (d :: m.srcs)) = _
  rw [opcode_AC rfl]
  simp [mkMem, guardDec_mkRaw (g := g) (by simp_all), Dst.dec_enc, Run.dec_enc, vregDec_vreg, accField_accEnc, zeroField, check, orMod, modIs_mk, decBit_mk, modBelow, litRule_nil, e, formOk_wf hwf, decStore_mk, hw]

theorem chbind g k n a : Statement (.chbind g k n a) := by
  have e : ChKind.ofCode (mdOf k.code).toNat = some k := by cases k <;> decide
  intro _ hwf
  have hw : (g.wf && srcsWf [a]) = true := hwf
  simp only [Bool.and_eq_true] at hw
  show decodeRaw (mkRaw 0xAD g (Dst.chan n).enc a.enc 0#11 0#11 k.code [a]) = _
  rw [opcode_AD rfl]
  have hs : srcsWf [a] = true := by simp_all
  have hd := dec_of_wf hs
  have hl := (srcsWf_iff.mp hs).2
  simp only [List.forall_mem_cons, MemOp.srcs] at hd
  simp [decChbind, guardDec_mkRaw (g := g) (by simp_all), Dst.dec_enc, Run.dec_enc, vregDec_vreg, accField_accEnc, zeroField, check, orMod, modIs_mk, decBit_mk, modBelow, litRule_nil, litRule_mkRaw hl, hd, e, formOk_wf hwf]

theorem enq g t d m : Statement (.enq g t d m) := by
  intro _ hwf
  have hw : (g.wf && srcsWf m.srcs) = true := hwf
  simp only [Bool.and_eq_true] at hw
  show decodeRaw (mkMem 0xAE (boolN t) g (vreg d) m m.srcs) = _
  rw [opcode_AE rfl]
  have hs : srcsWf m.srcs = true := by simp_all
  have hd := dec_of_wf hs
  have hl := (srcsWf_iff.mp hs).2
  simp only [List.forall_mem_cons, MemOp.srcs] at hd
  simp [decQueue, mkMem, guardDec_mkRaw (g := g) (by simp_all), Dst.dec_enc, Run.dec_enc, vregDec_vreg, accField_accEnc, zeroField, check, orMod, modIs_mk, decBit_mk, modBelow, litRule_nil, litRule_mkRaw hl, hd, formOk_wf hwf, memDec_mk hs]

theorem deq g t d m : Statement (.deq g t d m) := by
  intro _ hwf
  have hw : (g.wf && srcsWf m.srcs) = true := hwf
  simp only [Bool.and_eq_true] at hw
  show decodeRaw (mkMem 0xAF (boolN t) g (vreg d) m m.srcs) = _
  rw [opcode_AF rfl]
  have hs : srcsWf m.srcs = true := by simp_all
  have hd := dec_of_wf hs
  have hl := (srcsWf_iff.mp hs).2
  simp only [List.forall_mem_cons, MemOp.srcs] at hd
  simp [decQueue, mkMem, guardDec_mkRaw (g := g) (by simp_all), Dst.dec_enc, Run.dec_enc, vregDec_vreg, accField_accEnc, zeroField, check, orMod, modIs_mk, decBit_mk, modBelow, litRule_nil, litRule_mkRaw hl, hd, formOk_wf hwf, memDec_mk hs]

theorem sld g d a b : Statement (.sld g d a b) := by
  intro _ hwf
  have hw : (g.wf && srcsWf [a, b]) = true := hwf
  simp only [Bool.and_eq_true] at hw
  show decodeRaw (mkDAB 0xB0 0 g d a b) = _
  rw [opcode_B0 rfl]
  simp [modIs_mk, decDAB_mk, mkDAB, hw]

theorem sst g h k v : Statement (.sst g h k v) := by
  intro _ hwf
  have hw : (g.wf && srcsWf [h, k, v]) = true := hwf
  simp only [Bool.and_eq_true] at hw
  show decodeRaw (mkRaw 0xB1 g 0#11 h.enc k.enc v.enc 0 [h, k, v]) = _
  rw [opcode_B1 rfl]
  have hs : srcsWf [h, k, v] = true := by simp_all
  have hd := dec_of_wf hs
  have hl := (srcsWf_iff.mp hs).2
  simp only [List.forall_mem_cons, MemOp.srcs] at hd
  simp [guardDec_mkRaw (g := g) (by simp_all), Dst.dec_enc, Run.dec_enc, vregDec_vreg, accField_accEnc, zeroField, check, orMod, modIs_mk, decBit_mk, modBelow, litRule_nil, litRule_mkRaw hl, hd, formOk_wf hwf, decDABC, dst_zero]

theorem sadd g o d h k v : Statement (.sadd g o d h k v) := by
  intro _ hwf
  have hw : (g.wf && srcsWf [h, k, v]) = true := hwf
  simp only [Bool.and_eq_true] at hw
  show decodeRaw (mkDABC 0xB2 o.code g d h k v) = _
  rw [opcode_B2 rfl]
  simp [orMod, SOp.ofCode_mod, decDABC_mk, mkDABC, hw]

theorem sxch g d h k v : Statement (.sxch g d h k v) := by
  intro _ hwf
  have hw : (g.wf && srcsWf [h, k, v]) = true := hwf
  simp only [Bool.and_eq_true] at hw
  show decodeRaw (mkDABC 0xB3 0 g d h k v) = _
  rw [opcode_B3 rfl]
  simp [modIs_mk, decDABC_mk, mkDABC, hw]

theorem scas g d h k c : Statement (.scas g d h k c) := by
  intro _ hwf
  have hw : (g.wf && srcsWf [h, k]) = true := hwf
  simp only [Bool.and_eq_true] at hw
  show decodeRaw (mkRaw 0xB4 g d.enc h.enc k.enc c.enc 0 [h, k]) = _
  rw [opcode_B4 rfl]
  have hs : srcsWf [h, k] = true := by simp_all
  have hd := dec_of_wf hs
  have hl := (srcsWf_iff.mp hs).2
  simp only [List.forall_mem_cons, MemOp.srcs] at hd
  simp [decScas, guardDec_mkRaw (g := g) (by simp_all), Dst.dec_enc, Run.dec_enc, vregDec_vreg, accField_accEnc, zeroField, check, orMod, modIs_mk, decBit_mk, modBelow, litRule_nil, litRule_mkRaw hl, hd, formOk_wf hwf]

theorem snext g ge d h k : Statement (.snext g ge d h k) := by
  intro _ hwf
  have hw : (g.wf && srcsWf [h, k]) = true := hwf
  simp only [Bool.and_eq_true] at hw
  show decodeRaw (mkRaw 0xB5 g d.enc h.enc k.enc 0#11 (boolN ge) [h, k]) = _
  rw [opcode_B5 rfl]
  have hs : srcsWf [h, k] = true := by simp_all
  have hd := dec_of_wf hs
  have hl := (srcsWf_iff.mp hs).2
  simp only [List.forall_mem_cons, MemOp.srcs] at hd
  simp [decSnext, guardDec_mkRaw (g := g) (by simp_all), Dst.dec_enc, Run.dec_enc, vregDec_vreg, accField_accEnc, zeroField, check, orMod, modIs_mk, decBit_mk, modBelow, litRule_nil, litRule_mkRaw hl, hd, formOk_wf hwf]

theorem sscan g n ge l d h k : Statement (.sscan g n ge l d h k) := by
  have e : (mdOf (n.toNat + 32 * boolN ge + 64 * boolN l.isSome)).extractLsb' 0 5 = n ∧ bitN (mdOf (n.toNat + 32 * boolN ge + 64 * boolN l.isSome)).toNat 5 = ge ∧ bitN (mdOf (n.toNat + 32 * boolN ge + 64 * boolN l.isSome)).toNat 6 = l.isSome := by generalize l.isSome = q; cases ge <;> cases q <;> revert n <;> decide
  intro _ hwf
  have hw : (g.wf && srcsWf (h :: k :: l.toList)) = true := hwf
  simp only [Bool.and_eq_true] at hw
  show decodeRaw (mkRaw 0xB6 g (vreg d) h.enc k.enc (optEnc l) (n.toNat + 32 * boolN ge + 64 * boolN l.isSome) (h :: k :: l.toList)) = _
  rw [opcode_B6 rfl]
  have hs : srcsWf (h :: k :: l.toList) = true := by simp_all
  have hd := dec_of_wf hs
  have hl := (srcsWf_iff.mp hs).2
  simp only [List.forall_mem_cons, MemOp.srcs] at hd
  simp [decSscan, guardDec_mkRaw (g := g) (by simp_all), Dst.dec_enc, Run.dec_enc, vregDec_vreg, accField_accEnc, zeroField, check, orMod, modIs_mk, decBit_mk, modBelow, litRule_nil, litRule_mkRaw hl, hd, e, formOk_wf hwf, optField_mk l hd.2.2]

theorem sstat g w al d h x : Statement (.sstat g w al d h x) := by
  have e : (mdOf (w.code + 8 * boolN al)).toNat < 16 ∧ StatWhat.ofCode ((mdOf (w.code + 8 * boolN al)).toNat % 8) = some w ∧ bitN (mdOf (w.code + 8 * boolN al)).toNat 3 = al := by cases w <;> cases al <;> decide
  intro _ hwf
  have hw : (g.wf && srcsWf [h, x] && !(al && (w == .eng || !x.isZeroField))) = true := hwf
  simp only [Bool.and_eq_true] at hw
  show decodeRaw (mkDAB 0xB7 (w.code + 8 * boolN al) g d h x) = _
  rw [opcode_B7 rfl]
  simp [decSstat, mkDAB, guardDec_mkRaw (g := g) (by simp_all), Dst.dec_enc, Run.dec_enc, vregDec_vreg, accField_accEnc, zeroField, check, orMod, modIs_mk, decBit_mk, modBelow, litRule_nil, e, formOk_wf hwf, decDAB_mk, hw]

theorem cpy g t d x y z : Statement (.cpy g t d x y z) := by
  intro _ hwf
  have hw : (g.wf && d.isScalar && srcsNoLit [x, y, z]) = true := hwf
  simp only [Bool.and_eq_true] at hw
  show decodeRaw (mkDABC 0xC0 (boolN t) g d x y z) = _
  rw [opcode_C0 rfl]
  simp [mkDABC, guardDec_mkRaw (g := g) (by simp_all), Dst.dec_enc, Run.dec_enc, vregDec_vreg, accField_accEnc, zeroField, check, orMod, modIs_mk, decBit_mk, modBelow, litRule_nil, formOk_wf hwf, decDABC_mk, srcsWf_of_noLit, hw]

theorem cpyg g sl t d x y z : Statement (.cpyg g sl t d x y z) := by
  have e : (mdOf (2 * sl.toNat + boolN t)).toNat < 8 ∧ (mdOf (2 * sl.toNat + boolN t)).extractLsb' 1 2 = sl ∧ bitN (mdOf (2 * sl.toNat + boolN t)).toNat 0 = t := by cases t <;> revert sl <;> decide
  intro _ hwf
  have hw : (g.wf && d.isScalar && srcsNoLit [x, y, z]) = true := hwf
  simp only [Bool.and_eq_true] at hw
  show decodeRaw (mkDABC 0xC1 (2 * sl.toNat + boolN t) g d x y z) = _
  rw [opcode_C1 rfl]
  simp [mkDABC, guardDec_mkRaw (g := g) (by simp_all), Dst.dec_enc, Run.dec_enc, vregDec_vreg, accField_accEnc, zeroField, check, orMod, modIs_mk, decBit_mk, modBelow, litRule_nil, e, formOk_wf hwf, decDABC_mk, srcsWf_of_noLit, hw]

theorem cpym g t d x y z f : Statement (.cpym g t d x y z f) := by
  intro _ hwf
  have hw : (g.wf && d.isScalar && srcsNoLit [x, y, z] && followWf f) = true := hwf
  simp only [Bool.and_eq_true] at hw
  show decodeRaw (withLit (mkDABC 0xC2 (boolN t) g d x y z) (f)) = _
  rw [opcode_C2 rfl]
  have hn : ∀ s ∈ [x, y, z], s.isLit = false := by simpa [srcsNoLit] using hw.1.2
  have hd : ∀ s ∈ [x, y, z], ∀ lit, Src.dec s.enc lit = .ok s := fun s hs lit => Src.dec_enc (noLit_wf (hn s hs)) (by simp [hn s hs])
  simp only [List.forall_mem_cons] at hd
  simp [decCpym, guardDec_withLit, decBit_withLit, mkDABC, guardDec_mkRaw hw.1.1.1, decBit_mk, hd, check, followOk, hw.2, Dst.dec_enc,
    formOk_wf hwf]

theorem cpyd g d a b : Statement (.cpyd g d a b) := by
  intro _ hwf
  have hw : (g.wf && d.isScalar && srcsNoLit [a, b]) = true := hwf
  simp only [Bool.and_eq_true] at hw
  show decodeRaw (mkDAB 0xC3 0 g d a b) = _
  rw [opcode_C3 rfl]
  simp [mkDAB, guardDec_mkRaw (g := g) (by simp_all), Dst.dec_enc, Run.dec_enc, vregDec_vreg, accField_accEnc, zeroField, check, orMod, modIs_mk, decBit_mk, modBelow, litRule_nil, formOk_wf hwf, decDAB_mk, srcsWf_of_noLit, hw]

theorem cpys g d a b : Statement (.cpys g d a b) := by
  intro _ hwf
  have hw : (g.wf && d.isScalar && srcsNoLit [a, b]) = true := hwf
  simp only [Bool.and_eq_true] at hw
  show decodeRaw (mkDAB 0xC4 0 g d a b) = _
  rw [opcode_C4 rfl]
  simp [mkDAB, guardDec_mkRaw (g := g) (by simp_all), Dst.dec_enc, Run.dec_enc, vregDec_vreg, accField_accEnc, zeroField, check, orMod, modIs_mk, decBit_mk, modBelow, litRule_nil, formOk_wf hwf, decDAB_mk, srcsWf_of_noLit, hw]

theorem cpyx g d a b : Statement (.cpyx g d a b) := by
  intro _ hwf
  have hw : (g.wf && d.isScalar && srcsNoLit [a, b]) = true := hwf
  simp only [Bool.and_eq_true] at hw
  show decodeRaw (mkDAB 0xC5 0 g d a b) = _
  rw [opcode_C5 rfl]
  simp [mkDAB, guardDec_mkRaw (g := g) (by simp_all), Dst.dec_enc, Run.dec_enc, vregDec_vreg, accField_accEnc, zeroField, check, orMod, modIs_mk, decBit_mk, modBelow, litRule_nil, formOk_wf hwf, decDAB_mk, srcsWf_of_noLit, hw]

theorem gwait g d a b : Statement (.gwait g d a b) := by
  intro _ hwf
  have hw : (g.wf && d.isScalar && srcsWf [a, b]) = true := hwf
  simp only [Bool.and_eq_true] at hw
  show decodeRaw (mkDAB 0xC6 0 g d a b) = _
  rw [opcode_C6 rfl]
  simp [modIs_mk, decDAB_mk, mkDAB, formOk_wf, hwf, hw]

theorem gtest g d a b : Statement (.gtest g d a b) := by
  intro _ hwf
  have hw : (g.wf && d.isScalar && srcsWf [a, b]) = true := hwf
  simp only [Bool.and_eq_true] at hw
  show decodeRaw (mkDAB 0xC7 0 g d a b) = _
  rw [opcode_C7 rfl]
  simp [modIs_mk, decDAB_mk, mkDAB, formOk_wf, hwf, hw]

theorem garm g sl x y z : Statement (.garm g sl x y z) := by
  have e : (mdOf sl.toNat).toNat < 4 ∧ (mdOf sl.toNat).extractLsb' 0 2 = sl := by revert sl; decide
  intro _ hwf
  have hw : (g.wf && srcsWf [x, y, z]) = true := hwf
  simp only [Bool.and_eq_true] at hw
  show decodeRaw (mkRaw 0xC8 g 0#11 x.enc y.enc z.enc sl.toNat [x, y, z]) = _
  rw [opcode_C8 rfl]
  have hs : srcsWf [x, y, z] = true := by simp_all
  have hd := dec_of_wf hs
  have hl := (srcsWf_iff.mp hs).2
  simp only [List.forall_mem_cons, MemOp.srcs] at hd
  simp [guardDec_mkRaw (g := g) (by simp_all), Dst.dec_enc, Run.dec_enc, vregDec_vreg, accField_accEnc, zeroField, check, orMod, modIs_mk, decBit_mk, modBelow, litRule_nil, litRule_mkRaw hl, hd, e, formOk_wf hwf, decDABC, dst_zero]

theorem gdis g sl d : Statement (.gdis g sl d) := by
  have e : (mdOf sl.toNat).toNat < 4 ∧ (mdOf sl.toNat).extractLsb' 0 2 = sl := by revert sl; decide
  intro _ hwf
  have hw : (g.wf && d.isScalar) = true := hwf
  simp only [Bool.and_eq_true] at hw
  show decodeRaw (mkRaw 0xC9 g d.enc 0#11 0#11 0#11 sl.toNat []) = _
  rw [opcode_C9 rfl]
  simp [decGdis, guardDec_mkRaw (g := g) (by simp_all), Dst.dec_enc, Run.dec_enc, vregDec_vreg, accField_accEnc, zeroField, check, orMod, modIs_mk, decBit_mk, modBelow, litRule_nil, e, formOk_wf hwf]

theorem cpyq g d k : Statement (.cpyq g d k) := by
  intro _ hwf
  have hw : (g.wf && d.isScalarPair && srcsWf [k]) = true := hwf
  simp only [Bool.and_eq_true] at hw
  show decodeRaw (mkDA 0xCA 0 g d k) = _
  rw [opcode_CA rfl]
  simp [decCpyq, mkDA, guardDec_mkRaw (g := g) (by simp_all), Dst.dec_enc, Run.dec_enc, vregDec_vreg, accField_accEnc, zeroField, check, orMod, modIs_mk, decBit_mk, modBelow, litRule_nil, formOk_wf hwf, decBit0, decDA_mk, hw]

theorem cpyqCancel g d k : Statement (.cpyqCancel g d k) := by
  intro _ hwf
  have hw : (g.wf && d.isScalarPair && srcsWf [k]) = true := hwf
  simp only [Bool.and_eq_true] at hw
  show decodeRaw (mkDA 0xCA 1 g d k) = _
  rw [opcode_CA rfl]
  simp [decCpyq, mkDA, guardDec_mkRaw (g := g) (by simp_all), Dst.dec_enc, Run.dec_enc, vregDec_vreg, accField_accEnc, zeroField, check, orMod, modIs_mk, decBit_mk, modBelow, litRule_nil, formOk_wf hwf, decBit1, decDA_mk, hw]

theorem tshape g t x : Statement (.tshape g t x) := by
  intro _ hwf
  have hw : (g.wf && srcsWf [t, x] && t.tileOk) = true := hwf
  simp only [Bool.and_eq_true] at hw
  show decodeRaw (mkRaw 0xD0 g t.enc x.enc 0#11 0#11 0 [t, x]) = _
  rw [opcode_D0 rfl]
  have hs : srcsWf [t, x] = true := by simp_all
  have hd := dec_of_wf hs
  have hl := (srcsWf_iff.mp hs).2
  simp only [List.forall_mem_cons, MemOp.srcs] at hd
  simp [decTile, guardDec_mkRaw (g := g) (by simp_all), Dst.dec_enc, Run.dec_enc, vregDec_vreg, accField_accEnc, zeroField, check, orMod, modIs_mk, decBit_mk, modBelow, litRule_nil, litRule_mkRaw hl, hd, formOk_wf hwf]

theorem tld g t x : Statement (.tld g t x) := by
  intro _ hwf
  have hw : (g.wf && srcsWf [t, x] && t.tileOk) = true := hwf
  simp only [Bool.and_eq_true] at hw
  show decodeRaw (mkRaw 0xD1 g t.enc x.enc 0#11 0#11 0 [t, x]) = _
  rw [opcode_D1 rfl]
  have hs : srcsWf [t, x] = true := by simp_all
  have hd := dec_of_wf hs
  have hl := (srcsWf_iff.mp hs).2
  simp only [List.forall_mem_cons, MemOp.srcs] at hd
  simp [decTile, guardDec_mkRaw (g := g) (by simp_all), Dst.dec_enc, Run.dec_enc, vregDec_vreg, accField_accEnc, zeroField, check, orMod, modIs_mk, decBit_mk, modBelow, litRule_nil, litRule_mkRaw hl, hd, formOk_wf hwf]

theorem tst g t x : Statement (.tst g t x) := by
  intro _ hwf
  have hw : (g.wf && srcsWf [t, x] && t.tileOk) = true := hwf
  simp only [Bool.and_eq_true] at hw
  show decodeRaw (mkRaw 0xD2 g t.enc x.enc 0#11 0#11 0 [t, x]) = _
  rw [opcode_D2 rfl]
  have hs : srcsWf [t, x] = true := by simp_all
  have hd := dec_of_wf hs
  have hl := (srcsWf_iff.mp hs).2
  simp only [List.forall_mem_cons, MemOp.srcs] at hd
  simp [decTile, guardDec_mkRaw (g := g) (by simp_all), Dst.dec_enc, Run.dec_enc, vregDec_vreg, accField_accEnc, zeroField, check, orMod, modIs_mk, decBit_mk, modBelow, litRule_nil, litRule_mkRaw hl, hd, formOk_wf hwf]

theorem mma g p st bl x a b : Statement (.mma g p st bl x a b) := by
  have e : (mdOf (p.code + 16 * boolN st + 32 * boolN bl)).toNat < 64 ∧ Pair.ofCode ((mdOf (p.code + 16 * boolN st + 32 * boolN bl)).toNat % 16) = some p ∧ bitN (mdOf (p.code + 16 * boolN st + 32 * boolN bl)).toNat 4 = st ∧ bitN (mdOf (p.code + 16 * boolN st + 32 * boolN bl)).toNat 5 = bl := by cases p <;> cases st <;> cases bl <;> decide
  intro _ hwf
  have hw : (g.wf && srcsWf [a, b] && a.tileOk && b.tileOk) = true := hwf
  simp only [Bool.and_eq_true] at hw
  show decodeRaw (mkRaw 0xD3 g (accEnc x) a.enc b.enc 0#11 (p.code + 16 * boolN st + 32 * boolN bl) [a, b]) = _
  rw [opcode_D3 rfl]
  have hs : srcsWf [a, b] = true := by simp_all
  have hd := dec_of_wf hs
  have hl := (srcsWf_iff.mp hs).2
  simp only [List.forall_mem_cons, MemOp.srcs] at hd
  simp [decMma, guardDec_mkRaw (g := g) (by simp_all), Dst.dec_enc, Run.dec_enc, vregDec_vreg, accField_accEnc, zeroField, check, orMod, modIs_mk, decBit_mk, modBelow, litRule_nil, litRule_mkRaw hl, hd, e, formOk_wf hwf]

theorem sacc g f x y a b : Statement (.sacc g f x y a b) := by
  intro _ hwf
  have hw : (g.wf && srcsWf [a, b]) = true := hwf
  simp only [Bool.and_eq_true] at hw
  show decodeRaw (mkRaw 0xD4 g (accEnc x) (accEnc y) a.enc b.enc (boolN f) [a, b]) = _
  rw [opcode_D4 rfl]
  have hs : srcsWf [a, b] = true := by simp_all
  have hd := dec_of_wf hs
  have hl := (srcsWf_iff.mp hs).2
  simp only [List.forall_mem_cons, MemOp.srcs] at hd
  simp [decSacc, guardDec_mkRaw (g := g) (by simp_all), Dst.dec_enc, Run.dec_enc, vregDec_vreg, accField_accEnc, zeroField, check, orMod, modIs_mk, decBit_mk, modBelow, litRule_nil, litRule_mkRaw hl, hd, formOk_wf hwf]

theorem acq g x : Statement (.acq g x) := by
  intro _ hwf
  have hw : (g.wf) = true := hwf
  show decodeRaw (mkRaw 0xD5 g (accEnc x) 0#11 0#11 0#11 0 []) = _
  rw [opcode_D5 rfl]
  simp [decAcc, guardDec_mkRaw (g := g) (by simp_all), Dst.dec_enc, Run.dec_enc, vregDec_vreg, accField_accEnc, zeroField, check, orMod, modIs_mk, decBit_mk, modBelow, litRule_nil, formOk_wf hwf]

theorem rel g x : Statement (.rel g x) := by
  intro _ hwf
  have hw : (g.wf) = true := hwf
  show decodeRaw (mkRaw 0xD6 g (accEnc x) 0#11 0#11 0#11 0 []) = _
  rw [opcode_D6 rfl]
  simp [decAcc, guardDec_mkRaw (g := g) (by simp_all), Dst.dec_enc, Run.dec_enc, vregDec_vreg, accField_accEnc, zeroField, check, orMod, modIs_mk, decBit_mk, modBelow, litRule_nil, formOk_wf hwf]

theorem accout g o rm x a b c : Statement (.accout g o rm x a b c) := by
  have e : OutFmt.ofCode ((mdOf (8 * o.code + rm.toNat)).toNat / 8) = some o ∧ (mdOf (8 * o.code + rm.toNat)).extractLsb' 0 3 = rm := by cases o <;> revert rm <;> decide
  intro _ hwf
  have hw : (g.wf && srcsWf [a, b, c] && (if o.converts then rm != 6#3 else rm == 0#3)) = true := hwf
  simp only [Bool.and_eq_true] at hw
  show decodeRaw (mkRaw 0xD7 g (accEnc x) a.enc b.enc c.enc (8 * o.code + rm.toNat) [a, b, c]) = _
  rw [opcode_D7 rfl]
  have hs : srcsWf [a, b, c] = true := by simp_all
  have hd := dec_of_wf hs
  have hl := (srcsWf_iff.mp hs).2
  simp only [List.forall_mem_cons, MemOp.srcs] at hd
  simp [decAccout, guardDec_mkRaw (g := g) (by simp_all), Dst.dec_enc, Run.dec_enc, vregDec_vreg, accField_accEnc, zeroField, check, orMod, modIs_mk, decBit_mk, modBelow, litRule_nil, litRule_mkRaw hl, hd, e, formOk_wf hwf]

theorem accz g t x : Statement (.accz g t x) := by
  intro _ hwf
  have hw : (g.wf) = true := hwf
  show decodeRaw (mkRaw 0xD8 g (accEnc x) 0#11 0#11 0#11 (boolN t) []) = _
  rw [opcode_D8 rfl]
  simp [decAcc, guardDec_mkRaw (g := g) (by simp_all), Dst.dec_enc, Run.dec_enc, vregDec_vreg, accField_accEnc, zeroField, check, orMod, modIs_mk, decBit_mk, modBelow, litRule_nil, formOk_wf hwf]

theorem mfence g d : Statement (.mfence g d) := by
  intro _ hwf
  have hw : (g.wf && d.isScalar) = true := hwf
  simp only [Bool.and_eq_true] at hw
  show decodeRaw (mkRaw 0xD9 g d.enc 0#11 0#11 0#11 0 []) = _
  rw [opcode_D9 rfl]
  simp [decMfence, guardDec_mkRaw (g := g) (by simp_all), Dst.dec_enc, Run.dec_enc, vregDec_vreg, accField_accEnc, zeroField, check, orMod, modIs_mk, decBit_mk, modBelow, litRule_nil, formOk_wf hwf]

theorem mwait g a : Statement (.mwait g a) := by
  intro _ hwf
  have hw : (g.wf && srcsWf [a]) = true := hwf
  simp only [Bool.and_eq_true] at hw
  show decodeRaw (mkA 0xDA 0 g a) = _
  rw [opcode_DA rfl]
  simp [modIs_mk, decA_mk, mkA, hw]

theorem cbld g a : Statement (.cbld g a) := by
  intro _ hwf
  have hw : (g.wf && srcsWf [a]) = true := hwf
  simp only [Bool.and_eq_true] at hw
  show decodeRaw (mkA 0xDB 0 g a) = _
  rw [opcode_DB rfl]
  simp [modIs_mk, decA_mk, mkA, hw]

theorem sret m : Statement (.sret m) := by
  intro _ hwf
  have hw : (srcsWf [m]) = true := hwf
  show decodeRaw (mkA 0xE0 0 Guard.always m) = _
  rw [opcode_E0 rfl]
  simp [decSret, mkA, guardDec_mkRaw always_wf, noGuard_mk, Dst.dec_enc, Run.dec_enc, vregDec_vreg, accField_accEnc, zeroField, check, orMod, modIs_mk, decBit_mk, modBelow, litRule_nil, formOk_wf hwf, decBit0, decA_mk always_wf hw]

theorem sretHost m : Statement (.sretHost m) := by
  intro _ hwf
  have hw : (srcsWf [m]) = true := hwf
  show decodeRaw (mkA 0xE0 1 Guard.always m) = _
  rw [opcode_E0 rfl]
  simp [decSret, mkA, guardDec_mkRaw always_wf, noGuard_mk, Dst.dec_enc, Run.dec_enc, vregDec_vreg, accField_accEnc, zeroField, check, orMod, modIs_mk, decBit_mk, modBelow, litRule_nil, formOk_wf hwf, decBit1, decA_mk always_wf hw]

theorem pmap g an d a b : Statement (.pmap g an d a b) := by
  intro _ hwf
  have hw : (g.wf && d.isData && srcsWf [a, b]) = true := hwf
  simp only [Bool.and_eq_true] at hw
  show decodeRaw (mkDAB 0xE1 (boolN an) g d a b) = _
  rw [opcode_E1 rfl]
  cases an <;> simp [decPmap, mkDAB, guardDec_mkRaw (g := g) (by simp_all), Dst.dec_enc, Run.dec_enc, vregDec_vreg, accField_accEnc, zeroField, check, orMod, modIs_mk, decBit_mk, modBelow, litRule_nil, formOk_wf hwf, decDAB_mk, hw, boolN, mdOf]

theorem pmapAttr g d a b : Statement (.pmapAttr g d a b) := by
  intro _ hwf
  have hw : (g.wf && d.isData && srcsWf [a, b]) = true := hwf
  simp only [Bool.and_eq_true] at hw
  show decodeRaw (mkDAB 0xE1 2 g d a b) = _
  rw [opcode_E1 rfl]
  simp [decPmap, mkDAB, guardDec_mkRaw (g := g) (by simp_all), Dst.dec_enc, Run.dec_enc, vregDec_vreg, accField_accEnc, zeroField, check, orMod, modIs_mk, decBit_mk, modBelow, litRule_nil, formOk_wf hwf, decDAB_mk, hw, mdOf]

theorem pmapUnmap g d a : Statement (.pmapUnmap g d a) := by
  intro _ hwf
  have hw : (g.wf && d.isData && srcsWf [a]) = true := hwf
  simp only [Bool.and_eq_true] at hw
  show decodeRaw (mkRaw 0xE1 g d.enc a.enc Reg.zr.enc 0#11 4 [a]) = _
  rw [opcode_E1 rfl]
  have hs : srcsWf [a] = true := by simp_all
  have hd := dec_of_wf hs
  have hl := (srcsWf_iff.mp hs).2
  simp only [List.forall_mem_cons, MemOp.srcs] at hd
  simp [decPmap, guardDec_mkRaw (g := g) (by simp_all), Dst.dec_enc, Run.dec_enc, vregDec_vreg, accField_accEnc, zeroField, check, orMod, modIs_mk, decBit_mk, modBelow, litRule_nil, litRule_mkRaw hl, hd, formOk_wf hwf, mdOf]

theorem pinv g sz a : Statement (.pinv g sz a) := by
  have e : (mdOf sz.code).toNat < 4 ∧ PageSz.ofCode (mdOf sz.code).toNat = some sz := by cases sz <;> decide
  intro _ hwf
  have hw : (g.wf && srcsWf [a]) = true := hwf
  simp only [Bool.and_eq_true] at hw
  show decodeRaw (mkA 0xE2 sz.code g a) = _
  rw [opcode_E2 rfl]
  simp [decPinv, mkA, guardDec_mkRaw (g := g) (by simp_all), Dst.dec_enc, Run.dec_enc, vregDec_vreg, accField_accEnc, zeroField, check, orMod, modIs_mk, decBit_mk, modBelow, litRule_nil, e, formOk_wf hwf, decA_mk, hw]

theorem pinvAll g : Statement (.pinvAll g) := by
  intro _ hwf
  have hw : (g.wf) = true := hwf
  show decodeRaw (mkRaw 0xE2 g 0#11 Reg.zr.enc 0#11 0#11 4 []) = _
  rw [opcode_E2 rfl]
  simp [decPinv, guardDec_mkRaw (g := g) (by simp_all), Dst.dec_enc, Run.dec_enc, vregDec_vreg, accField_accEnc, zeroField, check, orMod, modIs_mk, decBit_mk, modBelow, litRule_nil, formOk_wf hwf, mdOf]

theorem pmigStart d a b : Statement (.pmigStart d a b) := by
  intro _ hwf
  have hw : (d.isScalar && srcsWf [a, b]) = true := hwf
  simp only [Bool.and_eq_true] at hw
  show decodeRaw (mkDAB 0xE3 0 Guard.always d a b) = _
  rw [opcode_E3 rfl]
  have hs : srcsWf [a, b] = true := by simp_all
  have hd := dec_of_wf hs
  have hl := (srcsWf_iff.mp hs).2
  simp only [List.forall_mem_cons, MemOp.srcs] at hd
  simp [decPmig, mkDAB, guardDec_mkRaw always_wf, noGuard_mk, Dst.dec_enc, Run.dec_enc, vregDec_vreg, accField_accEnc, zeroField, check, orMod, modIs_mk, decBit_mk, modBelow, litRule_nil, litRule_mkRaw hl, hd, formOk_wf hwf, mdOf]

theorem pmigStat d a : Statement (.pmigStat d a) := by
  intro _ hwf
  have hw : (d.isScalar && srcsWf [a]) = true := hwf
  simp only [Bool.and_eq_true] at hw
  show decodeRaw (mkRaw 0xE3 Guard.always d.enc a.enc Reg.zr.enc 0#11 1 [a]) = _
  rw [opcode_E3 rfl]
  have hs : srcsWf [a] = true := by simp_all
  have hd := dec_of_wf hs
  have hl := (srcsWf_iff.mp hs).2
  simp only [List.forall_mem_cons, MemOp.srcs] at hd
  simp [decPmig, guardDec_mkRaw always_wf, noGuard_mk, Dst.dec_enc, Run.dec_enc, vregDec_vreg, accField_accEnc, zeroField, check, orMod, modIs_mk, decBit_mk, modBelow, litRule_nil, litRule_mkRaw hl, hd, formOk_wf hwf, mdOf, dec_zr]

theorem icinvLine a : Statement (.icinvLine a) := by
  intro _ hwf
  have hw : (srcsWf [a]) = true := hwf
  show decodeRaw (mkA 0xE4 0 Guard.always a) = _
  rw [opcode_E4 rfl]
  have hs : srcsWf [a] = true := by simp_all
  have hd := dec_of_wf hs
  have hl := (srcsWf_iff.mp hs).2
  simp only [List.forall_mem_cons, MemOp.srcs] at hd
  simp [decIcinv, mkA, guardDec_mkRaw always_wf, noGuard_mk, Dst.dec_enc, Run.dec_enc, vregDec_vreg, accField_accEnc, zeroField, check, orMod, modIs_mk, decBit_mk, modBelow, litRule_nil, litRule_mkRaw hl, hd, formOk_wf hwf, mdOf]

theorem icinvPage a : Statement (.icinvPage a) := by
  intro _ hwf
  have hw : (srcsWf [a]) = true := hwf
  show decodeRaw (mkA 0xE4 1 Guard.always a) = _
  rw [opcode_E4 rfl]
  have hs : srcsWf [a] = true := by simp_all
  have hd := dec_of_wf hs
  have hl := (srcsWf_iff.mp hs).2
  simp only [List.forall_mem_cons, MemOp.srcs] at hd
  simp [decIcinv, mkA, guardDec_mkRaw always_wf, noGuard_mk, Dst.dec_enc, Run.dec_enc, vregDec_vreg, accField_accEnc, zeroField, check, orMod, modIs_mk, decBit_mk, modBelow, litRule_nil, litRule_mkRaw hl, hd, formOk_wf hwf, mdOf]

theorem icinvAsid : Statement (.icinvAsid) := by
  intro _ hwf
  have hw : (true) = true := hwf
  show decodeRaw (mkA 0xE4 2 Guard.always (.reg .zr)) = _
  rw [opcode_E4 rfl]
  have hs : srcsWf [.reg .zr] = true := rfl
  have hl := (srcsWf_iff.mp hs).2
  simp [decIcinv, mkA, noGuard_mk, zeroField, litRule_mkRaw hl, mdOf, show ∀ lit, Src.dec (Src.reg .zr).enc lit = .ok (.reg .zr) from dec_zr]

theorem rdctlShb (w : Option Src) (d : Dst) : Statement (.rdctlShb w d) := by
  have e : (mdOf (8 * boolN w.isSome)).toNat < 16 ∧ (mdOf (8 * boolN w.isSome)).toNat % 8 = 0 ∧ bitN (mdOf (8 * boolN w.isSome)).toNat 3 = w.isSome := by generalize w.isSome = q; cases q <;> decide
  intro _ hwf
  have hw : (d.isScalar && optWf w) = true := hwf
  have hs := optWf_srcs (by simp_all : optWf w = true)
  show decodeRaw (mkRdctl 0 w d) = _
  rw [opcode_E5 rfl]
  simp [decRdctls, mkRdctl, e, modBelow, decRdctl, noGuard_mk, zeroField, Dst.dec_enc, optField_mk w (dec_of_wf hs),
    litRule_mkRaw (srcsWf_iff.mp hs).2, formOk_wf hwf]

theorem rdctlItab (w : Option Src) (d : Dst) : Statement (.rdctlItab w d) := by
  have e : (mdOf (1 + 8 * boolN w.isSome)).toNat < 16 ∧ (mdOf (1 + 8 * boolN w.isSome)).toNat % 8 = 1 ∧ bitN (mdOf (1 + 8 * boolN w.isSome)).toNat 3 = w.isSome := by generalize w.isSome = q; cases q <;> decide
  intro _ hwf
  have hw : (d.isScalar && optWf w) = true := hwf
  have hs := optWf_srcs (by simp_all : optWf w = true)
  show decodeRaw (mkRdctl 1 w d) = _
  rw [opcode_E5 rfl]
  simp [decRdctls, mkRdctl, e, modBelow, decRdctl, noGuard_mk, zeroField, Dst.dec_enc, optField_mk w (dec_of_wf hs),
    litRule_mkRaw (srcsWf_iff.mp hs).2, formOk_wf hwf]

theorem rdctlRbase (w : Option Src) (d : Dst) : Statement (.rdctlRbase w d) := by
  have e : (mdOf (2 + 8 * boolN w.isSome)).toNat < 16 ∧ (mdOf (2 + 8 * boolN w.isSome)).toNat % 8 = 2 ∧ bitN (mdOf (2 + 8 * boolN w.isSome)).toNat 3 = w.isSome := by generalize w.isSome = q; cases q <;> decide
  intro _ hwf
  have hw : (d.isScalar && optWf w) = true := hwf
  have hs := optWf_srcs (by simp_all : optWf w = true)
  show decodeRaw (mkRdctl 2 w d) = _
  rw [opcode_E5 rfl]
  simp [decRdctls, mkRdctl, e, modBelow, decRdctl, noGuard_mk, zeroField, Dst.dec_enc, optField_mk w (dec_of_wf hs),
    litRule_mkRaw (srcsWf_iff.mp hs).2, formOk_wf hwf]

theorem rdctlRsize (w : Option Src) (d : Dst) : Statement (.rdctlRsize w d) := by
  have e : (mdOf (3 + 8 * boolN w.isSome)).toNat < 16 ∧ (mdOf (3 + 8 * boolN w.isSome)).toNat % 8 = 3 ∧ bitN (mdOf (3 + 8 * boolN w.isSome)).toNat 3 = w.isSome := by generalize w.isSome = q; cases q <;> decide
  intro _ hwf
  have hw : (d.isScalar && optWf w) = true := hwf
  have hs := optWf_srcs (by simp_all : optWf w = true)
  show decodeRaw (mkRdctl 3 w d) = _
  rw [opcode_E5 rfl]
  simp [decRdctls, mkRdctl, e, modBelow, decRdctl, noGuard_mk, zeroField, Dst.dec_enc, optField_mk w (dec_of_wf hs),
    litRule_mkRaw (srcsWf_iff.mp hs).2, formOk_wf hwf]

theorem rdctlCtl (w : Option Src) (d : Dst) : Statement (.rdctlCtl w d) := by
  have e : (mdOf (4 + 8 * boolN w.isSome)).toNat < 16 ∧ (mdOf (4 + 8 * boolN w.isSome)).toNat % 8 = 4 ∧ bitN (mdOf (4 + 8 * boolN w.isSome)).toNat 3 = w.isSome := by generalize w.isSome = q; cases q <;> decide
  intro _ hwf
  have hw : (d.isScalar && optWf w) = true := hwf
  have hs := optWf_srcs (by simp_all : optWf w = true)
  show decodeRaw (mkRdctl 4 w d) = _
  rw [opcode_E5 rfl]
  simp [decRdctls, mkRdctl, e, modBelow, decRdctl, noGuard_mk, zeroField, Dst.dec_enc, optField_mk w (dec_of_wf hs),
    litRule_mkRaw (srcsWf_iff.mp hs).2, formOk_wf hwf]

theorem rdctlRhead (w : Option Src) (d : Dst) : Statement (.rdctlRhead w d) := by
  have e : (mdOf (5 + 8 * boolN w.isSome)).toNat < 16 ∧ (mdOf (5 + 8 * boolN w.isSome)).toNat % 8 = 5 ∧ bitN (mdOf (5 + 8 * boolN w.isSome)).toNat 3 = w.isSome := by generalize w.isSome = q; cases q <;> decide
  intro _ hwf
  have hw : (d.isScalar && optWf w) = true := hwf
  have hs := optWf_srcs (by simp_all : optWf w = true)
  show decodeRaw (mkRdctl 5 w d) = _
  rw [opcode_E5 rfl]
  simp [decRdctls, mkRdctl, e, modBelow, decRdctl, noGuard_mk, zeroField, Dst.dec_enc, optField_mk w (dec_of_wf hs),
    litRule_mkRaw (srcsWf_iff.mp hs).2, formOk_wf hwf]

theorem rdctlRtail (w : Option Src) (d : Dst) : Statement (.rdctlRtail w d) := by
  have e : (mdOf (6 + 8 * boolN w.isSome)).toNat < 16 ∧ (mdOf (6 + 8 * boolN w.isSome)).toNat % 8 = 6 ∧ bitN (mdOf (6 + 8 * boolN w.isSome)).toNat 3 = w.isSome := by generalize w.isSome = q; cases q <;> decide
  intro _ hwf
  have hw : (d.isScalar && optWf w) = true := hwf
  have hs := optWf_srcs (by simp_all : optWf w = true)
  show decodeRaw (mkRdctl 6 w d) = _
  rw [opcode_E5 rfl]
  simp [decRdctls, mkRdctl, e, modBelow, decRdctl, noGuard_mk, zeroField, Dst.dec_enc, optField_mk w (dec_of_wf hs),
    litRule_mkRaw (srcsWf_iff.mp hs).2, formOk_wf hwf]

theorem rdctlRdrop (w : Option Src) (d : Dst) : Statement (.rdctlRdrop w d) := by
  have e : (mdOf (7 + 8 * boolN w.isSome)).toNat < 16 ∧ (mdOf (7 + 8 * boolN w.isSome)).toNat % 8 = 7 ∧ bitN (mdOf (7 + 8 * boolN w.isSome)).toNat 3 = w.isSome := by generalize w.isSome = q; cases q <;> decide
  intro _ hwf
  have hw : (d.isScalar && optWf w) = true := hwf
  have hs := optWf_srcs (by simp_all : optWf w = true)
  show decodeRaw (mkRdctl 7 w d) = _
  rw [opcode_E5 rfl]
  simp [decRdctls, mkRdctl, e, modBelow, decRdctl, noGuard_mk, zeroField, Dst.dec_enc, optField_mk w (dec_of_wf hs),
    litRule_mkRaw (srcsWf_iff.mp hs).2, formOk_wf hwf]

theorem sdeclCreate g d a b : Statement (.sdeclCreate g d a b) := by
  intro _ hwf
  have hw : (g.wf && srcsWf [a, b]) = true := hwf
  simp only [Bool.and_eq_true] at hw
  show decodeRaw (mkDAB 0xE6 0 g d a b) = _
  rw [opcode_E6 rfl]
  simp [decSdecl, mkDAB, guardDec_mkRaw (g := g) (by simp_all), Dst.dec_enc, Run.dec_enc, vregDec_vreg, accField_accEnc, zeroField, check, orMod, modIs_mk, decBit_mk, modBelow, litRule_nil, formOk_wf hwf, decDAB_mk, hw, mdOf]

theorem sdeclGrow g d a b : Statement (.sdeclGrow g d a b) := by
  intro _ hwf
  have hw : (g.wf && srcsWf [a, b]) = true := hwf
  simp only [Bool.and_eq_true] at hw
  show decodeRaw (mkDAB 0xE6 1 g d a b) = _
  rw [opcode_E6 rfl]
  simp [decSdecl, mkDAB, guardDec_mkRaw (g := g) (by simp_all), Dst.dec_enc, Run.dec_enc, vregDec_vreg, accField_accEnc, zeroField, check, orMod, modIs_mk, decBit_mk, modBelow, litRule_nil, formOk_wf hwf, decDAB_mk, hw, mdOf]

theorem sdeclRetire g d a : Statement (.sdeclRetire g d a) := by
  intro _ hwf
  have hw : (g.wf && srcsWf [a]) = true := hwf
  simp only [Bool.and_eq_true] at hw
  show decodeRaw (mkRaw 0xE6 g d.enc a.enc Reg.zr.enc 0#11 2 [a]) = _
  rw [opcode_E6 rfl]
  have hs : srcsWf [a] = true := by simp_all
  have hd := dec_of_wf hs
  have hl := (srcsWf_iff.mp hs).2
  simp only [List.forall_mem_cons, MemOp.srcs] at hd
  simp [decSdecl, guardDec_mkRaw (g := g) (by simp_all), Dst.dec_enc, Run.dec_enc, vregDec_vreg, accField_accEnc, zeroField, check, orMod, modIs_mk, decBit_mk, modBelow, litRule_nil, litRule_mkRaw hl, hd, formOk_wf hwf, mdOf]

theorem gtblSpill g d a b : Statement (.gtblSpill g d a b) := by
  intro _ hwf
  have hw : (g.wf && srcsWf [a, b]) = true := hwf
  simp only [Bool.and_eq_true] at hw
  show decodeRaw (mkDAB 0xE7 0 g d a b) = _
  rw [opcode_E7 rfl]
  simp [decGtbl, mkDAB, guardDec_mkRaw (g := g) (by simp_all), Dst.dec_enc, Run.dec_enc, vregDec_vreg, accField_accEnc, zeroField, check, orMod, modIs_mk, decBit_mk, modBelow, litRule_nil, formOk_wf hwf, decDAB_mk, hw, mdOf]

theorem gtblCont g d a b : Statement (.gtblCont g d a b) := by
  intro _ hwf
  have hw : (g.wf && srcsWf [a, b]) = true := hwf
  simp only [Bool.and_eq_true] at hw
  show decodeRaw (mkDAB 0xE7 1 g d a b) = _
  rw [opcode_E7 rfl]
  simp [decGtbl, mkDAB, guardDec_mkRaw (g := g) (by simp_all), Dst.dec_enc, Run.dec_enc, vregDec_vreg, accField_accEnc, zeroField, check, orMod, modIs_mk, decBit_mk, modBelow, litRule_nil, formOk_wf hwf, decDAB_mk, hw, mdOf]

theorem rep (n : BitVec 6) (ds as bs cs : BitVec 4) : Statement (.rep n ds as bs cs) := by
  intro _ _
  show decodeRaw (mkRep n ds as bs cs) = _
  rw [opcode_FC rfl]
  have hp : ∀ p : BitVec 22, p.extractLsb' 11 11 ++ p.extractLsb' 0 11 = p := by
    intro p
    ext i hi
    simp only [BitVec.getElem_append, BitVec.getElem_extractLsb']
    split <;> simp [← BitVec.getLsbD_eq_getElem]
    congr 1; omega
  simp only [decRep, mkRep, noGuard_mk, except_ok_bind, mkRaw_b, mkRaw_c, mkRaw_d, mkRaw_a, mkRaw_lx, zeroField, hp]
  have h1 : (n ++ ds ++ as ++ bs ++ cs).extractLsb' 16 6 = n ∧ (n ++ ds ++ as ++ bs ++ cs).extractLsb' 12 4 = ds ∧
      (n ++ ds ++ as ++ bs ++ cs).extractLsb' 8 4 = as ∧ (n ++ ds ++ as ++ bs ++ cs).extractLsb' 4 4 = bs ∧
      (n ++ ds ++ as ++ bs ++ cs).extractLsb' 0 4 = cs := by
    refine ⟨?_, ?_, ?_, ?_, ?_⟩ <;>
    · ext i hi
      simp [BitVec.getElem_extractLsb', ← BitVec.getLsbD_eq_getElem]
      try grind
  simp [modIs_mk, check, lxOf, h1]

theorem unassignedOpcode a : Statement (.unassignedOpcode a) := fun h => by cases h

theorem comparatorBreakpoint a : Statement (.comparatorBreakpoint a) := fun h => by cases h

theorem spawnBinTimeout a b : Statement (.spawnBinTimeout a b) := fun h => by cases h

theorem submissionLine a : Statement (.submissionLine a) := fun h => by cases h

theorem warpDispatch a b c d : Statement (.warpDispatch a b c d) := fun h => by cases h

theorem warpRetirement a : Statement (.warpRetirement a) := fun h => by cases h

theorem loadCompletion a : Statement (.loadCompletion a) := fun h => by cases h

theorem rowGrant a b : Statement (.rowGrant a b) := fun h => by cases h

theorem eviction a b : Statement (.eviction a b) := fun h => by cases h

theorem gbarWaitYield a : Statement (.gbarWaitYield a) := fun h => by cases h

theorem agingPromotion a b : Statement (.agingPromotion a b) := fun h => by cases h

theorem timeSliceExpiry a : Statement (.timeSliceExpiry a) := fun h => by cases h

theorem contextStreamOut a b : Statement (.contextStreamOut a b) := fun h => by cases h

theorem contextRestore a b : Statement (.contextRestore a b) := fun h => by cases h

theorem copyBegin a b : Statement (.copyBegin a b) := fun h => by cases h

theorem copyTransfer a b c : Statement (.copyTransfer a b c) := fun h => by cases h

theorem copyCompletion a b : Statement (.copyCompletion a b) := fun h => by cases h

theorem copyFaultDelivery a : Statement (.copyFaultDelivery a) := fun h => by cases h

theorem decoderOutput a b : Statement (.decoderOutput a b) := fun h => by cases h

theorem decoderJobEnd a b : Statement (.decoderJobEnd a b) := fun h => by cases h

theorem alarmDelivery a : Statement (.alarmDelivery a) := fun h => by cases h

theorem mmaExecution a : Statement (.mmaExecution a) := fun h => by cases h

theorem saccExecution a : Statement (.saccExecution a) := fun h => by cases h

theorem acczExecution a : Statement (.acczExecution a) := fun h => by cases h

theorem accoutExecution a : Statement (.accoutExecution a) := fun h => by cases h

theorem matrixNanTrapDelivery a : Statement (.matrixNanTrapDelivery a) := fun h => by cases h

theorem nanTrapDelivery a : Statement (.nanTrapDelivery a) := fun h => by cases h

theorem sparseEngineOperation a : Statement (.sparseEngineOperation a) := fun h => by cases h

theorem nodeReclamation a : Statement (.nodeReclamation a) := fun h => by cases h

theorem watchdogExpiry a : Statement (.watchdogExpiry a) := fun h => by cases h

theorem lostWriteMachineCheck a b : Statement (.lostWriteMachineCheck a b) := fun h => by cases h

theorem migrationLineMove a : Statement (.migrationLineMove a) := fun h => by cases h

theorem migrationCompletion a : Statement (.migrationCompletion a) := fun h => by cases h

theorem hostCxlMemRead a : Statement (.hostCxlMemRead a) := fun h => by cases h

theorem hostCxlMemWrite a b : Statement (.hostCxlMemWrite a b) := fun h => by cases h

theorem hostSnoopResponse a : Statement (.hostSnoopResponse a) := fun h => by cases h

theorem enqPortWrite a b c : Statement (.enqPortWrite a b c) := fun h => by cases h

theorem deqPortRead a b : Statement (.deqPortRead a b) := fun h => by cases h

theorem contextLive a b : Statement (.contextLive a b) := fun h => by cases h

theorem contextEnd a : Statement (.contextEnd a) := fun h => by cases h

theorem hostWaitResume a b : Statement (.hostWaitResume a b) := fun h => by cases h

theorem hostWaitSkip a b : Statement (.hostWaitSkip a b) := fun h => by cases h

theorem hostWaitExit a b : Statement (.hostWaitExit a b) := fun h => by cases h

theorem hostWaitReenter a b : Statement (.hostWaitReenter a b) := fun h => by cases h

theorem fpoolWrite a b : Statement (.fpoolWrite a b) := fun h => by cases h

theorem fretWrite a : Statement (.fretWrite a) := fun h => by cases h

theorem frameFillCompletion a : Statement (.frameFillCompletion a) := fun h => by cases h

theorem devnumWrite a : Statement (.devnumWrite a) := fun h => by cases h

theorem scrivenerMailboxRequest a b c d e : Statement (.scrivenerMailboxRequest a b c d e) := fun h => by cases h

theorem hubRegisterWrite a b c : Statement (.hubRegisterWrite a b c) := fun h => by cases h

theorem bltctlWrite a : Statement (.bltctlWrite a) := fun h => by cases h

theorem blotiRisingEdge : Statement (.blotiRisingEdge) := fun h => by cases h

theorem bltcmpMatch : Statement (.bltcmpMatch) := fun h => by cases h

theorem lockInterfaceRequest a : Statement (.lockInterfaceRequest a) := fun h => by cases h

theorem startInterfaceRequest a : Statement (.startInterfaceRequest a) := fun h => by cases h

theorem stopInterfaceRequest a : Statement (.stopInterfaceRequest a) := fun h => by cases h

theorem interfaceBreach a : Statement (.interfaceBreach a) := fun h => by cases h

theorem coldReset : Statement (.coldReset) := fun h => by cases h

theorem warmReset : Statement (.warmReset) := fun h => by cases h

theorem functionLevelReset a : Statement (.functionLevelReset a) := fun h => by cases h

theorem dvfsPointSelect a b : Statement (.dvfsPointSelect a b) := fun h => by cases h

theorem powerTrip : Statement (.powerTrip) := fun h => by cases h

theorem thermalLimit a : Statement (.thermalLimit a) := fun h => by cases h

theorem thermtrip : Statement (.thermtrip) := fun h => by cases h

theorem dieLinkRetrain a : Statement (.dieLinkRetrain a) := fun h => by cases h

theorem scaleupRequestTimeout a : Statement (.scaleupRequestTimeout a) := fun h => by cases h

theorem deviceUnreachable a : Statement (.deviceUnreachable a) := fun h => by cases h

theorem linkRecalibration a : Statement (.linkRecalibration a) := fun h => by cases h

theorem patrolScrub a : Statement (.patrolScrub a) := fun h => by cases h

theorem dramRefresh a b : Statement (.dramRefresh a b) := fun h => by cases h

theorem telemetrySample : Statement (.telemetrySample) := fun h => by cases h

theorem remoteDeviceRequest a b : Statement (.remoteDeviceRequest a b) := fun h => by cases h

theorem flitResend a : Statement (.flitResend a) := fun h => by cases h

theorem dieLinkRetrainComplete a : Statement (.dieLinkRetrainComplete a) := fun h => by cases h

theorem scaleUpRouteTrained a : Statement (.scaleUpRouteTrained a) := fun h => by cases h

theorem firmwareCoreAccess a b : Statement (.firmwareCoreAccess a b) := fun h => by cases h

theorem blotoPulseEnd : Statement (.blotoPulseEnd) := fun h => by cases h

end Laws.RoundTrip

end Sys2Proof
end

