-- ==== Sys2Proof/Tests/Slice0.lean ====
section
/-! SUPPORT. Tests: ill-formed terms, words written out from the encoding tables, results the specification states, and
for every statement a state that meets its hypotheses. -/

namespace Sys2Proof.Tests

open Sys2Proof Sys2Proof.Machine

/-! ### Instructions and small states -/

abbrev always : Guard := ⟨0#3, false⟩
abbrev V (n : BitVec 8) : Src := .reg (.v n)
abbrev S (n : BitVec 6) : Src := .reg (.s n)
abbrev dV (n : BitVec 8) : Dst := .reg (.v n)
abbrev dS (n : BitVec 6) : Dst := .reg (.s n)
abbrev dM (n : BitVec 3) : Dst := .reg (.m n)
abbrev I (n : Nat) : Src := .lit .int (wordN n)
def mem (b : Src) : MemOp := ⟨b, .reg .zr, 0#2, 0#9⟩
def rem (b : Src) : ScopeOp := ⟨b, 5#4, 0#9⟩

/-- Rows with one value in every lane, from v1 on; nothing elsewhere. -/
def rowsOf (vs : List Val) : List Row := (nilRow :: vs.map rowOf) ++ List.replicate (255 - vs.length) nilRow

/-- Scalar registers from s1 on. -/
def scalarsOf (vs : List Val) : List Val := (vZero :: vs) ++ List.replicate (63 - vs.length) vZero

/-- A page that a user may read and write: virtual page, frame, class, more flags. -/
def pageOf (va : Nat) (cls flags : Nat) : TlbE :=
  ⟨1, va, 65536, wordN (va + 0x1000000 + 0x3A3 + flags + cls * 2 ^ 14)⟩

/-- The pages: tagged, raw, movable, with cards, sparse (for the supervisor), and the handlers' table. -/
def pages : List TlbE := [pageOf 0x100000 0 0, pageOf 0x110000 1 0x40, pageOf 0x120000 0 0x2000, pageOf 0x130000 0 0x1000,
  ⟨1, 0x160000, 65536, wordN (0x1160000 + 0x323 + 2 * 2 ^ 14)⟩, pageOf 0x170000 0 0]

/-- Memory that holds these words, listed by rising virtual address of the pages. -/
def memOf (l : List (Nat × Val)) : Memory :=
  { bytes := l.flatMap fun p => (List.range 8).filterMap fun k =>
      if p.2.n / 256 ^ k % 256 = 0 then none else some (p.1 + 0x1000000 + k, BitVec.ofNat 8 (p.2.n / 256 ^ k))
    tags := l.filterMap fun p => if p.2.tag = .int then none
      else some ((p.1 + 0x1000000) / 8, BitVec.ofNat 4 p.2.tag.toNat) }

/-- Consecutive INT words. -/
def ints (va : Nat) (l : List Nat) : List (Nat × Val) := l.zipIdx.map fun p => (va + 8 * p.2, vNat p.1)

/-- A supervisor handler for every class of fault. -/
def handlers : List (Nat × Val) := (List.range 18).map fun k => (0x170000 + 8 * k, ⟨.code, wordN (0x30000 + 64 * k)⟩)

abbrev me : Nat := State.reset.nextUid

/-- One warp on core (0, 0, 0) with lanes 0 and 1 in EM, the pages in its cluster's translation buffer, the handlers'
table, and these words in memory: those of pages below it and those above. -/
def standing (rows scalars : List Val) (below above : List (Nat × Val)) : State :=
  let s := updCluster (placeCode State.reset 0) placePos fun c => { c with tlb := pages }
  let s := updCtx s 1 fun c => { c with svtb := 0x170000#64 }
  { updWarp s me (fun w => { w with v := rowsOf rows, sreg := scalarsOf scalars, em := 3#32 }) with
    mem := memOf (below ++ handlers ++ above), cur := me }

/-! ### What witnesses rest on -/

/-- The checks of `Accepts`, computed. -/
def accept (s : State) (i : Ins) : Option (State × Ready) :=
  match s.issuer with
  | none => none
  | some w =>
    if !(awaits w i) && !(i.bad w) && (!i.priv || w.sup) && effLanes w i.g != 0#32 && insOk w i (insVec w i)
        && (i.srcs.all (srcChanOk w) && i.dsts.all (dstChanOk w (insVec w i))) && (i.pre w).isNone then
      match (dstReady s w i (insVec w i)).bind fun s _ => readSrcs s w i.srcs (replayPopped w) with
      | .ok t x => some (t, ⟨w, effLanes w i.g, insVec w i, x.1, x.2, i.whole⟩)
      | _ => none
    else none

theorem accept_sound {s t : State} {i : Ins} {r : Ready} (h : accept s i = some (t, r)) : Accepts s i t r := by
  simp only [accept] at h
  split at h
  · cases h
  · next w hw =>
    split at h
    · next hc =>
      simp only [Bool.and_eq_true, Bool.or_eq_true, Bool.not_eq_true', bne_iff_ne, Option.isNone_iff_eq_none] at hc
      obtain ⟨⟨⟨⟨⟨⟨h1, h2⟩, h3⟩, h4⟩, h5⟩, h6⟩, h7⟩ := hc
      split at h
      · next x hx =>
        cases h
        exact ⟨hw, h1, h2, rfl, rfl, h4, rfl, fun hp => h3.resolve_left (by simp [hp]), h5, by simp [h6], h7, hx⟩
      · cases h
    · cases h

/-- Some state and operands meet a lane instruction's checks and `q`. -/
def laneIf (q : LaneSpec → State → Ready → Bool) (spec : State → Instr → Option LaneSpec) (s : State) (i : Instr) : Bool :=
  match spec s i with
  | none => false
  | some L => match accept s L.ins with
    | none => false
    | some (t, r) => q L t r

theorem lane_if {q : LaneSpec → State → Ready → Bool} {spec : State → Instr → Option LaneSpec} {s : State} {i : Instr}
    (h : laneIf q spec s i = true) : ∃ t L r, spec s i = some L ∧ Accepts s L.ins t r ∧ q L t r = true := by
  simp only [laneIf] at h
  split at h
  · cases h
  · next L hL =>
    split at h
    · cases h
    · next t r ha => exact ⟨t, L, r, hL, accept_sound ha, h⟩

/-- Every executing lane has a result. -/
def allOk (L : LaneSpec) (_ : State) (r : Ready) : Bool :=
  (L.on r).all fun k => match L.res r k with
    | some (.ok _ _ _) => true
    | _ => false

/-- The hypotheses of a lane instruction's completion statement, computed. -/
def laneMet (spec : State → Instr → Option LaneSpec) (s : State) (i : Instr) : Bool := laneIf allOk spec s i

theorem allOk_sound {L : LaneSpec} {t : State} {r : Ready} (h : allOk L t r = true) : L.ok r := by
  intro k hk
  have := List.all_eq_true.mp h k hk
  split at this
  · next vs fl n e => exact ⟨vs, fl, n, e⟩
  · cases this

theorem lane_met {spec : State → Instr → Option LaneSpec} {s : State} {i : Instr} (h : laneMet spec s i = true) :
    ∃ t L r, spec s i = some L ∧ Accepts s L.ins t r ∧ L.ok r :=
  let ⟨t, L, r, hL, ha, hq⟩ := lane_if h
  ⟨t, L, r, hL, ha, allOk_sound hq⟩

/-- Some state and operands meet an instruction's checks, its table's condition and `q`. -/
def effectIf (q : State → Ready → Bool) (tbl : State → Instr → Option Effect) (s : State) (i : Instr) : Bool :=
  match tbl s i with
  | none => false
  | some e => match accept s e.ins with
    | none => false
    | some (t, r) => (e.post t r).isSome && q t r

theorem effect_if {q : State → Ready → Bool} {tbl : State → Instr → Option Effect} {s : State} {i : Instr}
    (h : effectIf q tbl s i = true) :
    ∃ t t' e r, tbl s i = some e ∧ Accepts s e.ins t r ∧ e.post t r = some t' ∧ q t r = true := by
  simp only [effectIf] at h
  split at h
  · cases h
  · next e he =>
    split at h
    · cases h
    · next t r ha =>
      simp only [Bool.and_eq_true] at h
      obtain ⟨t', ht⟩ := Option.isSome_iff_exists.mp h.1
      exact ⟨t, t', e, r, he, accept_sound ha, ht, h.2⟩

/-- The hypotheses of an effect's statement, computed. -/
def effectMet (tbl : State → Instr → Option Effect) (s : State) (i : Instr) : Bool := effectIf (fun _ _ => true) tbl s i

theorem effect_met {tbl : State → Instr → Option Effect} {s : State} {i : Instr} (h : effectMet tbl s i = true) :
    ∃ t t' e r, tbl s i = some e ∧ Accepts s e.ins t r ∧ e.post t r = some t' :=
  let ⟨t, t', e, r, he, ha, hp, _⟩ := effect_if h
  ⟨t, t', e, r, he, ha, hp⟩

set_option maxRecDepth 20000
set_option Elab.async false


/-! ### States that meet the hypotheses of the lane instructions' statements -/

def withInts : State := standing [vNat 7, vNat 3, vNat 0x305] [vNat 7, vNat 3, vNat 0x305, vBool true] [] []

def integers : List Instr := [
  .iadd always .ss (dV 9) (V 1) (V 2), .isub always .us (dV 9) (V 1) (V 2), .imul always .wrap (dS 9) (S 1) (S 2),
  .imulh always true (dV 9) (V 1) (V 2), .idivt always false (dV 9) (V 1) (V 2), .iremt always false (dV 9) (V 1) (V 2),
  .imad always .ss (dV 9) (V 1) (V 2) (V 3), .imin always (dV 9) (V 1) (V 2), .imax always (dV 9) (V 1) (V 2),
  .nmin always (dV 9) (V 1) (V 2), .nmax always (dV 9) (V 1) (V 2), .icmp always .ltu (dV 9) (V 1) (V 2),
  .sel always false (dV 9) (V 1) (V 2) (S 4), .lea always 3 (dV 9) (V 1) (V 2) (V 3)]

def bitwise : List Instr := [
  .and always (dV 9) (V 1) (V 2), .or always (dV 9) (V 1) (V 2), .xor always (dV 9) (V 1) (V 2), .andn always (dV 9) (V 1) (V 2),
  .not always (dV 9) (V 1), .shl always true (dV 9) (V 1) (V 2), .shr always false (dV 9) (V 1) (V 2),
  .sar always true (dV 9) (V 1) (V 2), .rol always (dV 9) (V 1) (V 2), .popc always (dV 9) (V 1), .clz always (dV 9) (V 1),
  .ctz always (dV 9) (V 1), .brev always (dV 9) (V 1), .bfx always true (dV 9) (V 1) (V 3), .bfi always (dV 9) (V 1) (V 3) (V 2)]

theorem integers_met : ∀ i ∈ integers ++ bitwise,
    ∃ t L r, (intSpec withInts i).or (bitSpec withInts i) = some L ∧ Accepts withInts L.ins t r ∧ L.ok r :=
  fun _ hi => lane_met (List.all_eq_true.mp (by decide +kernel :
    (integers ++ bitwise).all (laneMet (fun s i => (intSpec s i).or (bitSpec s i)) withInts) = true) _ hi)

def generics : List Instr := [
  .add always (dV 9) (V 1) (V 2), .sub always (dV 9) (V 1) (V 2), .mul always (dV 9) (V 1) (V 2), .div always (dV 9) (V 1) (V 2),
  .idiv always (dV 9) (V 1) (V 2), .mod always (dV 9) (V 1) (V 2), .neg always (dV 9) (V 1), .abs always (dV 9) (V 1),
  .min always (dV 9) (V 1) (V 2), .max always (dV 9) (V 1) (V 2), .ceq always (dV 9) (V 1) (V 2), .cne always (dV 9) (V 1) (V 2),
  .clt always (dV 9) (V 1) (V 2), .cle always (dV 9) (V 1) (V 2), .truth always (dV 9) (V 1), .tagof always (dV 9) (V 1),
  .tagset always 2#4 (dV 9) (V 1), .tagsetDyn always (dV 9) (V 1) (V 2), .tagis always (dV 9) (V 1) (V 2), .mov always (dV 9) (V 1)]

theorem generics_met : ∀ i ∈ generics, ∃ t L r, genSpec withInts i = some L ∧ Accepts withInts L.ins t r ∧ L.ok r :=
  fun _ hi => lane_met (List.all_eq_true.mp (by decide +kernel : generics.all (laneMet genSpec withInts) = true) _ hi)

/-- 1.5 and -0.75 as F32. -/
def withFloats : State :=
  standing [⟨.f32, 0x3FC00000#64⟩, ⟨.f32, 0xBF400000#64⟩, ⟨.f32, 0x3FC00000#64⟩, ⟨.f32, 0x3FC00000#64⟩] [] [] []

def floats : List Instr := [
  .fadd always false .rne (dV 9) (V 1) (V 2), .fsub always true .rtz (dV 9) (V 1) (V 2), .fmul always false .rup (dV 9) (V 1) (V 2),
  .ffma always false .rna (dV 9) (V 1) (V 2) (V 1), .fdiv always true .rdn (dV 9) (V 1) (V 2), .fsqrt always false .dyn (dV 9) (V 1),
  .fmin always false (dV 9) (V 1) (V 2), .fmax always true (dV 9) (V 1) (V 2), .fcmp always false .lt (dV 9) (V 1) (V 2),
  .frnd always false .rne (dV 9) (V 1), .fabs always false (dV 9) (V 2), .fneg always true (dV 9) (V 1),
  .log2 always false (dV 9) (V 1), .exp2 always false (dV 9) (V 1), .rcp always false (dV 9) (V 1), .rsq always false (dV 9) (V 1),
  .sin always false (dV 9) (V 1), .cos always false (dV 9) (V 1)]

theorem floats_met : ∀ i ∈ floats, ∃ t L r, floatSpec withFloats i = some L ∧ Accepts withFloats L.ins t r ∧ L.ok r :=
  fun _ hi => lane_met (List.all_eq_true.mp (by decide +kernel : floats.all (laneMet floatSpec withFloats) = true) _ hi)

def conversions : List (State × Instr) := [
  (withFloats, .cvt always .i64 .rtz (dV 9) (V 1)), (withInts, .cvt always .f32 .rne (dV 9) (V 1)),
  (withFloats, .pack always .bf16 0#3 (dV 9) (.v 1#8)), (withInts, .unpk always .i8 false (.v 9#8) (V 1)),
  (withInts, .k8dec always false 1#2 (.v 9#8) (V 1)), (withInts, .hash always (dV 9) (V 1) (V 2)),
  (withInts, .rndu always (dV 9) (V 1) (V 2))]



theorem conversions_met : ∀ p ∈ conversions, ∃ t L r, convSpec p.1 p.2 = some L ∧ Accepts p.1 L.ins t r ∧ L.ok r :=
  fun _ hp => lane_met (List.all_eq_true.mp
    (by decide +kernel : conversions.all (fun p => laneMet convSpec p.1 p.2) = true) _ hp)

def crossLanes : List Instr := [
  .mand always (dM 3) (S 1) (S 2), .mor always (dM 3) (S 1) (S 2), .mxor always (dS 9) (S 1) (S 2), .mnot always (dM 3) (S 1),
  .mpopc always (dS 9) (V 1), .mffs always true (dS 9) (S 1), .mset always true (dM 3) (V 1), .mget always (dV 9) (S 1),
  .vote always .same (dS 9) (V 1), .shfl always .rot none (dV 9) (V 1) (V 2), .lgather always 2#3 (dV 9) 1#8 (V 2),
  .bcast always none (dS 9) (V 1)]

theorem crossLanes_met : ∀ i ∈ crossLanes, ∃ t L r, crossSpec withInts i = some L ∧ Accepts withInts L.ins t r ∧ L.ok r :=
  fun _ hi => lane_met (List.all_eq_true.mp (by decide +kernel : crossLanes.all (laneMet crossSpec withInts) = true) _ hi)

def combining : List Instr := [
  .redw always .add .i (dS 9) (V 1) (V 0), .redw always .argmin .i (dS 9) (V 1) (V 2), .scanw always .max .i true (dV 9) (V 1),
  .topk always 0#3 .i false false 9#8 1#8 (S 2), .merge always .i 9#8 1#8 3#8, .sortw always .i true 9#8 1#8]

theorem combining_met : ∀ i ∈ combining, ∃ t L r, rowSpec withInts i = some L ∧ Accepts withInts L.ins t r ∧ L.ok r :=
  fun _ hi => lane_met (List.all_eq_true.mp (by decide +kernel : combining.all (laneMet rowSpec withInts) = true) _ hi)

def registerReads : List Instr := (List.range 40).filterMap fun n =>
  if n = 29 then none else some (.mfs always (dV 9) (BitVec.ofNat 8 n))

theorem registerReads_met :
    ∀ i ∈ registerReads, ∃ t L r, mfsSpec withInts i = some L ∧ Accepts withInts L.ins t r ∧ L.ok r :=
  fun _ hi => lane_met (List.all_eq_true.mp (by decide +kernel : registerReads.all (laneMet mfsSpec withInts) = true) _ hi)

theorem timeRead_met : ∃ t t' e r, timeSpec withInts (.mfs always (dS 9) 29#8) = some e ∧ Accepts withInts e.ins t r ∧
    e.post t r = some t' := effect_met (by decide)

/-! ### States that meet the hypotheses of the other instructions' statements -/

/-- s1: a condition, s2: a code address, s3: a counter. -/
def withFlow : State := standing [vBool true] [vBool true, ⟨.code, 0x40000#64⟩, vNat 5] [] []

def flow : List Instr := [
  .jmp always 4#33, .br always false (S 1) 4#33, .call always (dS 9) 4#33, .callr always (dS 9) (S 2), .ret always (S 2),
  .loopd always 3#6 (-4), .exit always, .nop always, .brd always false (V 1) 4#33 8#33]

theorem flow_met : ∀ i ∈ flow, ∃ t t' e r, flowSpec withFlow i = some e ∧ Accepts withFlow e.ins t r ∧ e.post t r = some t' :=
  fun _ hi => effect_met (List.all_eq_true.mp (by decide +kernel : flow.all (effectMet flowSpec withFlow) = true) _ hi)

/-- In a lane handler of an ADD with destination v9. -/
def inHandler : State :=
  updWarp withInts me fun w => { w with
    hnd := true, stack := [⟨.handler, false, 0x10010#56, 1, 0, 3#32⟩]
    hframes := [{ latches := [], ha := nilRow, hb := nilRow, hopRsn := false, hopCls := 0, hpc := 0#56, repc := 0, hnd := false
                  alarm := false
                  div := some { dst := dV 9, vec := true, pushes := true, acc := nilRow, offs := [], pc := 0x10000#56
                                redo := none, oa := nilRow, ob := nilRow, popped := [] } }] }

def system : List (State × Instr) := [
  (withInts, .trap always (S 1)), (withInts, .sysc always (S 1)), (withInts, .bkpt always), (inHandler, .hret (V 1)),
  (withInts, .mts always (S 1) 15#8), (withInts, .mts always (V 1) 16#8), (withInts, .mts always (S 1) 0#8),
  (withInts, .snap always (S 1))]

theorem system_met : ∀ p ∈ system, ∃ t t' e r, systemSpec p.1 p.2 = some e ∧ Accepts p.1 e.ins t r ∧ e.post t r = some t' :=
  fun _ hp => effect_met (List.all_eq_true.mp (by decide +kernel : system.all (fun p => effectMet systemSpec p.1 p.2) = true) _ hp)


/-- s1: a tagged word, s2: data, s3: a queue descriptor, s4: a scratchpad offset, s5: another core's window. -/
def withMemory : State :=
  updWarp (standing [vNat 0x100800, vNat 5, vNat 0x110800, vNat 7] [vNat 0x100800, vNat 5, vNat 0x100040, vNat 64, vNat 64]
      (ints 0x100040 [0x174000, 3, 5, 9, 0, 0, 0, 0]) [])
    me fun w => { w with ncur := 0x170800, nlim := 0x171000 }

def loads : List Instr := [
  .ld always false false (dV 9) (mem (V 1)), .ld always false true (dS 9) (mem (S 1)), .ldt always .n16 (dV 9) (mem (V 1)),
  .hld always (dV 9) (mem (V 1)), .ldl always 1#3 false 9#8 (mem (S 1))]

theorem loads_met : ∀ i ∈ loads, ∃ t t' e r, loadSpec withMemory i = some e ∧ Accepts withMemory e.ins t r ∧
    e.post t r = some t' :=
  fun _ hi => effect_met (List.all_eq_true.mp (by decide +kernel : loads.all (effectMet loadSpec withMemory) = true) _ hi)

def stores : List Instr := [
  .st always false (V 2) (mem (S 1)), .stt always .n16 0#3 (V 2) (mem (V 3)), .hst always (V 2) (mem (V 1)),
  .alloc always (dV 9) (I 8) (I 2)]

theorem stores_met : ∀ i ∈ stores, ∃ t t' e r, storeSpec withMemory i = some e ∧ Accepts withMemory e.ins t r ∧
    e.post t r = some t' :=
  fun _ hi => effect_met (List.all_eq_true.mp (by decide +kernel : stores.all (effectMet storeSpec withMemory) = true) _ hi)

def atomics : List Instr := [
  .atom always .add .ar (.v 2#8) (rem (V 1)), .cas always .none (.v 2#8) (rem (V 1)), .cas2 always .none (.v 2#8) (rem (V 1)),
  .lda always (dV 9) (rem (V 1)), .stl always (V 2) (rem (V 1)), .phase always .full 5#4]

theorem atomics_met : ∀ i ∈ atomics, ∃ t t' e r, atomSpec withMemory i = some e ∧ Accepts withMemory e.ins t r ∧
    e.post t r = some t' :=
  fun _ hi => effect_met (List.all_eq_true.mp (by decide +kernel : atomics.all (effectMet atomSpec withMemory) = true) _ hi)

def hints : List Instr := [.cflush always true (mem (V 1)), .cinvl always false (mem (V 1)), .pref always true (mem (V 1))]

def windows : List Instr := [
  .lds always .i64 (dV 9) (mem (S 4)), .sts always .i64 0#3 (V 2) (mem (S 4)), .ldw always 3#2 (dV 9) (mem (S 5)),
  .stw always 3#2 (V 2) (mem (S 5))]

theorem windows_met : ∀ i ∈ hints ++ windows, ∃ t t' e r,
    (hintSpec withMemory i).or (windowSpec withMemory i) = some e ∧ Accepts withMemory e.ins t r ∧ e.post t r = some t' :=
  fun _ hi => effect_met (List.all_eq_true.mp (by decide +kernel :
    (hints ++ windows).all (effectMet (fun s i => (hintSpec s i).or (windowSpec s i)) withMemory) = true) _ hi)

def queues : List Instr := [
  .enq always true 2#8 (mem (S 3)), .deq always false 9#8 (mem (S 3)), .chbind always .deq 3#4 (S 3), .chbind always .free 3#4 (.reg .zr)]

theorem queues_met : ∀ i ∈ queues, ∃ t t' e r, queueSpec withMemory i = some e ∧ Accepts withMemory e.ins t r ∧
    e.post t r = some t' :=
  fun _ hi => effect_met (List.all_eq_true.mp (by decide +kernel : queues.all (effectMet queueSpec withMemory) = true) _ hi)

/-- ch1 holds a partial line for the queue at s3, ch2 reads FIFO 1, ch4 feeds FIFO 2 with a row reserved, ch5 names a job. -/
def withChannels : State :=
  let c : Chan := ⟨.enq, 0x100040, placePos, [vNat 1, vNat 2], false, 0, false, false⟩
  let s := updWarp withMemory me fun w => { w with
    chans := [Chan.freed, c, { c with kind := .fin, desc := 1 }, Chan.freed, { c with kind := .fout, desc := 2 ^ 17, resv := true },
      { c with kind := .dec, desc := 64, job := 3 }] ++ List.replicate 10 Chan.freed }
  let s := setFifo s placePos 1 1 { getFifo s placePos 1 1 with reader := some me }
  let s := setFifo s placePos 1 2 { getFifo s placePos 1 2 with resv := 1 }
  updCore s placePos fun k => { k with
    decs := [newDec { k with seq := 3 } (placeWarp me) 0 64 [] true .none] }

def rebound : List Instr := [
  .chbind always .deq 1#4 (S 3), .chbind always .free 2#4 (.reg .zr), .chbind always .enq 4#4 (S 3), .chbind always .fin 5#4 (I 3)]

theorem rebound_met : ∀ i ∈ rebound, ∃ t t' e r, queueSpec withChannels i = some e ∧ Accepts withChannels e.ins t r ∧
    e.post t r = some t' :=
  fun _ hi => effect_met (List.all_eq_true.mp (by decide +kernel : rebound.all (effectMet queueSpec withChannels) = true) _ hi)

/-- A launch of three warps, in one group with this warp alone, a class of spawned work, a join counter at 0x100040,
a launch record at 0x170800; s1: the counter, s2: a packed continuation's fields, s3: a value, s4: the record. -/
def withWork : State :=
  let s := standing [vNat 7] [vNat 0x100040, vNat (2 ^ 17 + 8 * 2 ^ 8 + 3), vNat 3, vNat 0x170800] (ints 0x100040 [3, 3])
    ((0x170800, ⟨.code, 0x10000#64⟩) :: ints 0x170808 [1, 2 ^ 38 + 21 * 2 ^ 32 + 3 * 2 ^ 24 + 32 * 2 ^ 15])
  let s := updWarp s me fun w => { w with gsel := [some 0, none, none, none], wnum := 1, launch := 7, jca := 0x100040 }
  let l : Launch :=
    { asid := 1, num := 7, die := 0, entry := 0x10000, wcnt := 3, rows := 32, ceil := 40, lvl := 5, args := [], rect := none
      groups := some [⟨0, 1, 1⟩], classes := [⟨0x5000, 0x100040, 32, 3, true, false, vNat 1⟩], dep := none, cmap := 0
      granted := true, sent := 3, ahead := [], retired := [], alive := 1, rounds := [] }
  let s := { s with launches := [l] }
  updCtx s 1 fun c => { c with cont := [⟨0x200000, 0x10000, [0x1200000]⟩], nchk := 100, sts := 1000, quota := 1000, fn := 1 }

def work : List Instr := [
  .gbar always .add .i 0#2 (dS 9) (S 3) (V 0), .spawn always 0#4 0#2 false 1#8, .join always (S 1) (S 2),
  .jadd always (dS 9) (S 1) (S 3), .regs always (I 200), .launch always (dS 9) (S 4)]

theorem work_met : ∀ i ∈ work, ∃ t t' e r, workSpec withWork i = some e ∧ Accepts withWork e.ins t r ∧ e.post t r = some t' :=
  fun _ hi => effect_met (List.all_eq_true.mp (by decide +kernel : work.all (effectMet workSpec withWork) = true) _ hi)


/-- A sparse region at 0x160000 of INT elements with one entry, at key 0 (R352). -/
def region : List (Nat × Val) :=
  (0x160000, vRaw (2 ^ 63 + 2 ^ 34 + 2 ^ 32 + 8 + 8 * 2 ^ 8)) :: ints 0x160008 [100, 0, 0, 0, 0, 0, 0, 5]

/-- v1: the region, v2: keys, v3 and v4: data. -/
def withSparse : State :=
  standing [vRef 0x160000, vNat 0, vNat 6, vNat 7] [vRef 0x160000, vNat 0, vNat 6, vNat 7, vZero] region []

def sparse : List Instr := [
  .sld always (dV 9) (V 1) (V 2), .sst always (V 1) (V 2) (V 3), .sadd always .max (dV 9) (V 1) (V 2) (V 3),
  .sxch always (dV 9) (V 1) (V 2) (V 3), .scas always (.v 9#8) (V 1) (V 2) (.v 3#8), .snext always true (.v 9#8) (V 1) (V 2),
  .sscan always 3#5 true none 9#8 (S 1) (S 2), .sstat always .ent false (dV 9) (V 1) (S 5)]

theorem sparse_met : ∀ i ∈ sparse, ∃ t t' e r, sparseSpec withSparse i = some e ∧ Accepts withSparse e.ins t r ∧
    e.post t r = some t' :=
  fun _ hi => effect_met (List.all_eq_true.mp (by decide +kernel : sparse.all (effectMet sparseSpec withSparse) = true) _ hi)

/-- Gauges at 0x100000 and at scratchpad 0 (s1, s2), layouts at 0x171000 (scratchpad) and 0x171040 (memory) (s3, s4),
a sparse copy descriptor at 0x171080 (s5), a decoder job record in the scratchpad at 64 (s6), tiles 0, 1 and 2 of this core
(s7, s8, s11), a handler's address (s9). -/
def withEngines : State :=
  let layout := fun (base place size n : Nat) => [base, size + place * 16, n + 2 ^ 16 + 2 ^ 32 + 2 ^ 48, 2 ^ size, n * 2 ^ size, 0, 0, 0]
  let s := standing [] [vNat 0x100000, vRaw (2 ^ 63), vNat 0x171000, vNat 0x171040, vNat 0x171080, vNat 64,
      ⟨.tile, wordN (posBits placePos)⟩, ⟨.tile, wordN (posBits placePos + 1)⟩, ⟨.code, 0x40000#64⟩, vNat 0x171040,
      ⟨.tile, wordN (posBits placePos + 2)⟩]
    (ints 0x100000 [7] ++ region)
    (ints 0x171000 (layout 0x2000 1 0 8) ++ ints 0x171040 (layout 0x174000 0 0 8) ++ ints 0x171080 [0x160000, 3, 0, 0, 0, 0, 0, 0]
      ++ ints 0x1710C0 (layout 0x3000 1 3 4))
  let job := [0x170000, 40 * 2 ^ 32 + 100, 0x400 * 2 ^ 32 + 0x4000, 5, 1, 0, 0, 0]
  let s := updWarp s me fun w => { w with gsel := [some 0, none, none, none], wnum := 1, launch := 7 }
  let s := updCoreCtx s placePos 1 fun c => { c with
    spad := job.zipIdx.foldl (fun l p => cellsSet l (64 + 8 * p.2) 8 p.1) []
    shapes := [⟨5, 8, 32⟩, ⟨5, 8, 32⟩, ⟨5, 1, 8⟩] ++ List.replicate 29 ⟨0, 0, 0⟩
    token := [none, none, none, some me, none, none, none, none] }
  let l : Launch :=
    { asid := 1, num := 7, die := 0, entry := 0x10000, wcnt := 3, rows := 32, ceil := 40, lvl := 5, args := [], rect := none
      groups := some [⟨0, 1, 1⟩], classes := [], dep := none, cmap := 0, granted := true, sent := 3, ahead := [], retired := []
      alive := 1, rounds := [] }
  { s with launches := [l] }

def gauges : List Instr := [
  .gwait always (dS 20) (S 1) (I 3), .gtest always (dS 20) (S 2) (I 3), .garm always 0#2 (S 1) (I 30) (S 9), .gdis always 0#2 (dS 20)]

theorem gauges_met : ∀ i ∈ gauges, ∃ t t' e r, gaugeSpec withEngines i = some e ∧ Accepts withEngines e.ins t r ∧
    e.post t r = some t' :=
  fun _ hi => effect_met (List.all_eq_true.mp (by decide +kernel : gauges.all (effectMet gaugeSpec withEngines) = true) _ hi)

def copies : List Instr := [
  .cpy always false (dS 20) (S 3) (S 4) (S 1), .cpyg always 0#2 false (dS 20) (S 3) (S 4) (S 1),
  .cpym always false (dS 20) (S 3) (S 4) (S 1) 0xD300000040300000#64, .cpyd always (dS 20) (S 5) (S 1),
  .cpys always (dS 20) (S 5) (S 1), .cpyx always (dS 20) (S 6) (S 1), .cpyq always (dS 20) (I 0), .cpyqCancel always (dS 20) (I 0)]

theorem copies_met : ∀ i ∈ copies, ∃ t t' e r, copySpec withEngines i = some e ∧ Accepts withEngines e.ins t r ∧
    e.post t r = some t' :=
  fun _ hi => effect_met (List.all_eq_true.mp (by decide +kernel : copies.all (effectMet copySpec withEngines) = true) _ hi)

def matrix : List Instr := [
  .tshape always (S 7) (I 0x60820), .tld always (S 11) (S 10), .tst always (S 11) (S 10), .mma always .i8 true false 0#3 (S 7) (S 8),
  .sacc always true 0#3 1#3 (I 0) (I 64), .acq always 2#3, .rel always 3#3, .accout always .f32 0#3 0#3 (I 0) (S 1) (I 0x403),
  .accz always false 0#3, .mfence always (dS 20), .mwait always (I 0), .cbld always (I 0x800)]

theorem matrix_met : ∀ i ∈ matrix, ∃ t t' e r, matrixSpec withEngines i = some e ∧ Accepts withEngines e.ins t r ∧
    e.post t r = some t' :=
  fun _ hi => effect_met (List.all_eq_true.mp (by decide +kernel : matrix.all (effectMet matrixSpec withEngines) = true) _ hi)


/-- A supervisor's frame of an instruction that is to be replayed in lane 1. -/
def frame : SFrame :=
  { latches := [.sca (vNat 3)], s20 := [vNat 1, vNat 2, vNat 3, vNat 4], ha := nilRow, hb := nilRow, em := 3#32, repc := 0
    hnd := false, depth := 0, repPc := 0x5000, resPc := 0x5008, fcause := 0#64, flm := 2#32, kind := .replay, ticket := 0
    lanes := 3#32, whole := false, popped := [], part := [], sp := [] }

/-- In the supervisor, with the page tables of the placed code, free frames, a region at 0x160000, an image of one at
0x170800; v1: pages without a frame, v2: the code page, v3: regions, v4: the image, v5: the region. -/
def withSup : State :=
  let s := standing [vNat 0x40000, vNat 0x10000, vNat 0x160400, vNat 0x170800, vRef 0x160000]
    [vNat 0x40000, vNat 0xA0, vNat 0x10008, vNat 0x80, vNat 2, vNat 0x100000, vNat 0x10000, vNat 0x160400, vNat 0x1000]
    region ((0x170800, vRaw (2 ^ 34 + 2 ^ 32 + 8 + 8 * 2 ^ 8)) :: ints 0x170808 [100] ++ ints 0x170900 [5, 0, 0x80000, 10] ++ ints 0x170940 [6, 0, 0x90000, 10])
  let s := { s with mem := ⟨(placeMem State.reset 0).bytes ++ s.mem.bytes, (placeMem State.reset 0).tags ++ s.mem.tags⟩ }
  let s := updWarp s me fun w => { w with sup := true, sframe := some frame, em := 1#32 }
  let s := { s with dies := s.dies.map fun d => { d with pool := [0x300000, 0x310000] } }
  updCtx s 1 fun c => { c with quota := 1000, rsize := 16, rhead := 15, rtail := 5 }

def privileged : List Instr := [
  .sret (S 5), .sretHost (S 5), .pmap always false (dV 9) (V 1) (S 2), .pmapAttr always (dV 9) (V 2) (S 4),
  .pmapUnmap always (dV 9) (V 2), .pinv always .k64 (S 7), .pinvAll always, .pmigStart (dS 20) (S 7) (I 3),
  .pmigStat (dS 20) (S 7), .icinvLine (S 1), .icinvPage (S 1), .icinvAsid, .rdctlShb (some (S 7)) (dS 20),
  .rdctlItab (some (S 7)) (dS 20), .rdctlRbase (some (S 7)) (dS 20), .rdctlRsize (some (I 32)) (dS 20),
  .rdctlCtl (some (I 1)) (dS 20), .rdctlRhead none (dS 20), .rdctlRtail (some (I 7)) (dS 20), .rdctlRdrop (some (I 0)) (dS 20),
  .sdeclCreate always (dV 9) (V 3) (V 4), .sdeclGrow always (dV 9) (V 5) (I (2 ^ 32)), .sdeclRetire always (dV 9) (V 5),
  .gtblSpill always (dV 9) (I 0x100000) (I 0x1000), .gtblCont always (dV 9) (I 0x100000) (I 0x10000)]

theorem privileged_met : ∀ i ∈ privileged, ∃ t t' e r, privSpec withSup i = some e ∧ Accepts withSup e.ins t r ∧
    e.post t r = some t' :=
  fun _ hi => effect_met (List.all_eq_true.mp
    (by decide +kernel : privileged.all (effectMet privSpec withSup) = true) _ hi)


/-! ### States in which the device's steps are due -/

/-- A second warp in slot 1 of the core. -/
def other : Warp := { placeWarp 50 with slot := 1, since := 9, launch := 7, wnum := 2 }

def withPair : State := { withWork with warps := withWork.warps ++ [other] }

def onDie (s : State) (f : Die → Die) : State := updDie s 0 f
def onMe (s : State) (f : Warp → Warp) : State := updWarp s me f
def onCore (s : State) (f : Core → Core) : State := updCore s placePos f

/-- The launch still has warps to send; its record and another are in the queue of die 0. -/
def queued : State :=
  let s := updCtx withWork 1 fun c => { c with sacnt := 4 }
  onDie { s with launches := s.launches.map fun l => { l with sent := 1 } } fun d => { d with
    queue := [⟨1, .launch 1 7, 1, 5, 40⟩, ⟨2, .evicted 50, 1, 3, 40⟩] }

/-- The submission queue of die 0 holds one line, which names the launch record. -/
def submitted : State :=
  let s := { withWork with mem := memOf (ints 0x100040 [0x174000, 3, 5, 6, 0, 0, 0, 0] ++
    [(0x170800, (⟨.code, 0x10000#64⟩ : Val))] ++ ints 0x170808 [1, 2 ^ 38 + 21 * 2 ^ 32 + 3 * 2 ^ 24 + 32 * 2 ^ 15] ++
      ints 0x174140 [0x170800, 0, 0, 0, 0, 0, 0, 256]) }
  { s with hub := { s.hub with qtab := [⟨0, true, false, 0, 1, 0x100040⟩] } }

def scheduled : List (State × Instr) := [
  (onDie withWork fun d => { d with bins := [⟨5, 1, 7, 0, 0, [[vNat 1, vNat 2, vNat 3, vNat 4]]⟩] }, .spawnBinTimeout 0 5),
  (submitted, .submissionLine 0), (queued, .warpDispatch 0 1 placePos 1),
  (onMe withWork fun w => { w with em := 0#32, joining := true }, .warpRetirement me),
  (onMe withWork fun w => { w with outstanding := [⟨[.v 9#8], none⟩] }, .loadCompletion me),
  (onCore (onMe withWork fun w => { w with regsReq := some 256, allot := 8 }) fun c => { c with requests := [me] }, .rowGrant placePos 0),
  (onCore (onMe withPair fun w => { w with regsReq := some 256, allot := 8 }) fun c => { c with requests := [me] }, .eviction placePos 0),
  (onMe withWork fun w => { w with barWait := some ⟨7, 0⟩ }, .gbarWaitYield me),
  (queued, .agingPromotion 0 2), (onCore queued fun c => { c with sts := [] }, .timeSliceExpiry placePos), (withWork, .contextStreamOut placePos 1),
  (onCore withWork fun c => { c with sts := c.sts.map fun x => { x with place := .shadow } }, .contextRestore placePos 1)]

theorem scheduled_met : ∀ p ∈ scheduled, ∃ t, schedSpec p.1 p.2 = some t :=
  fun _ hp => Option.isSome_iff_exists.mp (List.all_eq_true.mp
    (by decide +kernel : scheduled.all (fun p => (schedSpec p.1 p.2).isSome) = true) _ hp)

/-- A copy of 8 bytes from memory to the scratchpad. -/
def copyOf (st : CopySt) (done : Nat) : CopyJob :=
  ⟨0, 1, 1, me, 1, st, .cpy ⟨0x2000, 0, 0, 1, 0, [8, 1, 1, 1], [1, 0, 0, 0]⟩ ⟨0x174000, 0, 0, 0, 0, [8, 1, 1, 1], [1, 0, 0, 0]⟩ false,
    8, 0, done, none, [], .mem 1 0x100000, false, none, 0⟩

def copying (st : CopySt) (done : Nat) : State := onCore withEngines fun c => { c with copies := [copyOf st done] }

/-- A job of the decoder that has `prod` of its two elements; the one code word is a 0 bit. -/
def decoding (st : CopySt) (prod : Nat) : State :=
  let s := updCoreCtx withEngines placePos 1 fun c => { c with spad := [(0x400, 1#8)] }
  onCore s fun c => { c with decs := [{ newDec c (placeWarp me) 0 64 [0x174000, 2 * 2 ^ 32 + 100, 0x400 * 2 ^ 32 + 0x4000, 5, 1,
    0, 0, 0] false (.mem 1 0x100000) with st := st, prod := prod }] }

def unitHas (op : MOp) : State := onCore withEngines fun c => { c with mq := [⟨me, 1, 0#31, op, false, false, 0, false, false⟩] }

/-- An operation at engine 0; lane 0 of this warp waits for it. -/
def engineHas : State :=
  let s := { withSparse with dies := withSparse.dies.map fun d =>
    if d.num = 0 then { d with engines := [[⟨0, me, 0, 0x160000, 1, 0, 0, .sld, 1⟩], [], [], []] } else d }
  onMe s fun w => { w with sparse := [⟨1, 0#56, 1#32, [dV 9], true, 8, true, false, 1, [], [], [], ⟨[.v 9#8], none⟩, false,
    [⟨0, me, 0, 0x160000, 1, 0, 0, .sld, 1⟩], []⟩] }

/-- Node 3 of the region's one stripe is retired. -/
def retiring : State :=
  onDie { withSparse with mem := memOf ([(0x160000, vRaw (2 ^ 63 + 8))] ++ ints 0x160100 [0, 0, 0x160000, 10 * 2 ^ 32 + 10, 0, 0, 2 ^ 24]) }
    fun d => { d with retired := [(1, 0x160000, 0, 3)] }

def engines : List (State × Instr) := [
  (copying .queued 0, .copyBegin placePos 0), (copying .running 0, .copyTransfer placePos 0 4),
  (copying .running 8, .copyCompletion placePos 0), (decoding .queued 0, .decoderOutput placePos 0),
  (decoding .running 2, .decoderJobEnd placePos 0), (unitHas (.mma .i8 true 0 2 2), .mmaExecution placePos),
  (unitHas (.accz true 2), .acczExecution placePos),
  (unitHas (.accout .f32 0#3 0 0 (.mem 1 0x100000) 16 4 2 false false), .accoutExecution placePos),
  (engineHas, .sparseEngineOperation 0), (retiring, .nodeReclamation 0)]

theorem engines_met : ∀ p ∈ engines, ∃ t, engineSpec p.1 p.2 = some t :=
  fun _ hp => Option.isSome_iff_exists.mp (List.all_eq_true.mp
    (by decide +kernel : engines.all (fun p => (engineSpec p.1 p.2).isSome) = true) _ hp)

theorem sacc_met : ∃ t, engineSpec (unitHas (.sacc true 0 1 0 64)) (.saccExecution placePos) = some t := by
  obtain ⟨m, hm, ho, hn⟩ : ∃ m, headWork (unitHas (.sacc true 0 1 0 64)) placePos = some m ∧ m.op = .sacc true 0 1 0 64 ∧
      m.nt = false := ⟨_, rfl, rfl, rfl⟩
  simp only [engineSpec, hm, Option.bind_some, ho, hn, Bool.and_false, Bool.false_eq_true, if_false]
  split <;> exact ⟨_, rfl⟩

/-- The comparator watches the instruction at the warp's PC. -/
def watched : State :=
  let s := updCtx { withWork with mem := placeMem State.reset 0 } 1 fun c => { c with bpa := [0x10000#64] ++ c.bpa.drop 1, bpev := 1#8, dbg := true }
  onMe s fun w => { w with pc := 0x10000#56 }

def deliveries : List (State × Instr) := [
  (onMe withWork fun w => { w with nanDue := some (1#32, 0x10000#56) }, .nanTrapDelivery me),
  (onMe withWork fun w => { w with mtraps := [⟨⟨.arithmetic, 6, 0, 0⟩, placePos⟩] }, .matrixNanTrapDelivery me),
  (onMe (onCore withEngines fun c => { c with copies := [{ copyOf .suspended 2 with flt := some ⟨.translation, 0, 0, 0x174002⟩ }] })
    fun w => { w with copyDue := [(placePos, 0, false)] }, .copyFaultDelivery me),
  (onMe withWork fun w => { w with mcDue := [(5, 0x100000)] }, .lostWriteMachineCheck me 0x100000),
  (updCtx withWork 1 fun c => { c with wdog := 100 }, .watchdogExpiry me), (watched, .comparatorBreakpoint me),
  (onDie withEngines fun d => { d with alarms := [⟨me, 1, .mem 1 0x100000, 5, 0x50#56⟩] }, .alarmDelivery me)]

theorem deliveries_met : ∀ p ∈ deliveries, ∃ t, deliverySpec p.1 p.2 = some t :=
  fun _ hp => Option.isSome_iff_exists.mp (List.all_eq_true.mp
    (by decide +kernel : deliveries.all (fun p => (deliverySpec p.1 p.2).isSome) = true) _ hp)


/-- A page on the move, with 1,023 of its lines moved when `k` is 1,023. -/
def moving (k : Nat) : State :=
  { withWork with migs := [⟨9, 1, 0x10000, 0x300000, 0x1000300000, List.range k, [], false⟩] }

def onHubOf (s : State) (f : Hub → Hub) : State := { s with hub := f s.hub }

/-- The warp waits for the host under id 3. -/
def escalated : State := onMe withWork fun w => { w with status := .hostWait, hwId := 3, hwKind := .fault }

/-- Queue 70 of function 0 lies at 0x100040 of address space 1. -/
def ported : State := onHubOf withMemory fun h => { h with qtab := [⟨70, true, false, 0, 1, 0x100040⟩] }

def offeredFrames (n : Nat) : State := onDie withWork fun d => { d with freefr := n }

/-- No frame is free. -/
def emptyPools : State :=
  { offeredFrames 100 with dies := (offeredFrames 100).dies.map fun d => { d with pool := [] } }

def hostSteps : List (State × Instr) := [
  (moving 5, .migrationLineMove 9), (moving 1024, .migrationCompletion 9), (offeredFrames 1000, .hostCxlMemRead 0x1100040),
  (offeredFrames 1000, .hostCxlMemWrite 0x1100040 [1#8, 2#8]),
  (onHubOf withWork fun h => { h with hostLines := [7], snoops := [7] }, .hostSnoopResponse 7),
  (ported, .enqPortWrite 0 70 [1#64, 2#64, 3#64, 4#64, 5#64, 6#64, 7#64, 0x100#64]), (ported, .deqPortRead 0 70),
  (onHubOf withWork fun h => { h with asidTab := [(2, 0x10001#64)] }, .contextLive 0 2),
  (updCtx State.reset 3 fun c => { c with v := true, ending := true }, .contextEnd 3),
  (escalated, .hostWaitResume 1 3), (escalated, .hostWaitSkip 1 3), (escalated, .hostWaitExit 1 3), (escalated, .hostWaitReenter 1 3),
  (emptyPools, .fpoolWrite 0 0x300000), (updCtx (offeredFrames 100) 1 fun c => { c with used := 2 }, .fretWrite 0x300001#64),
  (onDie withWork fun d => { d with filling := [0x300000] }, .frameFillCompletion 0x300000), (withWork, .devnumWrite 5),
  (withWork, .scrivenerMailboxRequest 0 1 0x1100000 64 0), (withWork, .hubRegisterWrite 0 0x8000000000 (.write 5#64))]

theorem hostSteps_met : ∀ p ∈ hostSteps, ∃ t, (hubSpec p.1 p.2).or (packageSpec p.1 p.2) = some t :=
  fun _ hp => Option.isSome_iff_exists.mp (List.all_eq_true.mp (by decide +kernel :
    hostSteps.all (fun p => ((hubSpec p.1 p.2).or (packageSpec p.1 p.2)).isSome) = true) _ hp)

/-- The Blotter is armed on the pin and on the counter. -/
def armed : State :=
  onHubOf withWork fun h => { h with blot := { h.blot with arm := true, pen := true, cen := true, cmp := 100#64 } }

/-- Interface 1 in a state. -/
def interface1 (st : VfSt) : State :=
  onHubOf withWork fun h => { h with vfs := h.vfs.map fun v => if v.num = 1 then { v with st := st } else v }

/-- Another device that answers. -/
def linked : State := onHubOf withWork fun h => { h with devnum := some 0, routes := [5], enabled := [5] }

theorem packageSteps_met : ∀ p ∈ ([
  (withWork, .bltctlWrite 1#64), (armed, .blotiRisingEdge), (armed, .bltcmpMatch), (withWork, .blotoPulseEnd),
  (interface1 .unlocked, .lockInterfaceRequest 1), (interface1 .locked, .startInterfaceRequest 1),
  (interface1 .run, .stopInterfaceRequest 1), (interface1 .run, .interfaceBreach 1), (interface1 .error, .functionLevelReset 1),
  (withWork, .coldReset), (withWork, .warmReset), (withWork, .dvfsPointSelect 0 2), (withWork, .powerTrip),
  (withWork, .thermalLimit 3), (withWork, .thermtrip), (withWork, .flitResend 2), (withWork, .dieLinkRetrain 2),
  (withWork, .dieLinkRetrainComplete 2), (withWork, .linkRecalibration 1), (linked, .scaleUpRouteTrained 6),
  (linked, .deviceUnreachable 5), (withWork, .scaleupRequestTimeout me), (withWork, .patrolScrub 0x40), (withWork, .dramRefresh 0 3),
  (withWork, .telemetrySample), (linked, .remoteDeviceRequest 5 (.store 0x40 false ⟨.int, 7#64⟩)),
  (linked, .remoteDeviceRequest 5 (.load 0x40 false)), (linked, .remoteDeviceRequest 5 (.copyWord 0x40 false ⟨.int, 7#64⟩)), (withWork, .firmwareCoreAccess 0 (.read 0x40)),
  (withWork, .firmwareCoreAccess 1 (.write 0x40 9#64))] : List (State × Instr)),
    ∃ t, (hubSpec p.1 p.2).or (packageSpec p.1 p.2) = some t := by
  intro p hp
  exact Option.isSome_iff_exists.mp
    ((List.all_eq_true (p := fun p : State × Instr => ((hubSpec p.1 p.2).or (packageSpec p.1 p.2)).isSome)).mp
      (by decide +kernel) p hp)

/-! ### States that meet the hypotheses of the single rules' statements -/

/-- A state in which the word `x`, followed by `y`, stands at the PC of the warp that issues. -/
def placed (x y : Nat) : State := { State.reset.withFetchWord 128 (x + y * 2 ^ 64) with cur := me }

/-- The answer is one that `p` accepts. -/
def okIs {α : Type} (p : α → Bool) (r : Res α) : Bool :=
  match r with
  | .ok _ a => p a
  | _ => false

theorem res_of {α : Type} {r : Res α} {p : α → Bool} (h : okIs p r = true) : ∃ t a, r = .ok t a ∧ p a = true := by
  unfold okIs at h
  split at h
  · next s a => exact ⟨s, a, rfl, h⟩
  · cases h

/-- These bytes are one instruction. -/
def reads (l : List (BitVec 8)) (i : Instr) : Bool :=
  match decode l with
  | .ok (j, []) => decide (j = i)
  | _ => false

theorem reads_sound {l : List (BitVec 8)} {i : Instr} (h : reads l i = true) : decode l = .ok (i, []) := by
  unfold reads at h
  split at h
  · next j e => rw [e, of_decide_eq_true h]
  · cases h

/-- `REP 4, d=1, a=1, b=1` before `IADD v3, v1, v2` (R77-R82). -/
theorem rep_met : ∃ s t w x lit, Issues s w ∧ RepAccepted s t w ((3#6).toNat + 1) [1, 1, 1, 0] x lit := by
  let s := placed 0xFC00C44400000000 0x1400060040100000
  obtain ⟨w, hi, hs, hp⟩ : ∃ w, s.issuer = some w ∧ skipped w = false ∧ w.pc.toNat = 0x10000 := ⟨_, rfl, rfl, rfl⟩
  have hf : ∃ w, s.issuer = some w ∧ okIs (fun a => decide (a = (0x1400060040100000#64, 0#64)))
    (fetchPair s w ((w.pc.toNat + 8) % 2 ^ 56)) = true := ⟨_, rfl, by decide +kernel⟩
  obtain ⟨w', hw', h⟩ := hf
  rw [hi] at hw'
  cases hw'
  obtain ⟨t, a, he, ha⟩ := res_of (p := fun a => decide (a = (0x1400060040100000#64, 0#64))) h
  rw [of_decide_eq_true ha] at he
  have hr : ∃ w, s.issuer = some w ∧ repOk (Raw.ofWord 0x1400060040100000#64 0#64) [1, 1, 1, 0] = true ∧
      repRangeOk w (Raw.ofWord 0x1400060040100000#64 0#64) [1, 1, 1, 0] ((3#6).toNat + 1) = true :=
    ⟨_, rfl, by decide +kernel, by decide +kernel⟩
  obtain ⟨w', hw', h1, h2⟩ := hr
  rw [hi] at hw'
  cases hw'
  exact ⟨s, t, w, _, _, ⟨hi, hs⟩, he, h1, fun _ => h2⟩

/-- The warp of a state, where there is one. -/
def warpOf (s : State) : Warp := s.issuer.getD (placeWarp 0)

theorem unassigned_met : ∃ t, Issues withInts (warpOf withInts) ∧
    atHandler withInts (warpOf withInts) (atOnce (warpOf withInts) .undefinedInstr 0 (warpOf withInts).em 8) = some t :=
  have h : (atHandler withInts (warpOf withInts)
    (atOnce (warpOf withInts) .undefinedInstr 0 (warpOf withInts).em 8)).isSome = true := by decide +kernel
  let ⟨t, ht⟩ := Option.isSome_iff_exists.mp h
  ⟨t, ⟨rfl, rfl⟩, ht⟩

/-- Channel 2 is an empty .enq binding. -/
def bound : State := onMe withInts fun w => { w with chans := setAt w.chans 2 ⟨.enq, 0x100040, placePos, [], false, 0, false, false⟩ }

theorem laneFrames_met : ∀ p ∈ ([(withInts, .imad always .ss (dV 9) (V 1) (V 2) (V 3), true),
      (bound, .iadd always .ss (.chan 2#4) (S 1) (I 3), false)] : List (State × Instr × Bool)),
    ∃ t L r, laneTable p.1 p.2.1 = some L ∧ Accepts p.1 L.ins t r ∧ L.ok r ∧ noChannel L.ins = p.2.2 := by
  intro p hp
  have h := (List.all_eq_true (p := fun p : State × Instr × Bool =>
    laneIf (fun L t r => allOk L t r && noChannel L.ins == p.2.2) laneTable p.1 p.2.1)).mp (by decide +kernel) p hp
  obtain ⟨t, L, r, h, ha, hq⟩ := lane_if h
  simp only [Bool.and_eq_true, beq_iff_eq] at hq
  exact ⟨t, L, r, h, ha, allOk_sound hq.1, hq.2⟩

def storings : List Instr := [
  .st always false (V 2) (mem (S 1)), .stt always .n16 0#3 (V 2) (mem (V 3)), .hst always (V 2) (mem (V 1)),
  .stl always (V 2) (rem (V 1)), .atom always .add .ar (.v 2#8) (rem (V 1)), .cas always .none (.v 2#8) (rem (V 1)),
  .cas2 always .none (.v 2#8) (rem (V 1))]

theorem storings_met : ∀ i ∈ storings, ∃ t t' e r, storing withMemory i = some e ∧ Accepts withMemory e.ins t r ∧
    e.post t r = some t' ∧ Inv t :=
  fun _ hi => effect_if (q := fun t _ => t.mem.wf) (List.all_eq_true.mp
    (by decide +kernel : storings.all (effectIf (fun t _ => t.mem.wf) storing withMemory) = true) _ hi)

theorem storeless_met : ∀ p ∈ ([(withFlow, flow), (withMemory, loads ++ hints ++ windows)] : List (State × List Instr)),
    ∀ i ∈ p.2, i = .exit always ∨ ∃ t t' e r, storeless p.1 i = some e ∧ Accepts p.1 e.ins t r ∧
      e.post t r = some t' ∧ fillsLine t r e.ins = false := by
  intro p hp i hi
  have h := (List.all_eq_true (p := fun p : State × List Instr => p.2.all fun i => decide (i = .exit always) ||
    effectIf (fun t r => !(((storeless p.1 i).map fun e => fillsLine t r e.ins).getD true)) storeless p.1 i)).mp
      (by decide +kernel) p hp
  have := (List.all_eq_true.mp h) i hi
  simp only [Bool.or_eq_true, decide_eq_true_eq] at this
  refine this.imp id fun h => ?_
  obtain ⟨t, t', e, r, he, ha, hp, hq⟩ := effect_if h
  simp only [he, Option.map_some, Option.getD_some, Bool.not_eq_true'] at hq
  exact ⟨t, t', e, r, he, ha, hp, hq⟩

/-- v1 holds a REF in lane 1 and INT 7 elsewhere. -/
def oneRef : State := onMe withInts fun w => { w with v := setAt w.v 1 ((rowOf (vNat 7)).set 1 (vRef 0x100000)) }

def lacking : LaneSpec → State → Ready → Bool := fun L _ r => (L.on r).any fun k => (L.res r k).isNone

theorem wrongTags_met : ∀ i ∈ ([.iadd always .ss (dV 9) (V 1) (V 2), .popc always (dV 9) (V 1),
    .fadd always false .rne (dV 9) (V 1) (V 2)] : List Instr), mayDivide i = false ∧ ∃ t L r,
      ((intSpec oneRef i).or ((bitSpec oneRef i).or (floatSpec oneRef i))) = some L ∧ Accepts oneRef L.ins t r ∧
        ∃ k ∈ L.on r, L.res r k = none := by
  intro i hi
  have h := (List.all_eq_true (p := fun i => !mayDivide i && laneIf lacking
    (fun s i => (intSpec s i).or ((bitSpec s i).or (floatSpec s i))) oneRef i)).mp (by decide +kernel) i hi
  simp only [Bool.and_eq_true, Bool.not_eq_true'] at h
  obtain ⟨t, L, r, hL, ha, hq⟩ := lane_if h.2
  obtain ⟨k, hk, hn⟩ := List.any_eq_true.mp hq
  exact ⟨h.1, t, L, r, hL, ha, k, hk, Option.isNone_iff_eq_none.mp hn⟩

/-- v2 holds 0 in lane 1 and 3 elsewhere. -/
def oneZero : State := onMe withInts fun w => { w with v := setAt w.v 2 ((rowOf (vNat 3)).set 1 vZero) }

def dividing : LaneSpec → State → Ready → Bool := fun _ _ r =>
  ((execLanes r).all fun k => intLike (r.val 0 k) && intLike (r.val 1 k)) && (execLanes r).any fun k => (r.val 1 k).pl == 0#64

theorem zeroDivisor_met : ∀ i ∈ ([.idivt always true (dV 9) (V 1) (V 2), .iremt always false (dV 9) (V 1) (V 2)] : List Instr),
    mayDivide i = true ∧ ∃ t L r, intSpec oneZero i = some L ∧ Accepts oneZero L.ins t r ∧
      (∀ k ∈ execLanes r, intLike (r.val 0 k) = true ∧ intLike (r.val 1 k) = true) ∧ ∃ k ∈ execLanes r, (r.val 1 k).pl = 0#64 := by
  intro i hi
  have h := (List.all_eq_true (p := fun i => mayDivide i && laneIf dividing intSpec oneZero i)).mp (by decide +kernel) i hi
  simp only [Bool.and_eq_true] at h
  obtain ⟨t, L, r, hL, ha, hq⟩ := lane_if h.2
  simp only [dividing, Bool.and_eq_true] at hq
  obtain ⟨k, hk, hz⟩ := List.any_eq_true.mp hq.2
  refine ⟨h.1, t, L, r, hL, ha, fun k hk => ?_, k, hk, by simpa using hz⟩
  simpa using List.all_eq_true.mp hq.1 k hk

/-- The checks of `AtWord` at the warp of a state, computed. -/
def atWord (s : State) (x : Ins) : Bool :=
  s.issuer == some (warpOf s) && !(awaits (warpOf s) x) && !(x.bad (warpOf s)) && (warpOf s).barWait.isNone &&
    (warpOf s).barRes.isNone

theorem atWord_sound {s : State} {x : Ins} (h : atWord s x = true) : AtWord s (warpOf s) x := by
  simp only [atWord, Bool.and_eq_true, beq_iff_eq, Bool.not_eq_true', Option.isNone_iff_eq_none] at h
  exact ⟨h.1.1.1.1, h.1.1.1.2, h.1.1.2, h.1.2, h.2⟩

theorem userLevel_met : ∀ i ∈ privileged, ∃ e, privSpec withInts i = some e ∧ Issues withInts (warpOf withInts) ∧
    AtWord withInts (warpOf withInts) e.ins ∧ (warpOf withInts).sup = false := by
  intro i hi
  have h := List.all_eq_true.mp (by decide +kernel :
    privileged.all (fun i => ((privSpec withInts i).map fun e => atWord withInts e.ins).getD false) = true) i hi
  match he : privSpec withInts i with
  | none => simp [he] at h
  | some e => exact ⟨e, rfl, ⟨rfl, rfl⟩, atWord_sound (by simpa [he] using h), rfl⟩

/-- No lane is in m1. -/
def guardedOff : State := onMe withInts fun w => { w with m := setAt w.m 1 0#32 }

theorem guardedOff_met : ∃ x, tableIns guardedOff (.iadd ⟨1#3, false⟩ .ss (dV 9) (V 1) (V 2)) = some x ∧
    AtWord guardedOff (warpOf guardedOff) x ∧ (warpOf guardedOff).replay = none ∧
    (warpOf guardedOff).em &&& (maskVal (warpOf guardedOff) x.g.m ^^^ (if x.g.neg then 0xFFFFFFFF#32 else 0#32)) = 0#32 ∧
    x.priv = false := ⟨_, rfl, atWord_sound (by decide +kernel), rfl, by decide +kernel, rfl⟩

/-- 8 rows, and no latch: a source and a destination beyond them, a tile as destination, latch 0. -/
def few : State := onMe withInts fun w => { w with allot := 8, v := w.v.take 8 }

theorem missing_source : ∃ x, tableIns few (.iadd always .ss (dV 1) (V 8) (V 2)) = some x ∧
    AtWord few (warpOf few) x ∧ namesNothing (warpOf few) x ∧ effLanes (warpOf few) x.g ≠ 0#32 ∧ x.priv = false :=
  ⟨_, rfl, atWord_sound (by decide +kernel), .inl ⟨8#8, .inl (by decide), by decide +kernel⟩, by decide +kernel, rfl⟩
theorem missing_destination : ∃ x, tableIns few (.iadd always .ss (dV 255) (V 1) (V 2)) = some x ∧
    AtWord few (warpOf few) x ∧ namesNothing (warpOf few) x ∧ effLanes (warpOf few) x.g ≠ 0#32 ∧ x.priv = false :=
  ⟨_, rfl, atWord_sound (by decide +kernel), .inl ⟨255#8, .inr (by decide), by decide +kernel⟩, by decide +kernel, rfl⟩
theorem missing_tile : ∃ x, tableIns few (.iadd always .ss (.reg (.t 0#5)) (V 1) (V 2)) = some x ∧
    AtWord few (warpOf few) x ∧ namesNothing (warpOf few) x ∧ effLanes (warpOf few) x.g ≠ 0#32 ∧ x.priv = false :=
  ⟨_, rfl, atWord_sound (by decide +kernel), .inr (.inl ⟨0#5, by decide⟩), by decide +kernel, rfl⟩
theorem missing_latch : ∃ x, tableIns few (.iadd always .ss (dV 1) (.latch 0#3) (V 2)) = some x ∧
    AtWord few (warpOf few) x ∧ namesNothing (warpOf few) x ∧ effLanes (warpOf few) x.g ≠ 0#32 ∧ x.priv = false :=
  ⟨_, rfl, atWord_sound (by decide +kernel), .inr (.inr ⟨0#3, by decide, by decide +kernel⟩), by decide +kernel, rfl⟩

/-- What MTS presents to the checks of R85. -/
abbrev mtsIns (n : Nat) (a : Src) (row : Bool) : Ins := { insNo always [a] with shape := some row, pre := mtsPre n }

/-- MTS of the registers that are not of lane scope, at CPL 1: a value that each takes, and one that it refuses. -/
def registerWrites : List (Nat × Nat × Option Nat) := [
  (0, 1, some (2 ^ 40)), (7, 44, none), (8, 0x170800, some 0x170801), (9, 0x171000, some (2 ^ 56)), (10, 0x20000, some 0x10000),
  (11, 0x80, some 0x40), (12, 0x100, some 0x80), (13, 0x1000, some 0x800), (14, 5, some 6), (15, 0x7F, none), (25, 1, none),
  (26, 0x20810, some 0x20000), (27, 64, some 63), (31, 1, none), (32, 0x10000, none), (39, 0x10004, none)]

def mtsHolds (n x : Nat) (taken : Bool) : Bool :=
  let s := onMe withInts fun w => { w with sup := true }
  match accept s (mtsIns n (I x) false) with
  | none => false
  | some (t, r) => match findWarp t r.w.uid with
    | none => false
    | some w => decide (n ∉ readOnlyRegs ∧ n ∉ [16, 17] ∧ n < 40) && decide (w = { r.w with chans := w.chans }) &&
        decide ((getCtx t w.asid).bpa.length = 8) && (afterMts w n (r.val 0 0).n (srRead t w n 0)).isSome == taken

theorem registerWrites_met : (registerWrites.all fun p => mtsHolds p.1 p.2.1 true &&
    (p.2.2.map fun x => mtsHolds p.1 x false).getD true) = true := by decide +kernel

/-- HA and HB take the values of the active lanes. -/
theorem rowWrites_met : ([16, 17].all fun n => match accept withInts (mtsIns n (V 1) true) with
    | none => false
    | some (t, r) => match findWarp t r.w.uid with
      | none => false
      | some w => decide (w = { r.w with chans := w.chans })) = true := by decide +kernel

/-- WIX (read-only), PDTB (a supervisor's) at CPL 0, and EM in a lane handler. -/
theorem refusedWrites_met : ∀ p ∈ ([(withInts, 2#8), (withInts, 10#8), (inHandler, 0#8)] : List (State × BitVec 8)),
    AtWord p.1 (warpOf p.1) (mtsIns p.2.toNat (S 1) (srLane p.2.toNat)) ∧ effLanes (warpOf p.1) always ≠ 0#32 ∧
    insOk (warpOf p.1) { insNo always [S 1] with shape := some (srLane p.2.toNat) } (srLane p.2.toNat) = true ∧
    srcChanOk (warpOf p.1) (S 1) = true ∧
    (p.2.toNat ∈ readOnlyRegs ∨ (warpOf p.1).sup = false ∧ p.2.toNat ∈ supervisorRegs ∨ p.2.toNat = 0 ∧ (warpOf p.1).hnd = true) := by
  intro p hp
  refine ⟨atWord_sound ?_, ?_, ?_, ?_, ?_⟩ <;> revert p <;> decide +kernel

theorem misaligned_met : ∃ t r, Accepts withMemory { insOf always (dV 9) (mem (I 0x100804)).srcs with
      bad := fun w => false && !insVec w (insOf always (dV 9) (mem (I 0x100804)).srcs) } t r ∧
    ∀ k ∈ execLanes r, eaOf r 0 (mem (I 0x100804)) 8 false k = some 0x100804 ∧ 0x100804 < 2 ^ 56 ∧ 0x100804 % 8 ≠ 0 := by
  obtain ⟨t, t', e, r, he, ha, -, hq⟩ := effect_if (s := withMemory) (i := .nop always)
    (q := fun _ r => (execLanes r).all fun k => decide (eaOf r 0 (mem (I 0x100804)) 8 false k = some 0x100804))
    (tbl := fun _ _ => some ⟨{ insOf always (dV 9) (mem (I 0x100804)).srcs with
      bad := fun w => false && !insVec w (insOf always (dV 9) (mem (I 0x100804)).srcs) }, fun t _ => some t⟩) (by decide +kernel)
  cases he
  exact ⟨t, r, ha, fun k hk => ⟨of_decide_eq_true (List.all_eq_true.mp hq k hk), by decide, by decide⟩⟩

theorem lowestClass_met : worstFault [(0, flt .protection 1), (2, flt .translation 0), (3, flt .translation 1)] =
    some (flt .translation 0) ∧ worstFault [(0, flt .ownership 0)] = some (flt .ownership 0) := by decide

theorem faultEntry_met : findWarp withInts me = some (warpOf withInts) ∧ (warpOf withInts).sup = false ∧
    unblotted withInts .arithmetic = true ∧ (handlerOf withInts (warpOf withInts) .arithmetic).isSome = true :=
  ⟨rfl, rfl, by decide +kernel, by decide +kernel⟩

/-- The table zero; an entry that is no CODE; a page that is not mapped. -/
theorem faultEscalates_met :
    (getCtx (updCtx withInts 1 fun c => { c with svtb := 0#64 }) 1).svtb = 0#64 ∧
    (∃ t v, loadVal (updCtx withInts 1 fun c => { c with svtb := 0x100000#64 }) (warpOf withInts).who
      (0x100000 + 8 * FClass.code .arithmetic) = .ok t v ∧ v.tag ≠ .code) ∧
    (∃ t f, loadVal (updCtx withInts 1 fun c => { c with svtb := 0x900001#64 }) (warpOf withInts).who
      (0x900001 + 8 * FClass.code .arithmetic) = .bad t f) ∧
    withInts.hub.hostLines = [] ∧ withInts.hub.linkDown = [] ∧ ∀ d ∈ withInts.dies, d.joins = [] := by
  refine ⟨by decide +kernel, ?_, ?_, rfl, rfl, ?_⟩
  · obtain ⟨t, v, h, hv⟩ := res_of (r := loadVal (updCtx withInts 1 fun c => { c with svtb := 0x100000#64 })
      (warpOf withInts).who (0x100000 + 8 * FClass.code .arithmetic)) (p := fun v => v.tag != .code) (by decide +kernel)
    exact ⟨t, v, h, by simpa using hv⟩
  · have h : (match loadVal (updCtx withInts 1 fun c => { c with svtb := 0x900001#64 }) (warpOf withInts).who
        (0x900001 + 8 * FClass.code .arithmetic) with
      | .bad _ _ => true
      | _ => false) = true := by decide +kernel
    split at h
    · next t f e => exact ⟨t, f, e⟩
    · cases h
  · have h : (withInts.dies.all fun d => d.joins.isEmpty) = true := by decide +kernel
    intro d hd
    simpa using List.all_eq_true.mp h d hd

theorem doubleFault_met : findWarp withSup me = some (warpOf withSup) ∧ (warpOf withSup).sup = true ∧
    unblotted withSup .arithmetic = true ∧ ∀ d ∈ withSup.dies, ∀ j ∈ d.joins, me ∉ j.warps := by
  refine ⟨rfl, rfl, by decide +kernel, fun d hd j hj => ?_⟩
  have h : (withSup.dies.all fun d => d.joins.isEmpty) = true := by decide +kernel
  have := List.all_eq_true.mp h d hd
  simp_all

theorem return_met : (warpOf withInts).sup = false ∧ (warpOf withInts).sreg.length = 64 := ⟨rfl, by decide +kernel⟩

theorem deliveryOrder_met : ∀ p ∈ ([
    (onMe withWork fun w => { w with nanDue := some (1#32, 0x10000#56) }, fun w => w.nanDue.isSome),
    (onMe withWork fun w => { w with mtraps := [⟨⟨.arithmetic, 6, 0, 0⟩, placePos⟩] },
      fun w => w.nanDue.isNone && !w.hnd && !w.mtraps.isEmpty),
    (onMe withWork fun w => { w with copyDue := [(placePos, 0, false)] },
      fun w => w.nanDue.isNone && !w.hnd && w.mtraps.isEmpty && !w.copyDue.isEmpty),
    (onMe withWork fun w => { w with mcDue := [(5, 0x100000)] },
      fun w => w.nanDue.isNone && w.mtraps.isEmpty && w.copyDue.isEmpty && !w.mcDue.isEmpty),
    (onMe withWork fun w => { w with wdDue := true },
      fun w => w.nanDue.isNone && w.mtraps.isEmpty && w.copyDue.isEmpty && w.mcDue.isEmpty && w.wdDue),
    (onDie withEngines fun d => { d with alarms := [⟨me, 1, .mem 1 0x100000, 5, 0x50#56⟩] },
      fun w => w.nanDue.isNone && w.mtraps.isEmpty && w.copyDue.isEmpty && w.mcDue.isEmpty && !w.wdDue && !w.hnd &&
        (dueAlarm (onDie withEngines fun d => { d with alarms := [⟨me, 1, .mem 1 0x100000, 5, 0x50#56⟩] }) w).isSome)] :
      List (State × (Warp → Bool))), atBoundary (warpOf p.1) = true ∧ (warpOf p.1).sparse = [] ∧ p.2 (warpOf p.1) = true := by
  intro p hp
  have h := (List.all_eq_true (p := fun p : State × (Warp → Bool) =>
    atBoundary (warpOf p.1) && (decide ((warpOf p.1).sparse = []) && p.2 (warpOf p.1)))).mp (by decide +kernel) p hp
  simpa using h

theorem diversion_met : findWarp withInts me = some (warpOf withInts) ∧ (warpOf withInts).stack.length + 2 + 1 ≤ 32 :=
  ⟨rfl, by decide +kernel⟩

/-- ADD of REF and INT, with a handler for the pair in a table at 0x174000. -/
def pairs : State :=
  let s := standing [vRef 0x100000, vNat 5] [] [] [(0x174000 + 8 * (512 + 4 * 16), ⟨.code, 0x44000#64⟩)]
  updCtx s 1 fun c => { c with pdtb := 0x174000#64 }

theorem addDiverts_met : ∃ t r p, Accepts pairs (insOf always (dV 9) [V 1, V 2]) t r ∧
    noChannel (insOf always (dV 9) [V 1, V 2]) = true ∧ r.w.sup = false ∧ r.w.stack.length < 32 ∧ depthOk r.w 1 = true ∧
    r.w.hframes.length < 32 ∧ (∀ k ∈ execLanes r, (r.val 0 k).tag = .ref ∧ (r.val 1 k).tag = .int) ∧
    (getCtx t r.w.asid).pdtb ≠ 0#64 ∧
    reach t r.w.who .load ((getCtx t r.w.asid).pdtb.toNat + 8 * (512 + Tag.toNat .ref * 16 + Tag.toNat .int)) 8 = some p ∧
    valueAt t p = some ⟨.code, 0x44000#64⟩ := by
  obtain ⟨t, t', e, r, he, ha, -, hq⟩ := effect_if (s := pairs) (i := .nop always)
    (q := fun t r => !r.w.sup && decide (r.w.stack.length < 32) && depthOk r.w 1 && decide (r.w.hframes.length < 32) &&
      ((execLanes r).all fun k => (r.val 0 k).tag == .ref && (r.val 1 k).tag == .int) && (getCtx t r.w.asid).pdtb != 0#64 &&
      match reach t r.w.who .load ((getCtx t r.w.asid).pdtb.toNat + 8 * (512 + Tag.toNat .ref * 16 + Tag.toNat .int)) 8 with
      | some p => decide (valueAt t p = some ⟨.code, 0x44000#64⟩)
      | none => false)
    (tbl := fun _ _ => some ⟨insOf always (dV 9) [V 1, V 2], fun t _ => some t⟩) (by decide +kernel)
  cases he
  simp only [Bool.and_eq_true, Bool.not_eq_true', decide_eq_true_eq, List.all_eq_true, beq_iff_eq, bne_iff_ne] at hq
  obtain ⟨⟨⟨⟨⟨⟨h1, h2⟩, h3⟩, h4⟩, h5⟩, h6⟩, h7⟩ := hq
  split at h7
  · next p hp => exact ⟨t, r, p, ha, rfl, h1, h2, h3, h4, h5, h6, hp, of_decide_eq_true h7⟩
  · cases h7

/-- s1: no INT; s2: 0; s3: 1; s4: 5. -/
def counters : State := onMe (standing [] [vRef 0x100000, vZero, vNat 1, vNat 5] [] []) fun w => { w with m := setAt w.m 1 0#32 }

theorem loopd_met : (∀ k ∈ ([1, 2, 3, 4] : List (BitVec 6)), ∀ g ∈ ([always, ⟨1#3, false⟩] : List Guard),
      AtWord counters (warpOf counters) { scalarNo g [] with reads := [.s k] }) ∧ (warpOf counters).repc = 0 ∧
    effLanes (warpOf counters) ⟨1#3, false⟩ = 0#32 ∧ effLanes (warpOf counters) always ≠ 0#32 ∧
    (sregVal (warpOf counters) 1).tag ≠ .int ∧ (sregVal (warpOf counters) 2).pl.toInt ≤ 0 ∧
    (sregVal (warpOf counters) 3).pl.toInt = 1 ∧ 1 < (sregVal (warpOf counters) 4).pl.toInt :=
  ⟨fun k hk g hg => atWord_sound (by revert k g; decide +kernel), rfl, by decide +kernel, by decide +kernel, by decide +kernel,
    by decide +kernel, by decide +kernel, by decide +kernel⟩

/-- v1: no lane true, v2: all, v3: lane 1. -/
def conditions : State := standing [vBool false, vBool true] [] [] []
def oneTrue : State := onMe conditions fun w => { w with v := setAt w.v 3 ((rowOf (vBool false)).set 1 (vBool true)) }

theorem divergence_met : ∀ n ∈ ([1#8, 2#8, 3#8] : List (BitVec 8)), ∃ t r,
    Accepts oneTrue { scalarNo always [V n] with size := 16, vecOk := true } t r ∧ r.w.repc = 0 ∧ depthOk r.w 2 = true ∧
      (∀ k ∈ maskLanes r.eff, (r.val 0 k).tag = .bool) ∧
      (maskWhere fun k => r.eff.getLsbD k && decide (((r.val 0 k).pl = 1#64) ≠ (false = true))) = [0#32, 3#32, 2#32].getD (n.toNat - 1) 0#32 := by
  intro n hn
  have h := (List.all_eq_true (p := fun n => effectIf (fun _ r => decide (r.w.repc = 0) && depthOk r.w 2 &&
      ((maskLanes r.eff).all fun k => (r.val 0 k).tag == .bool) &&
      decide ((maskWhere fun k => r.eff.getLsbD k && decide (((r.val 0 k).pl = 1#64) ≠ (false = true))) =
        [0#32, 3#32, 2#32].getD (n.toNat - 1) 0#32))
    (fun _ _ => some ⟨{ scalarNo always [V n] with size := 16, vecOk := true }, fun t _ => some t⟩) oneTrue (.nop always))).mp
    (by decide +kernel) n hn
  obtain ⟨t, t', e, r, he, ha, -, hq⟩ := effect_if h
  cases he
  simp only [Bool.and_eq_true, decide_eq_true_eq, List.all_eq_true, beq_iff_eq] at hq
  exact ⟨t, r, ha, hq.1.1.1, hq.1.1.2, hq.1.2, hq.2⟩

theorem specialRegisters_met : (warpOf withInts).wnum < 2 ^ 32 ∧ (warpOf withInts).slot < 64 ∧ (warpOf withInts).pos.die < 16 ∧
    (warpOf withInts).pos.col < 32 ∧ (warpOf withInts).pos.row < 16 ∧ (warpOf withWork).gsel.length = 4 ∧
    (warpOf withWork).gsel[0]? = some (some 0) ∧ (warpOf withWork).gsel[1]? = some none ∧ (warpOf withInts).lvl < 64 ∧
    (warpOf withInts).ceil < 64 ∧ (warpOf withInts).hopCls < 32 ∧ (warpOf withInts).m.length = 8 := by decide +kernel

/-! ### A region with two stripes -/

/-- Words from an address on, with their tags. -/
def at_ (va : Nat) (l : List Val) : List (Nat × Val) := l.zipIdx.map fun p => (va + 8 * p.2, p.1)

/-- Keys 2, 5, 9 and 12 in two leaves of stripe 0 (keys below 100), key 150 in stripe 1. -/
def planted : State :=
  let raws := fun (va : Nat) (l : List Nat) => at_ va (l.map vRaw)
  let s := updCluster withInts placePos fun c => { c with
    tlb := c.tlb ++ [⟨1, 0x180000, 65536, wordN (0x1180000 + 0x323 + 2 * 2 ^ 14)⟩, ⟨1, 0x190000, 65536, wordN (0x1190000 + 0x323 + 2 * 2 ^ 14)⟩] }
  { s with mem := memOf (raws 0x160000 [2 ^ 63 + 2 ^ 34 + 8, 100] ++
      raws 0x160100 [0, 2 ^ 32 + 3, 0x180000, 10 * 2 ^ 32 + 10, 0, 4, 3] ++ raws 0x160140 [0, 1, 0x190000, 10 * 2 ^ 32 + 10, 0, 1, 1] ++
      at_ 0x180000 [vRaw 2, vRaw 2, vRaw 2, vNat 20, vRaw 5, vNat 50] ++ at_ 0x180100 [vRaw 2, vRaw 0, vRaw 9, vNat 90, vRaw 12, vNat 120] ++
      raws 0x180200 [2 ^ 60 + 2, 0, 9] ++ raws 0x180280 [1, 2] ++ at_ 0x190000 [vRaw 0x101, vRaw 0, vRaw 150, vNat 7]) }

/-- An operation of engine 0 on a key of a stripe. -/
def asking (key stripe : Nat) (kind : SpKind) : SpOp := ⟨0, me, 0, 0x160000, 1, key, stripe, kind, 1⟩

/-- What `Finds` says, computed. -/
def found (s : State) (o : SpOp) : Option (Region × Stripe × Nat × Nat × Stop × List Stop) :=
  let who := engWho o.asid o.eng o.warp
  match engRead s who o.desc 8, engRead s who (stripeVa o.desc o.stripe) 8 with
  | some a, some b =>
    let t := stripeOf (b.2.map fun v => v.n)
    match wayTo s who t o.key (t.hgt + 1) t.root [] with
    | some (leaf :: up) =>
      if t.root ≠ 0 ∧ leaf.node.keys.Pairwise (· < ·) then some (regionOf (a.2.map fun v => v.n), t, a.1, b.1, leaf, up) else none
    | _ => none
  | _, _ => none

theorem found_sound {s : State} {o : SpOp} {q : Region} {t : Stripe} {a b : Nat} {leaf : Stop} {up : List Stop}
    (h : found s o = some (q, t, a, b, leaf, up)) : Finds s o q t a b leaf up := by
  simp only [found] at h
  split at h
  · next x y hx hy =>
    split at h
    · next l u hw =>
      split at h
      · next hc =>
        cases h
        exact ⟨⟨_, hx, rfl⟩, ⟨_, hy, rfl⟩, hc.1, hw, hc.2⟩
      · cases h
    · cases h
  · cases h

/-- What `StoreApart` says, and that other nodes lie apart from a leaf and the record. -/
def apart (d rec : Nat) (leaf : Stop) (up : List Stop) : Bool :=
  let clear := fun (a m b n : Nat) => decide (a + m ≤ b ∨ b + n ≤ a)
  clear leaf.at_ 256 rec 64 && clear leaf.at_ 256 d 64 && clear rec 64 d 64 &&
    up.all fun x => clear leaf.at_ 256 x.at_ 256 && clear rec 64 x.at_ 256

theorem apart_sound {d rec : Nat} {leaf : Stop} {up : List Stop} (h : apart d rec leaf up = true) :
    StoreApart d rec leaf up := by
  simp only [apart, Bool.and_eq_true, decide_eq_true_eq, List.all_eq_true] at h
  exact ⟨h.1.1.1, h.1.1.2, h.1.2, fun x hx => h.2 x hx⟩

/-- A store to a key that is present and to one that is not, and another key in the same leaf and in the other leaf. -/
theorem stored_met : ∀ p ∈ ([(5, 2), (5, 9), (7, 12), (7, 5)] : List (Nat × Nat)), ∃ q t d rec leaf up leaf' up',
    Inv planted ∧ Finds planted (asking p.1 0 .sld) q t d rec leaf up ∧ StoreApart d rec leaf up ∧ t.ent + 1 < 2 ^ 64 ∧
    engWritable planted (engWho 1 0 me) (nodeVa t (leaf.link - 1)) 32 = true ∧
    engWritable planted (engWho 1 0 me) (stripeVa 0x160000 0) 8 = true ∧
    (p.1 ∈ leaf.node.keys ∨ leaf.node.keys.length < 15) ∧ Finds planted (asking p.2 0 .sld) q t d rec leaf' up' ∧
    ∀ x ∈ leaf' :: up', (x.link = leaf.link ∨ clear_ leaf.at_ 256 x.at_ 256) ∧ clear_ rec 64 x.at_ 256 := by
  intro p hp
  have h := (List.all_eq_true (p := fun p : Nat × Nat =>
    match found planted (asking p.1 0 .sld), found planted (asking p.2 0 .sld) with
    | some (q, t, d, rec, leaf, up), some (q', t', d', rec', leaf', up') =>
      planted.mem.wf && apart d rec leaf up && decide (t.ent + 1 < 2 ^ 64) &&
        engWritable planted (engWho 1 0 me) (nodeVa t (leaf.link - 1)) 32 &&
        engWritable planted (engWho 1 0 me) (stripeVa 0x160000 0) 8 &&
        decide (p.1 ∈ leaf.node.keys ∨ leaf.node.keys.length < 15) && decide ((q, t, d, rec) = (q', t', d', rec')) &&
        (leaf' :: up').all fun x => decide ((x.link = leaf.link ∨ leaf.at_ + 256 ≤ x.at_ ∨ x.at_ + 256 ≤ leaf.at_) ∧
          (rec + 64 ≤ x.at_ ∨ x.at_ + 256 ≤ rec))
    | _, _ => false)).mp (by decide +kernel) p hp
  split at h
  · next q t d rec leaf up q' t' d' rec' leaf' up' h1 h2 =>
    simp only [Bool.and_eq_true, decide_eq_true_eq, List.all_eq_true] at h
    obtain ⟨⟨⟨⟨⟨⟨⟨a1, a2⟩, a3⟩, a4⟩, a5⟩, a6⟩, a7⟩, a8⟩ := h
    cases a7
    exact ⟨q, t, d, rec, leaf, up, leaf', up', a1, found_sound h1, apart_sound a2, a3, a4, a5, a6, found_sound h2, a8⟩
  · cases h

/-- SNEXT.ge from 3: in the leaf of the key; from 6: in the leaf after it; from 13: in the next stripe; from 151 in stripe 1:
none. -/
theorem next_met : ∀ p ∈ ([(3, 0, 0), (6, 0, 1), (13, 0, 2), (151, 1, 3)] : List (Nat × Nat × Nat)),
    ∃ q t d rec leaf up, Finds planted (asking p.1 p.2.1 .sld) q t d rec leaf up ∧
      (p.2.2 = 0 → (5, vNat 50) ∈ leaf.node.keys.zip leaf.node.vals ∧ ∀ k' ∈ leaf.node.keys, p.1 ≤ k' → 5 ≤ k') ∧
      (p.2.2 ≠ 0 → ∀ k ∈ leaf.node.keys, k < p.1) ∧
      (p.2.2 = 1 → leaf.node.next ≠ 0 ∧ ∃ x, engRead planted (engWho 1 0 me) (nodeVa t (leaf.node.next - 1)) 32 = some x ∧
        (nodeOf x.2).keys.head? = some 9 ∧ (nodeOf x.2).vals.head? = some (vNat 90)) ∧
      (p.2.2 = 2 → leaf.node.next = 0 ∧ p.2.1 < q.nstr ∧
        (engRead planted (engWho 1 0 me) (stripeVa 0x160000 (p.2.1 + 1)) 8).isSome = true) ∧
      (p.2.2 = 3 → leaf.node.next = 0 ∧ q.nstr ≤ p.2.1) := by
  intro p hp
  have h := (List.all_eq_true (p := fun p : Nat × Nat × Nat =>
    match found planted (asking p.1 p.2.1 .sld) with
    | some (q, t, _, _, leaf, _) =>
      decide (p.2.2 = 0 → (5, vNat 50) ∈ leaf.node.keys.zip leaf.node.vals ∧ ∀ k' ∈ leaf.node.keys, p.1 ≤ k' → 5 ≤ k') &&
        decide (p.2.2 ≠ 0 → ∀ k ∈ leaf.node.keys, k < p.1) &&
        decide (p.2.2 = 1 → leaf.node.next ≠ 0 ∧
          ((engRead planted (engWho 1 0 me) (nodeVa t (leaf.node.next - 1)) 32).map fun x =>
            ((nodeOf x.2).keys.head?, (nodeOf x.2).vals.head?)) = some (some 9, some (vNat 90))) &&
        decide (p.2.2 = 2 → leaf.node.next = 0 ∧ p.2.1 < q.nstr ∧
          (engRead planted (engWho 1 0 me) (stripeVa 0x160000 (p.2.1 + 1)) 8).isSome = true) &&
        decide (p.2.2 = 3 → leaf.node.next = 0 ∧ q.nstr ≤ p.2.1)
    | none => false)).mp (by decide +kernel) p hp
  split at h
  · next q t d rec leaf up hf =>
    simp only [Bool.and_eq_true, decide_eq_true_eq] at h
    obtain ⟨⟨⟨⟨a1, a2⟩, a3⟩, a4⟩, a5⟩ := h
    refine ⟨q, t, d, rec, leaf, up, found_sound hf, a1, a2, fun e => ⟨(a3 e).1, ?_⟩, a4, a5⟩
    obtain ⟨x, hx, hy⟩ := Option.map_eq_some_iff.mp (a3 e).2
    exact ⟨x, hx, by simpa using congrArg Prod.fst hy, by simpa using congrArg Prod.snd hy⟩
  · cases h

/-! ### Matrix arithmetic -/

/-- Tiles 0 and 1 in BF16, E4M3 with K8, and INT8. -/
def tiled (a b : Shape) (op : MOp) : State :=
  updCoreCtx (unitHas op) placePos 1 fun c => { c with shapes := a :: b :: c.shapes.drop 2 }

theorem matrix_sums_met : ∀ x ∈ ([(.bf16, ⟨1, 3, 16⟩, ⟨1, 4, 16⟩), (.e4m3k8, ⟨3, 3, 24⟩, ⟨6, 4, 3⟩), (.i8, ⟨5, 3, 24⟩, ⟨5, 4, 24⟩)] :
      List (Pair × Shape × Shape)), ∃ m, runs (tiled x.2.1 x.2.2 (.mma x.1 false 0 0 1)) placePos m (.mma x.1 false 0 0 1) ∧
    let c := coreCtx (tiled x.2.1 x.2.2 (.mma x.1 false 0 0 1)) placePos m.asid
    (c.shapes.getD 0 ⟨0, 0, 0⟩).fmt = (pairInfo x.1).1 ∧ (c.shapes.getD 1 ⟨0, 0, 0⟩).fmt = (pairInfo x.1).2.1 ∧
      (c.shapes.getD 0 ⟨0, 0, 0⟩).rows ≤ 64 ∧ (c.shapes.getD 1 ⟨0, 0, 0⟩).rows ≤ 64 ∧ 0 < (c.shapes.getD 0 ⟨0, 0, 0⟩).cols ∧
      m.pos = 0 ∧ spWf 0#8 c.acc = true := by
  intro x hx
  refine ⟨⟨me, 1, 0#31, .mma x.1 false 0 0 1, false, false, 0, false, false⟩, ⟨?_, rfl⟩, ?_⟩
  · revert x; decide +kernel
  · revert x; decide +kernel

/-- An instruction of the unit with the NaN trap armed. -/
def armedUnit (op : MOp) : State :=
  onCore withEngines fun c => { c with mq := [{ warp := me, asid := 1, batch := 0#31, op := op, nt := true, follow := false, pos := 0, halted := false, aw := false }] }

theorem scaled_met : ∀ s ∈ ([unitHas, armedUnit] : List (MOp → State)),
    (∃ m, runs (s (.sacc true 0 1 0 64)) placePos m (.sacc true 0 1 0 64) ∧ m.pos = 0 ∧
      spWf 0#8 (coreCtx (s (.sacc true 0 1 0 64)) placePos m.asid).acc = true) ∧
    ∀ op ∈ ([(3#3, .none), (5#3, .mem 1 0x100000), (0#3, .spad placePos 1 0x400)] : List (BitVec 3 × Gauge)),
      ∃ m, runs (s (.accout .bf16 op.1 0 16 op.2 20 4 3 false true)) placePos m (.accout .bf16 op.1 0 16 op.2 20 4 3 false true) ∧
        m.pos = 0 ∧ spWf 0#8 (coreCtx (s (.accout .bf16 op.1 0 16 op.2 20 4 3 false true)) placePos m.asid).spad = true ∧
        4 * outSize .bf16 ≤ 20 := by
  intro s hs
  simp only [List.mem_cons, List.not_mem_nil, or_false] at hs
  rcases hs with rfl | rfl
  · exact ⟨⟨_, ⟨rfl, rfl⟩, rfl, by decide +kernel⟩, fun op ho => ⟨_, ⟨rfl, rfl⟩, rfl, by revert ho; revert op; decide +kernel, by decide⟩⟩
  · exact ⟨⟨_, ⟨rfl, rfl⟩, rfl, by decide +kernel⟩, fun op ho => ⟨_, ⟨rfl, rfl⟩, rfl, by revert ho; revert op; decide +kernel, by decide⟩⟩

/-! ### A turn -/

def next (o : Host.Outcome State Fault Refusal) (p : State → Bool) : Bool :=
  match o with
  | .next t => p t
  | _ => false

theorem step_met : ∃ t, (Inv (placed 0x6700000000000000 0)) ∧ step (placed 0x6700000000000000 0) = .next t := by
  have h : next (step (placed 0x6700000000000000 0)) (fun _ => true) = true := by decide +kernel
  unfold next at h
  split at h
  · next t e => exact ⟨t, (by decide +kernel : (placed 0x6700000000000000 0).mem.wf = true), e⟩
  · cases h

/-- `IADD.ss v3, v1, 5` at the PC of the warp. -/
def literal : State := placed 0x140006006F800003 5

theorem literal_turn : literal.agenda = [.issue placePos 0] := by decide +kernel

/-- The state in which the warp of that turn fetches. -/
abbrev turning (w : Warp) : State := { takesTurn (putWarp (beforeTurn literal) w) w 1 with suppUsed := false }

/-- The warp's turn: the fetch answers the instruction's two words, which decode to it. -/
theorem straight_met : ∃ s t w, GoesStraight s w ∧
    fetchPair { takesTurn (putWarp (beforeTurn s) w) w 1 with suppUsed := false } w w.pc.toNat =
      .ok t (0x140006006F800003#64, 5#64) ∧
    decode (bytesOfWord 0x140006006F800003#64 ++ bytesOfWord 5#64) =
      .ok (.iadd always .ss (dV 3) (V 1) (I 5), []) := by
  obtain ⟨w, hw⟩ : ∃ w, pickWarp (beforeTurn literal) placePos 0 = some w :=
    Option.isSome_iff_exists.mp (by decide +kernel)
  have h : (match pickWarp (beforeTurn literal) placePos 0 with
    | none => false
    | some w => !(beforeTurn literal).hub.stopped && !(beforeTurn literal).hub.inReset && (nextDue (beforeTurn literal) w).isNone &&
        decide (w.sparse = []) && decide (w.refillErr = false) && decide (w.spill = []) && decide (w.em ≠ 0#32) && decide (arrive (beforeTurn literal) w = w) && decide (w.repc = 0) &&
        (comparatorDue (putWarp (beforeTurn literal) w) w).isNone &&
        okIs (fun a => decide (a = (0x140006006F800003#64, 5#64))) (fetchPair (turning w) w w.pc.toNat)) = true := by
    decide +kernel
  rw [hw] at h
  simp only [Bool.and_eq_true, Bool.not_eq_true', Option.isNone_iff_eq_none, decide_eq_true_eq] at h
  obtain ⟨⟨⟨⟨⟨⟨⟨⟨⟨⟨h1, h2⟩, h3⟩, g1⟩, g2⟩, h4⟩, h0⟩, h5⟩, h6⟩, h7⟩, h8⟩ := h
  have g3 : spillReady (beforeTurn literal) w = beforeTurn literal := by
    unfold spillReady
    rw [h4]
    split
    · rfl
    · split <;> rfl
  obtain ⟨t, a, he, ha⟩ := res_of (p := fun a => decide (a = (0x140006006F800003#64, 5#64))) h8
  rw [of_decide_eq_true ha] at he
  exact ⟨literal, t, w, ⟨⟨placePos, 0, [], literal_turn, hw⟩, ⟨h1, h2⟩, h3, g1, ⟨.inr h4, g2, g3⟩, h0, h5, h6, h7⟩, he,
    reads_sound (by decide +kernel)⟩

/-- The raw page, executable, with a word at 0x110008. -/
def code : State := { withInts with mem := memOf [(0x110008, vNat 0x6700000000000000)] }

theorem fetch_met : ∃ p, icacheFind code (warpOf code) 0x110008 = none ∧
    reach code (warpOf code).who .fetch 0x110008 8 = some p ∧ 65536 ∣ p.size ∧ 0 < p.size ∧
    (∀ l ∈ (getCluster code (clusterOf (warpOf code).pos)).icache, l.dom ≠ p.da / 64) ∧
    ∀ k, k < 8 → open_ code (warpOf code).who (p.da / 64 * 64 + 8 * k) = true := by
  have h : (icacheFind code (warpOf code) 0x110008).isNone = true ∧ (match reach code (warpOf code).who .fetch 0x110008 8 with
    | some p => decide (p.size % 65536 = 0 ∧ 0 < p.size) && (getCluster code (clusterOf (warpOf code).pos)).icache.isEmpty &&
        (List.range 8).all fun k => open_ code (warpOf code).who (p.da / 64 * 64 + 8 * k)
    | none => false) = true := by decide +kernel
  obtain ⟨h1, h2⟩ := h
  split at h2
  · next p hp =>
    simp only [Bool.and_eq_true, decide_eq_true_eq] at h2
    exact ⟨p, Option.isNone_iff_eq_none.mp h1, hp, Nat.dvd_of_mod_eq_zero h2.1.1.1, h2.1.1.2, by simp [List.isEmpty_iff.mp h2.1.2],
      fun k hk => List.all_eq_true.mp h2.2 k (List.mem_range.mpr hk)⟩
  · cases h2

/-! ### Words, written out by their fields (R62, R63 and the encoding tables of spec/04 to spec/24) -/

/-- Bits 63:56, then GRD and GNG, then fields D, A, B, C, then MOD and LX. -/
def word (op : BitVec 8) (d a b c : BitVec 11) (md : BitVec 7) (lx : BitVec 1) : Word :=
  op ++ 0#3 ++ 0#1 ++ d ++ a ++ b ++ c ++ md ++ lx

/-- Each word, followed by a literal word, reads as its instruction and its bytes are all used. -/
def allRead (lit : Word) (l : List (Word × Instr)) : Bool := l.all fun p =>
  reads (bytesOfWord p.1 ++ (if p.1.getLsbD 0 then bytesOfWord lit else [])) p.2 && p.2.isWord && p.2.wf

theorem test_words_generic : allRead 0#64 [
  (word 0x01 0x003 0x001 0x002 0 0 0, .add always (dV 3) (V 1) (V 2)), (word 0x02 0x003 0x001 0x002 0 0 0, .sub always (dV 3) (V 1) (V 2)),
  (word 0x03 0x003 0x001 0x002 0 0 0, .mul always (dV 3) (V 1) (V 2)), (word 0x04 0x003 0x001 0x002 0 0 0, .div always (dV 3) (V 1) (V 2)),
  (word 0x05 0x003 0x001 0x002 0 0 0, .idiv always (dV 3) (V 1) (V 2)), (word 0x06 0x003 0x001 0x002 0 0 0, .mod always (dV 3) (V 1) (V 2)),
  (word 0x07 0x003 0x001 0 0 0 0, .neg always (dV 3) (V 1)), (word 0x08 0x003 0x001 0 0 0 0, .abs always (dV 3) (V 1)),
  (word 0x09 0x003 0x001 0x002 0 0 0, .min always (dV 3) (V 1) (V 2)), (word 0x0A 0x003 0x001 0x002 0 0 0, .max always (dV 3) (V 1) (V 2)),
  (word 0x0B 0x003 0x001 0x002 0 0 0, .ceq always (dV 3) (V 1) (V 2)), (word 0x0C 0x003 0x001 0x002 0 0 0, .cne always (dV 3) (V 1) (V 2)),
  (word 0x0D 0x003 0x001 0x002 0 0 0, .clt always (dV 3) (V 1) (V 2)), (word 0x0E 0x003 0x001 0x002 0 0 0, .cle always (dV 3) (V 1) (V 2)),
  (word 0x0F 0x003 0x001 0 0 0 0, .truth always (dV 3) (V 1)), (word 0x10 0x003 0x001 0 0 0 0, .tagof always (dV 3) (V 1)),
  (word 0x11 0x003 0x001 0 0 0x0C 0, .tagset always 12#4 (dV 3) (V 1)), (word 0x11 0x003 0x001 0x002 0 0x10 0, .tagsetDyn always (dV 3) (V 1) (V 2)),
  (word 0x12 0x003 0x001 0x002 0 0 0, .tagis always (dV 3) (V 1) (V 2)), (word 0x13 0x3 0x1FF 0 0 0 0, .mov always (dV 3) (.reg .zr))] = true := by
  decide +kernel

theorem test_words_integer : allRead 0#64 [
  (word 0x14 0x003 0x001 0x002 0 2 0, .iadd always .us (dV 3) (V 1) (V 2)), (word 0x15 0x003 0x001 0x002 0 1 0, .isub always .ss (dV 3) (V 1) (V 2)),
  (word 0x16 0x003 0x001 0x002 0 0 0, .imul always .wrap (dV 3) (V 1) (V 2)), (word 0x17 0x003 0x001 0x002 0 1 0, .imulh always true (dV 3) (V 1) (V 2)),
  (word 0x18 0x003 0x001 0x002 0 1 0, .idivt always true (dV 3) (V 1) (V 2)), (word 0x19 0x003 0x001 0x002 0 0 0, .iremt always false (dV 3) (V 1) (V 2)),
  (word 0x1A 0x003 0x001 0x002 0x004 1 0, .imad always .ss (dV 3) (V 1) (V 2) (V 4)), (word 0x1B 0x003 0x001 0x002 0 0 0, .and always (dV 3) (V 1) (V 2)),
  (word 0x1C 0x003 0x001 0x002 0 0 0, .or always (dV 3) (V 1) (V 2)), (word 0x1D 0x003 0x001 0x002 0 0 0, .xor always (dV 3) (V 1) (V 2)),
  (word 0x1E 0x003 0x001 0x002 0 0 0, .andn always (dV 3) (V 1) (V 2)), (word 0x1F 0x003 0x001 0 0 0 0, .not always (dV 3) (V 1)),
  (word 0x20 0x003 0x001 0x002 0 1 0, .shl always true (dV 3) (V 1) (V 2)), (word 0x21 0x003 0x001 0x002 0 0 0, .shr always false (dV 3) (V 1) (V 2)),
  (word 0x22 0x003 0x001 0x002 0 1 0, .sar always true (dV 3) (V 1) (V 2)), (word 0x23 0x003 0x001 0x002 0 0 0, .rol always (dV 3) (V 1) (V 2)),
  (word 0x24 0x003 0x001 0 0 0 0, .popc always (dV 3) (V 1)), (word 0x25 0x003 0x001 0 0 0 0, .clz always (dV 3) (V 1)),
  (word 0x26 0x003 0x001 0 0 0 0, .ctz always (dV 3) (V 1)), (word 0x27 0x003 0x001 0 0 0 0, .brev always (dV 3) (V 1)),
  (word 0x28 0x003 0x001 0x002 0 1 0, .bfx always true (dV 3) (V 1) (V 2)), (word 0x29 0x003 0x001 0x002 0x004 0 0, .bfi always (dV 3) (V 1) (V 2) (V 4)),
  (word 0x2A 0x003 0x001 0x002 0 0 0, .imin always (dV 3) (V 1) (V 2)), (word 0x2B 0x003 0x001 0x002 0 0 0, .imax always (dV 3) (V 1) (V 2)),
  (word 0x2C 0x003 0x001 0x002 0 0 0, .nmin always (dV 3) (V 1) (V 2)), (word 0x2D 0x003 0x001 0x002 0 0 0, .nmax always (dV 3) (V 1) (V 2)),
  (word 0x2E 0x003 0x001 0x002 0 6 0, .icmp always .ltu (dV 3) (V 1) (V 2)), (word 0x2F 0x003 0x001 0x002 0x141 1 0, .sel always true (dV 3) (V 1) (V 2) (.reg (.m 1))),
  (word 0x30 0x003 0x001 0x002 0x004 3 0, .lea always 3#2 (dV 3) (V 1) (V 2) (V 4))] = true := by decide +kernel

theorem test_words_float : allRead 0#64 [
  (word 0x40 0x003 0x001 0x002 0 0b0001011 0, .fadd always true .rup (dV 3) (V 1) (V 2)), (word 0x41 0x003 0x001 0x002 0 0b0000111 0, .fsub always false .dyn (dV 3) (V 1) (V 2)),
  (word 0x42 0x003 0x001 0x002 0 0b0001000 0, .fmul always true .rne (dV 3) (V 1) (V 2)), (word 0x43 0x003 0x001 0x002 0x004 0b0000001 0, .ffma always false .rtz (dV 3) (V 1) (V 2) (V 4)),
  (word 0x44 0x003 0x001 0x002 0 0b0001010 0, .fdiv always true .rdn (dV 3) (V 1) (V 2)), (word 0x45 0x003 0x001 0 0 0b0000100 0, .fsqrt always false .rna (dV 3) (V 1)),
  (word 0x46 0x003 0x001 0x002 0 8 0, .fmin always true (dV 3) (V 1) (V 2)), (word 0x47 0x003 0x001 0x002 0 0 0, .fmax always false (dV 3) (V 1) (V 2)),
  (word 0x48 0x003 0x001 0x002 0 0b0001110 0, .fcmp always true .un (dV 3) (V 1) (V 2)), (word 0x49 0x003 0x001 0 0 0b0001001 0, .frnd always true .rtz (dV 3) (V 1)),
  (word 0x4A 0x003 0x001 0 0 8 0, .fabs always true (dV 3) (V 1)), (word 0x4B 0x003 0x001 0 0 0 0, .fneg always false (dV 3) (V 1)),
  (word 0x4C 0x003 0x001 0 0 8 0, .log2 always true (dV 3) (V 1)), (word 0x4D 0x003 0x001 0 0 0 0, .exp2 always false (dV 3) (V 1)),
  (word 0x4E 0x003 0x001 0 0 8 0, .rcp always true (dV 3) (V 1)), (word 0x4F 0x003 0x001 0 0 0 0, .rsq always false (dV 3) (V 1)),
  (word 0x50 0x003 0x001 0 0 8 0, .sin always true (dV 3) (V 1)), (word 0x51 0x003 0x001 0 0 0 0, .cos always false (dV 3) (V 1)),
  (word 0x52 0x003 0x001 0 0 0b0011101 0, .cvt always .f16 .sr (dV 3) (V 1)), (word 0x53 0x003 0x101 0 0 0b1000001 0, .pack always .i8 1#3 (dV 3) (.s 1)),
  (word 0x54 0x008 0x001 0 0 0b0101001 0, .unpk always .e4m3 true (.v 8) (V 1)), (word 0x55 0x008 0x001 0 0 0b0000110 0, .k8dec always true 2#2 (.v 8) (V 1)),
  (word 0x56 0x003 0x001 0x002 0 0 0, .hash always (dV 3) (V 1) (V 2)), (word 0x57 0x003 0x001 0x002 0 0 0, .rndu always (dV 3) (V 1) (V 2))] = true := by
  decide +kernel

/-- In format B field A stands in bits 51:41 and OFF in bits 40:8. -/
theorem test_words_control : allRead 1#64 [
  (word 0x60 0 0x7FF 0x7FF 0x7FE 0 0, .jmp always (-2#33)), (word 0x61 0x001 0 0 0x007 1 0, .br always true (V 1) 7#33),
  (word 0x62 0x103 0 0x001 0 0 0, .call always (dS 3) 2048#33), (word 0x63 0x103 0x104 0 0 0 0, .callr always (dS 3) (S 4)),
  (word 0x64 0 0x103 0 0 0 0, .ret always (S 3)), (word 0x65 0x108 0x7FF 0x7FF 0x7FD 0 0, .loopd always 8 (-3#33)),
  (word 0x66 0 0 0 0 0 0, .exit always), (word 0x67 0 0 0 0 0 0, .nop always),
  (word 0x68 0x003 0x001 0x102 0b10_000000101 1 0, .ld always false true (dV 3) ⟨V 1, S 2, 2#2, 5#9⟩),
  (word 0x69 0x002 0x101 0x1FF 4 2 0, .st always true (V 2) ⟨S 1, .reg .zr, 0#2, 4#9⟩), (word 0x6A 0x003 0x101 0x1FF 0 0b1000000 0, .ldt always .i8 (dV 3) (mem (S 1))),
  (word 0x6B 0x002 0x101 0x1FF 0 0b1001001 0, .stt always .n8 1#3 (V 2) (mem (S 1))), (word 0x6C 0x003 0x001 0x1FF 0 0 0, .hld always (dV 3) (mem (V 1))),
  (word 0x6D 0x002 0x001 0x1FF 0 0 0, .hst always (V 2) (mem (V 1))), (word 0x6E 0x003 0x001 0x102 0 0 0, .alloc always (dV 3) (V 1) (S 2)),
  (word 0x6F 0x008 0x101 0x1FF 0 0b0001011 0, .ldl always 3#3 true 8 (mem (S 1))), (word 0x70 0 0x101 0 0 0 0, .trap always (S 1)),
  (word 0x71 0 0x101 0 0 0 0, .sysc always (S 1)), (word 0x72 0 0x206 0 0 0 0, .hret (.latch 6)), (word 0x73 0 0 0 0 0 0, .bkpt always),
  (word 0x74 0x103 0 0 0x01A 0 0, .mfs always (dS 3) 26), (word 0x75 0 0x103 0 0x01A 0 0, .mts always (S 3) 26), (word 0x76 0 0x101 0 0 0 0, .snap always (S 1)),
  (word 0x13 0x003 0x5F7 0 0 0 1, .mov always (dV 3) (.lit .sym 1#64)), (word 0x13 0x405 0x601 0 0 0 0, .mov always (.chan 5) (.chan true 1))] = true := by
  decide +kernel

theorem test_words_parallel : allRead 5#64 [
  (word 0x80 0x141 0x142 0x143 0 0 0, .mand always (dM 1) (.reg (.m 2)) (.reg (.m 3))), (word 0x81 0x141 0x142 0x143 0 0 0, .mor always (dM 1) (.reg (.m 2)) (.reg (.m 3))),
  (word 0x82 0x141 0x142 0x143 0 0 0, .mxor always (dM 1) (.reg (.m 2)) (.reg (.m 3))), (word 0x83 0x141 0x142 0 0 0 0, .mnot always (dM 1) (.reg (.m 2))),
  (word 0x84 0x103 0x142 0 0 0 0, .mpopc always (dS 3) (.reg (.m 2))), (word 0x85 0x103 0x142 0 0 1 0, .mffs always true (dS 3) (.reg (.m 2))),
  (word 0x86 0x141 0x001 0 0 1 0, .mset always true (dM 1) (V 1)), (word 0x87 0x003 0x142 0 0 0 0, .mget always (dV 3) (.reg (.m 2))),
  (word 0x88 0x001 0 0 0x004 1 1, .brd always true (V 1) 4#33 5#33), (word 0x89 0x103 0x001 0 0 2 0, .vote always .same (dS 3) (V 1)),
  (word 0x8A 0x003 0x001 0x002 0x104 5 0, .shfl always .rot (some (S 4)) (dV 3) (V 1) (V 2)), (word 0x8A 0x003 0x001 0x002 0 3 0, .shfl always .swap none (dV 3) (V 1) (V 2)),
  (word 0x8B 0x003 0x008 0x002 0 3 0, .lgather always 3#3 (dV 3) 8 (V 2)), (word 0x8C 0x103 0x001 0x102 0 0 0, .bcast always (some (S 2)) (dS 3) (V 1)),
  (word 0x8C 0x103 0x001 0 0 1 0, .bcast always none (dS 3) (V 1)), (word 0x8D 0x103 0x001 0 0 0b0110000 0, .redw always .and .i (dS 3) (V 1) (V 0)),
  (word 0x8D 0x103 0x001 0x002 0 0b1111000 0, .redw always .argmax .f32 (dS 3) (V 1) (V 2)), (word 0x8E 0x003 0x001 0 0 0b0011110 0, .scanw always .min .f64 true (dV 3) (V 1)),
  (word 0x8F 0x028 0x008 0x102 0 0b0011001 0, .topk always 1#3 .f32 false true 0x28 8 (S 2)), (word 0x90 0x028 0x008 0x00C 0 4 0, .merge always .ts 0x28 8 12),
  (word 0x91 0x028 0x008 0 0 0b0001110 0, .sortw always .f64 true 0x28 8), (word 0x92 0x103 0x101 0 0 0b0000010 0, .gbar always .add .i 2#2 (dS 3) (S 1) (V 0)),
  (word 0x93 0 0x004 0 0 0b0011011 0, .spawn always 3#4 1#2 true 4), (word 0x94 0 0x106 0x1FF 0 0 0, .join always (S 6) (.reg .zr)),
  (word 0x95 0x103 0x101 0x102 0 0 0, .jadd always (dS 3) (S 1) (S 2)), (word 0x96 0 0x101 0 0 0 0, .regs always (S 1)), (word 0x97 0x103 0x101 0 0 0 0, .launch always (dS 3) (S 1))] = true := by
  decide +kernel

theorem test_words_memory : allRead 0#64 [
  (word 0xA0 0x006 0x002 0x006 2 0b0000100 0, .atom always .add .rel (.v 6) ⟨V 2, 6#4, 2#9⟩), (word 0xA0 0x006 0x002 0 0 0b1010000 0, .atom always .faddd .none (.v 6) ⟨V 2, 0#4, 0#9⟩),
  (word 0xA1 0x106 0x002 0x003 1 0b0000010 0, .cas always .acq (.s 6) ⟨V 2, 3#4, 1#9⟩), (word 0xA2 0x008 0x002 0x008 0 0b0000110 0, .cas2 always .ar (.v 8) ⟨V 2, 8#4, 0#9⟩),
  (word 0xA3 0x003 0x101 0x006 0 0 0, .lda always (dV 3) ⟨S 1, 6#4, 0#9⟩), (word 0xA4 0x003 0x101 0x006 0 0 0, .stl always (V 3) ⟨S 1, 6#4, 0#9⟩),
  (word 0xA5 0 0 0 0 0b0110011 0, .phase always .full 6#4), (word 0xA6 0 0x101 0x1FF 0 1 0, .cflush always true (mem (S 1))),
  (word 0xA7 0 0x101 0x1FF 0 0 0, .cinvl always false (mem (S 1))), (word 0xA8 0 0x101 0x1FF 0 1 0, .pref always true (mem (S 1))),
  (word 0xA9 0x003 0x101 0x1FF 0 0b0010000 0, .lds always .f32 (dV 3) (mem (S 1))), (word 0xAA 0x003 0x101 0x1FF 0 0b0101100 0, .sts always .e4m3 4#3 (V 3) (mem (S 1))),
  (word 0xAB 0x003 0x101 0x1FF 0 3 0, .ldw always 3#2 (dV 3) (mem (S 1))), (word 0xAC 0x003 0x101 0x1FF 0 2 0, .stw always 2#2 (V 3) (mem (S 1))),
  (word 0xAD 0x402 0x109 0 0 4 0, .chbind always .fout 2 (S 9)), (word 0xAE 0x028 0x104 0x1FF 0 1 0, .enq always true 0x28 (mem (S 4))), (word 0xAF 0x028 0x104 0x1FF 0 0 0, .deq always false 0x28 (mem (S 4)))] = true := by
  decide +kernel

theorem test_words_sparse_copies : allRead 0xD3000060_8C180020#64 [
  (word 0xB0 0x003 0x104 0x002 0 0 0, .sld always (dV 3) (S 4) (V 2)), (word 0xB1 0 0x104 0x002 0x003 0 0, .sst always (S 4) (V 2) (V 3)),
  (word 0xB2 0x006 0x104 0x002 0x003 2 0, .sadd always .max (dV 6) (S 4) (V 2) (V 3)), (word 0xB3 0x006 0x104 0x002 0x003 0 0, .sxch always (dV 6) (S 4) (V 2) (V 3)),
  (word 0xB4 0x008 0x104 0x002 0x00A 0 0, .scas always (.v 8) (S 4) (V 2) (.v 10)), (word 0xB5 0x008 0x104 0x002 0 1 0, .snext always true (.v 8) (S 4) (V 2)),
  (word 0xB6 0x028 0x104 0x105 0 0b0111111 0, .sscan always 31#5 true none 0x28 (S 4) (S 5)), (word 0xB6 0x028 0x104 0x105 0x106 0b1000011 0, .sscan always 3#5 false (some (S 6)) 0x28 (S 4) (S 5)),
  (word 0xB7 0x103 0x104 0x102 0 0b0000010 0, .sstat always .free false (dS 3) (S 4) (S 2)), (word 0xC0 0x108 0x104 0x105 0x106 1 0, .cpy always true (dS 8) (S 4) (S 5) (S 6)),
  (word 0xC1 0x108 0x1FF 0x105 0x106 0b0000100 0, .cpyg always 2#2 false (dS 8) (.reg .zr) (S 5) (S 6)),
  (word 0xC2 0x1FF 0x110 0x10F 0x1FF 0 1, .cpym always false (.reg .zr) (S 16) (S 15) (.reg .zr) 0xD3000060_8C180020#64),
  (word 0xC3 0x108 0x104 0x105 0 0 0, .cpyd always (dS 8) (S 4) (S 5)), (word 0xC4 0x108 0x104 0x105 0 0 0, .cpys always (dS 8) (S 4) (S 5)),
  (word 0xC5 0x108 0x104 0x105 0 0 0, .cpyx always (dS 8) (S 4) (S 5)), (word 0xC6 0x109 0x106 0x107 0 0 0, .gwait always (dS 9) (S 6) (S 7)),
  (word 0xC7 0x109 0x106 0x107 0 0 0, .gtest always (dS 9) (S 6) (S 7)), (word 0xC8 0 0x106 0x107 0x108 3 0, .garm always 3#2 (S 6) (S 7) (S 8)),
  (word 0xC9 0x109 0 0 0 2 0, .gdis always 2#2 (dS 9)), (word 0xCA 0x108 0x104 0 0 0 0, .cpyq always (dS 8) (S 4)), (word 0xCA 0x108 0x104 0 0 1 0, .cpyqCancel always (dS 8) (S 4))] = true := by
  decide +kernel

theorem test_words_matrix : allRead 0#64 [
  (word 0xD0 0x182 0x104 0 0 0 0, .tshape always (.reg (.t 2)) (S 4)), (word 0xD1 0x182 0x104 0 0 0 0, .tld always (.reg (.t 2)) (S 4)),
  (word 0xD2 0x182 0x104 0 0 0 0, .tst always (.reg (.t 2)) (S 4)), (word 0xD3 0x001 0x182 0x183 0 0b0110010 0, .mma always .e4m3 true true 1 (.reg (.t 2)) (.reg (.t 3))),
  (word 0xD4 0x001 0x002 0x104 0x105 1 0, .sacc always true 1 2 (S 4) (S 5)), (word 0xD5 0x001 0 0 0 0 0, .acq always 1), (word 0xD6 0x007 0 0 0 0 0, .rel always 7),
  (word 0xD7 0x001 0x104 0x105 0x106 0b0001001 0, .accout always .bf16 1#3 1 (S 4) (S 5) (S 6)), (word 0xD8 0x001 0 0 0 1 0, .accz always true 1),
  (word 0xD9 0x104 0 0 0 0 0, .mfence always (dS 4)), (word 0xDA 0 0x104 0 0 0 0, .mwait always (S 4)), (word 0xDB 0 0x104 0 0 0 0, .cbld always (S 4))] = true := by
  decide +kernel

theorem test_words_privileged : allRead 0#64 [
  (word 0xE0 0 0x140 0 0 0 0, .sret (.reg (.m 0))), (word 0xE0 0 0x141 0 0 1 0, .sretHost (.reg (.m 1))), (word 0xE1 0x003 0x001 0x104 0 1 0, .pmap always true (dV 3) (V 1) (S 4)),
  (word 0xE1 0x003 0x001 0x104 0 2 0, .pmapAttr always (dV 3) (V 1) (S 4)), (word 0xE1 0x003 0x001 0x1FF 0 4 0, .pmapUnmap always (dV 3) (V 1)),
  (word 0xE2 0 0x104 0 0 2 0, .pinv always .g64 (S 4)), (word 0xE2 0 0x1FF 0 0 4 0, .pinvAll always),
  (word 0xE3 0x108 0x104 0x105 0 0 0, .pmigStart (dS 8) (S 4) (S 5)), (word 0xE3 0x108 0x104 0x1FF 0 1 0, .pmigStat (dS 8) (S 4)),
  (word 0xE4 0 0x108 0 0 0 0, .icinvLine (S 8)), (word 0xE4 0 0x108 0 0 1 0, .icinvPage (S 8)), (word 0xE4 0 0x1FF 0 0 2 0, .icinvAsid),
  (word 0xE5 0x108 0x109 0 0 8 0, .rdctlShb (some (S 9)) (dS 8)), (word 0xE5 0x108 0 0 0 1 0, .rdctlItab none (dS 8)), (word 0xE5 0x108 0 0 0 2 0, .rdctlRbase none (dS 8)),
  (word 0xE5 0x108 0 0 0 3 0, .rdctlRsize none (dS 8)), (word 0xE5 0x108 0x109 0 0 12 0, .rdctlCtl (some (S 9)) (dS 8)), (word 0xE5 0x108 0 0 0 5 0, .rdctlRhead none (dS 8)),
  (word 0xE5 0x108 0 0 0 6 0, .rdctlRtail none (dS 8)), (word 0xE5 0x108 0 0 0 7 0, .rdctlRdrop none (dS 8)),
  (word 0xE6 0x108 0x104 0x105 0 0 0, .sdeclCreate always (dS 8) (S 4) (S 5)), (word 0xE6 0x108 0x104 0x105 0 1 0, .sdeclGrow always (dS 8) (S 4) (S 5)),
  (word 0xE6 0x108 0x104 0x1FF 0 2 0, .sdeclRetire always (dS 8) (S 4)), (word 0xE7 0x108 0x104 0x105 0 0 0, .gtblSpill always (dS 8) (S 4) (S 5)),
  (word 0xE7 0x108 0x104 0x105 0 1 0, .gtblCont always (dS 8) (S 4) (S 5))] = true := by decide +kernel

/-- The words that the specification itself writes out: R95, spec/04 to spec/24. -/
theorem test_words_of_the_specification :
    (reads (bytesOfWord 0x01600A01_2F800001#64 ++ bytesOfWord 42#64) (.add ⟨3#3, false⟩ (dV 5) (V 4) (I 42)) &&
    reads (bytesOfWord 0x14000600_6F800003#64 ++ bytesOfWord 5#64) (.iadd always .ss (dV 3) (V 1) (I 5)) &&
    reads (bytesOfWord 0x88000200_00000401#64 ++ bytesOfWord 5#64) (.brd always false (V 1) 4#33 5#33) &&
    reads (bytesOfWord 0x8F005002_2F800011#64 ++ bytesOfWord 4#64) (.topk always 0#3 .f32 false false 40 8 (I 4)) &&
    reads (bytesOfWord 0x6E00077C_08500001#64 ++ bytesOfWord 3#64) (.alloc always (dV 3) (I 3) (S 10)) &&
    reads (bytesOfWord 0xC6021241_AF800001#64 ++ bytesOfWord 0x1000#64) (.gwait always (dS 9) (S 6) (I 4096)) &&
    reads (bytesOfWord 0xC203FE44_0879FF01#64 ++ bytesOfWord 0xD3000060_8C180020#64)
      (.cpym always false (.reg .zr) (S 16) (S 15) (.reg .zr) 0xD3000060_8C180020#64) &&
    reads (bytesOfWord 0xE1040080_2F800003#64 ++ bytesOfWord 0xA0#64) (.pmap always true .nowb (.latch 0) (I 0xA0)) &&
    reads [0x01#8, 0x00#8, 0x80#8, 0x2F#8, 0x01#8, 0x0A#8, 0x60#8, 0x01#8, 0x2A#8, 0#8, 0#8, 0#8, 0#8, 0#8, 0#8, 0#8]
      (.add ⟨3#3, false⟩ (dV 5) (V 4) (I 42)) && allRead 0#64 [
    (0xFC00C444_00000000#64, .rep 3#6 1#4 1#4 1#4 0#4), (0x11000E00_C0000004#64, .tagset always 2#4 (dV 7) (V 3)),
    (0x43001401_00280600#64, .ffma always false .rne (dV 10) (V 4) (V 5) (V 6)), (0x52001200_8000005A#64, .cvt always .e4m3 .sr (dV 9) (V 2)),
    (0x67000000_00000000#64, .nop always), (0x650211FF_FFFFFD00#64, .loopd always 8 (-3#33)),
    (0x69008047_8FF80404#64, .st always true (V 64) ⟨S 30, .reg .zr, 0#2, 4#9⟩),
    (0x92021441_082800F2#64, .gbar always .argmax .f32 1#2 (dS 10) (S 4) (S 5)), (0x93000001_00000034#64, .spawn always 3#4 1#2 false 4),
    (0x01000801_00280000#64, .add always (dV 4) (V 4) (V 5)), (0x72000081_80000000#64, .hret (.latch 6)),
    (0x57000A43_80080000#64, .rndu always (dV 5) (S 14) (V 1)), (0x8D022000_801800F0#64, .redw always .argmax .f32 (dS 16) (V 2) (V 3)),
    (0x92022444_088800F0#64, .gbar always .argmax .f32 0#2 (dS 18) (S 16) (S 17)), (0xA0000C00_80300208#64, .atom always .add .rel (.v 6) ⟨V 2, 6#4, 2#9⟩),
    (0xAF005041_0FF80000#64, .deq always false 40 (mem (S 4))), (0xAD080442_40000008#64, .chbind always .fout 2 (S 9)),
    (0xB2000C41_00100300#64, .sadd always .add (dV 6) (S 4) (V 2) (V 3)), (0xB6005041_0828007E#64, .sscan always 31#5 true none 40 (S 4) (S 5)),
    (0xC0021041_08290600#64, .cpy always false (dS 8) (S 4) (S 5) (S 6)), (0xD3000060_8C180020#64, .mma always .bf16 true false 0 (.reg (.t 2)) (.reg (.t 3))),
    (0xB1400040_00200500#64, .sst ⟨2#3, false⟩ (S 0) (V 4) (V 5)), (0xB6005040_08610DC6#64, .sscan always 3#5 true (some (S 13)) 40 (S 0) (S 12)),
    (0xC303FE43_C8800000#64, .cpyd always (.reg .zr) (S 15) (S 16)), (0x73000000_00000000#64, .bkpt always),
    (0xE5021042_40000018#64, .rdctlCtl (some (S 9)) (dS 8)), (0x93400001_00000006#64, .spawn ⟨2#3, false⟩ 0#4 1#2 true 4),
    (0x94000041_8FF80000#64, .join always (S 6) (.reg .zr)), (0xE4000042_00000002#64, .icinvPage (S 8)), (0xE400007F_C0000004#64, .icinvAsid),
    (0xE3021041_08280000#64, .pmigStart (dS 8) (S 4) (S 5))]) = true := by decide +kernel

/-- Refused words: an unassigned opcode (R87), a nonzero unused field (R64), a MOD value, a reserved operand encoding (R67), GRD = 0 with
GNG = 1 (R75), LX without a literal, a literal of tag FWD (R68), two literals, a special register number beyond 39 (R160). -/
def refuses (w : Word) (e : DecodeError) : Bool :=
  match decode (bytesOfWord w ++ bytesOfWord 0#64) with
  | .error x => decide (x = e)
  | .ok _ => false

theorem test_refused_words :
    (reads (bytesOfWord 0x31000000_00000000#64) (.unassignedOpcode 0x31000000_00000000#64) &&
    reads (bytesOfWord 0#64) (.unassignedOpcode 0#64) && refuses (word 0x67 1 0 0 0 0 0) .unusedField && refuses (word 0x67 0 0 0 0 1 0) .modValue &&
    refuses (word 0x01 0x003 0x001 0x148 0 0 0) .operandField && refuses (word 0x01 0x203 0x001 0x002 0 0 0) .operandField &&
    refuses (word 0x67 0 0 0 0 0 0 ||| 0x00100000_00000000#64) .guardField && refuses (word 0x01 0x003 0x001 0x002 0 0 1) .literalRule &&
    refuses (word 0x01 0x003 0x001 0x5F5 0 0 1) .literalRule && refuses (word 0x01 0x003 0x5F0 0x5F0 0 0 1) .literalRule &&
    refuses (word 0x01 0x003 0x001 0x5F0 0 0 0) .literalRule && refuses (word 0x74 0x103 0 0 0x028 0 0) .registerNumber) = true := by decide +kernel

/-! ### Ill-formed terms -/

/-- One for each check of the well-formedness. -/
theorem test_ill_formed : ∀ i ∈ ([
  .nop ⟨0#3, true⟩, .mov always (dV 3) (.lit .fwd 0#64), .mov always (dV 3) (.lit .tile 0#64), .add always (dV 3) (I 1) (I 1),
  .imad always .wrap (dV 3) (V 1) (I 1) (I 1), .fadd always false .sr (dV 3) (V 1) (V 2), .ffma always false .sr (dV 3) (V 1) (V 2) (V 4),
  .fsqrt always false .sr (dV 3) (V 1), .cvt always .ts .rne (dV 3) (V 1), .cvt always .raw .rne (dV 3) (V 1), .pack always .i64 0#3 (dV 3) (.v 1),
  .pack always .i8 2#3 (dV 3) (.v 1), .pack always .f16 6#3 (dV 3) (.v 1), .unpk always .i8 true (.v 8) (V 1), .unpk always .ts false (.v 8) (V 1),
  .br always false (I 1) 0#33, .brd always false (I 1) 0#33 0#33, .call always (dV 3) 0#33, .callr always (dM 1) (S 1),
  .ld always true false (dS 3) (mem (S 1)), .ld always false false (dV 3) ⟨I 1, I 2, 0#2, 0#9⟩, .st always true (S 3) (mem (S 1)),
  .ldt always .raw (dV 3) (mem (S 1)), .stt always .raw 0#3 (V 3) (mem (S 1)), .stt always .ts 1#3 (V 3) (mem (S 1)), .stt always .f16 5#3 (V 3) (mem (S 1)),
  .sts always .i8 2#3 (V 3) (mem (S 1)), .mfs always (dV 3) 40#8, .mts always (S 1) 40#8, .mand always (dV 3) (S 1) (S 2), .mpopc always (dM 1) (V 1),
  .mget always (dS 3) (S 1), .vote always .some (dV 3) (V 1), .shfl always .lane none (dS 3) (V 1) (V 2), .bcast always none (dV 3) (V 1),
  .redw always .add .ts (dS 3) (V 1) (V 0), .redw always .or .f32 (dS 3) (V 1) (V 0), .redw always .argmin .i (dS 63) (V 1) (V 2), .redw always .add .i (dS 3) (V 1) (V 2),
  .scanw always .argmax .i false (dV 3) (V 1), .scanw always .xor .f64 false (dV 3) (V 1), .merge always .f32 0 4 8, .gbar always .add .ts 0#2 (dS 3) (S 1) (V 0),
  .jadd always (dV 3) (S 1) (S 2), .launch always (dV 3) (S 1), .atom always .add .none (.v 6) ⟨V 2, 6#4, 0#9⟩, .atom always .add .acq (.v 6) ⟨V 2, 1#4, 0#9⟩,
  .atom always .add .acq (.m 1) (rem (V 2)), .cas always .acq (.v 6) ⟨V 2, 9#4, 0#9⟩, .lda always (dV 3) ⟨S 1, 1#4, 0#9⟩, .stl always (I 1) (rem (I 1)),
  .phase always .full 9#4, .sstat always .eng true (dS 3) (S 4) (V 0), .sstat always .ent true (dS 3) (S 4) (S 2), .cpy always false (dV 8) (S 4) (S 5) (S 6),
  .cpy always false (dS 8) (I 4) (S 5) (S 6), .cpym always false (dS 8) (S 4) (S 5) (S 6) 0#64, .cpyd always (dS 8) (I 4) (S 5), .gwait always (dV 9) (S 6) (S 7), .gdis always 0#2 (dM 1), .cpyq always (dS 63) (S 4),
  .merge ⟨0#3, true⟩ .i 0 4 8, .accout always .bf16 6#3 1 (S 4) (S 5) (S 6), .accout always .f32 1#3 1 (S 4) (S 5) (S 6), .mfence always (dV 4),
  .pmigStart (dV 8) (S 4) (S 5), .pmigStat (dV 8) (S 4), .rdctlShb (some (.lit .fwd 0#64)) (dS 8), .rdctlCtl none (dV 8), .unassignedOpcode 0#64] : List Instr),
    i.wf = false := by decide +kernel

/-! ### Results that the specification states -/

/-- The instruction answers a next state whose warp meets `q`. -/
def after (s : State) (i : Instr) (q : State → Warp → Bool) : Bool := next (exec i s) fun t => q t (warpOf t)

/-- Lane `k` of a row of the warp. -/
def lane (w : Warp) (n k : Nat) : Val := rowAt (w.v.getD n nilRow) k

def f32N (x : Nat) : Val := ⟨.f32, wordN x⟩
def f64N (x : Nat) : Val := ⟨.f64, wordN x⟩

/-- spec/04's case of ADD: INT with INT, F32 with F32, INT with F32. -/
def mixed : State := onMe (standing [] [] [] []) fun w =>
  let v := setAt w.v 1 [vNat 5, f32N 0x3FC00000, vNat 1]
  { w with em := 7#32, v := setAt v 2 [vNat 7, f32N 0x40100000, f32N 0x3F000000] }
theorem test_add_classes : after mixed (.add always (dV 5) (V 1) (V 2))
    (fun _ w => lane w 5 0 == vNat 12 && lane w 5 1 == f32N 0x40700000 && lane w 5 2 == f64N 0x3FF8000000000000) = true := by
  decide +kernel

/-- R105's case: 2^53 + 1 is not equal to 2^53, and their sum is rounded with FPST.IX (bit 4) set. -/
theorem test_ceq_exact : after (standing [vNat 0x20000000000001, f64N 0x4340000000000000] [] [] []) (.ceq always (dV 5) (V 1) (V 2))
    (fun _ w => lane w 5 0 == vBool false) = true := by decide +kernel
theorem test_add_rounds : after (standing [vNat 0x20000000000001, f64N 0x4340000000000000] [] [] []) (.add always (dV 5) (V 1) (V 2))
    (fun _ w => lane w 5 0 == f64N 0x4350000000000000 && w.fpst != 0#7) = true := by decide +kernel

/-- The overflowing lane of that case goes to the handler of entry 0x300. -/
theorem test_add_overflow : after (updCtx (standing [vNat (2 ^ 63 - 1), vNat 1] [] [] [(0x174000 + 8 * 0x300, ⟨.code, 0x44000#64⟩)]) 1
    fun c => { c with pdtb := 0x174000#64 }) (.add always (dV 5) (V 1) (V 2))
    (fun _ w => w.pc == 0x44000#56 && w.hopRsn && w.hopCls == 1 && lane w 5 0 == vNil) = true := by decide +kernel

/-- spec/04's case: the F32 payload drops bits 63:32. -/
theorem test_tagset : after (standing [vNat 0x123456783F800000] [] [] []) (.tagset always 2#4 (dV 7) (V 1))
    (fun _ w => lane w 7 0 == f32N 0x3F800000) = true := by decide +kernel
theorem test_tagis : after (standing [f64N 0, vNat 6] [] [] []) (.tagis always (dV 7) (V 1) (V 2))
    (fun _ w => lane w 7 0 == vBool true) = true := by decide +kernel

/-- spec/05's case: the wrapping form sets no flag, the saturating form sets FPST.SA. -/
theorem test_iadd_wraps : after (standing [vNat 0x7FFFFFFFFFFFFFF0, vNat 0x20] [] [] []) (.iadd always .wrap (dV 3) (V 1) (V 2))
    (fun _ w => lane w 3 0 == vNat 0x8000000000000010 && w.fpst == 0#7) = true := by decide +kernel
theorem test_iadd_saturates : after (standing [vNat 0x7FFFFFFFFFFFFFF0, vNat 0x20] [] [] []) (.iadd always .ss (dV 3) (V 1) (V 2))
    (fun _ w => lane w 3 0 == vNat 0x7FFFFFFFFFFFFFFF && w.fpst != 0#7) = true := by decide +kernel

/-- spec/05's cases. -/
theorem test_bfx : after (standing [vNat 0x00038000000186A0, vNat 0x1030] [] [] []) (.bfx always false (dV 7) (V 1) (V 2))
    (fun _ w => lane w 7 0 == vNat 3) = true := by decide +kernel
theorem test_bfi : after (standing [vNat 100250, vNat 0x2F00, vNat 0x00038000000186A0] [] [] []) (.bfi always (dV 3) (V 1) (V 2) (V 3))
    (fun _ w => lane w 3 0 == vNat 0x000380000001879A) = true := by decide +kernel

/-- R148: FRND.s.rtz of -0.75 gives -0. -/
theorem test_frnd : after (standing [f32N 0xBF400000] [] [] []) (.frnd always false .rtz (dV 3) (V 1))
    (fun _ w => lane w 3 0 == f32N 0x80000000) = true := by decide +kernel

/-- R155's case. -/
theorem test_unpk : after (standing [⟨.raw, 0x7E38#64⟩] [] [] []) (.unpk always .e4m3 false (.v 8#8) (V 1))
    (fun _ w => lane w 8 0 == f32N 0x3F800000 && lane w 9 0 == f32N 0x43E00000 && lane w 10 0 == f32N 0 && lane w 15 0 == f32N 0) = true := by
  decide +kernel

/-- R156's case, with the magnitude table of reset (R46). -/
theorem test_k8dec : after (standing [⟨.raw, 0xA56B#64⟩] [] [] []) (.k8dec always false 0#2 (.v 8#8) (V 1))
    (fun _ w => lane w 8 0 == ⟨.raw, 0x3E80BFA03F40BFA0#64⟩ && lane w 9 0 == ⟨.raw, 0x3FE03F40BFA0BF40#64⟩) = true := by decide +kernel

/-- R59 and R60, computed by hand for seed 7 and counter 3. -/
theorem test_hash : after withInts (.hash always (dV 3) (V 1) (V 2)) (fun _ w => lane w 3 0 == vNat 0xEC54E6845C2BA9C6) = true := by
  decide +kernel
theorem test_rndu : after withInts (.rndu always (dV 3) (V 1) (V 2)) (fun _ w => lane w 3 0 == f32N 0x3F6C54E6) = true := by
  decide +kernel

/-- spec/06's LOOPD: three words back while the count stays positive. -/
theorem test_loopd : after withInts (.loopd always 1 (-3#33)) (fun _ w =>
    w.pc == (warpOf withInts).pc - 24#56 && sregVal w 1 == vNat 6) = true := by decide +kernel

/-- R195 with a split: the taken path runs first, the join entry lies below the path entry. -/
theorem test_brd_splits : after (onMe withInts fun w => { w with v := setAt w.v 1 [vBool true, vBool false] }) (.brd always false (V 1) 4#33 5#33)
    (fun _ w => w.em == 1#32 && w.pc == (warpOf withInts).pc + 32#56 && w.stack.map (fun e => (e.pc, e.mask)) ==
      [((warpOf withInts).pc + 16#56, 2#32), ((warpOf withInts).pc + 40#56, 3#32)]) = true := by decide +kernel

/-- spec/08's table: the greatest four of eight values, and the form that leaves zeros out. -/
def ranked : State := onMe withInts fun w =>
  let row := [f32N 0x40000000, f32N 0x7FC00000, f32N 0x40A00000, f32N 0x40000000, f32N 0xFF800000, f32N 0x40A00000, f32N 0, f32N 0x40000000]
  { w with em := 0xFF#32, v := setAt w.v 8 row }
theorem test_topk : after ranked (.topk always 0#3 .f32 false false 40 8 (I 4)) (fun _ w =>
    (List.range 5).map (lane w 40) == [f32N 0x40A00000, f32N 0x40A00000, f32N 0x40000000, f32N 0x40000000, vNil] &&
    (List.range 5).map (lane w 41) == [vNat 2, vNat 5, vNat 0, vNat 3, vNat (2 ^ 64 - 1)]) = true := by decide +kernel
theorem test_topk_nz : after ranked (.topk always 0#3 .f32 false true 40 8 (I 8)) (fun _ w =>
    (List.range 8).map (lane w 41) == [vNat 2, vNat 5, vNat 0, vNat 3, vNat 7, vNat 4, vNat 1, vNat (2 ^ 64 - 1)]) = true := by decide +kernel

/-- spec/14's case: four lanes add 1, 2, 3 and 4 to one word that holds 10. -/
def adding : State := onMe (standing [] [] [(0x100010, vNat 10)] []) fun w =>
  let v := setAt w.v 6 [vNat 1, vNat 2, vNat 3, vNat 4]
  { w with em := 15#32, v := setAt v 2 (rowOf (vNat 0x100000)) }
theorem test_atom : after adding (.atom always .add .rel (.v 6) ⟨V 2, 6#4, 2#9⟩) (fun t w =>
    (List.range 4).map (lane w 6) == [vNat 10, vNat 11, vNat 13, vNat 16] && memLoad t.mem 0x1100010 8 == 20) = true := by decide +kernel

/-- R22: a byte stored into a tagged word leaves RAW. -/
theorem test_stt_byte : after (standing [vNat 0xFF] [vNat 0x100000] [(0x100000, ⟨.ref, 0x102#64⟩)] []) (.stt ⟨0#3, false⟩ .n8 0#3 (V 1) (mem (S 1)))
    (fun t _ => memLoad t.mem 0x1100000 8 == 0x1FF && memTag t.mem 0x1100000 == 3#4) = true := by decide +kernel

/-- R447: a system call enters the handler in the warp's lanes, with its own address in HA. -/
theorem test_sysc : after withInts (.sysc always (S 1)) (fun _ w => w.sup && w.pc == BitVec.ofNat 56 (0x30000 + 64 * FClass.code .systemCall) &&
    w.em == 3#32 && rowAt w.ha 0 == ⟨.code, (warpOf withInts).pc.setWidth 64⟩ && w.latches == [] && w.repc == 0) = true := by decide +kernel

/-- R455: an address beyond 56 bits answers 5. -/
theorem test_pmap_address : after withSup (.pmap always false (dV 9) (I 0x100000000000000) (I 0xA0)) (fun _ w => lane w 9 0 == vNat 5) = true := by
  decide +kernel

end Sys2Proof.Tests
end

section
/-! SUPPORT. The bytes of a well-formed instruction decode to it (R61-R68). -/

namespace Sys2Proof

/-- The fields of every well-formed instruction decode to it: the lemmas of its constructors, gathered. -/
theorem decodeRaw_toRaw (i : Instr) : Laws.RoundTrip.Statement i := by
  cases i with
  | add => apply Laws.RoundTrip.add
  | sub => apply Laws.RoundTrip.sub
  | mul => apply Laws.RoundTrip.mul
  | div => apply Laws.RoundTrip.div
  | idiv => apply Laws.RoundTrip.idiv
  | mod => apply Laws.RoundTrip.mod
  | neg => apply Laws.RoundTrip.neg
  | abs => apply Laws.RoundTrip.abs
  | min => apply Laws.RoundTrip.min
  | max => apply Laws.RoundTrip.max
  | ceq => apply Laws.RoundTrip.ceq
  | cne => apply Laws.RoundTrip.cne
  | clt => apply Laws.RoundTrip.clt
  | cle => apply Laws.RoundTrip.cle
  | truth => apply Laws.RoundTrip.truth
  | tagof => apply Laws.RoundTrip.tagof
  | tagset => apply Laws.RoundTrip.tagset
  | tagsetDyn => apply Laws.RoundTrip.tagsetDyn
  | tagis => apply Laws.RoundTrip.tagis
  | mov => apply Laws.RoundTrip.mov
  | iadd => apply Laws.RoundTrip.iadd
  | isub => apply Laws.RoundTrip.isub
  | imul => apply Laws.RoundTrip.imul
  | imulh => apply Laws.RoundTrip.imulh
  | idivt => apply Laws.RoundTrip.idivt
  | iremt => apply Laws.RoundTrip.iremt
  | imad => apply Laws.RoundTrip.imad
  | and => apply Laws.RoundTrip.and
  | or => apply Laws.RoundTrip.or
  | xor => apply Laws.RoundTrip.xor
  | andn => apply Laws.RoundTrip.andn
  | not => apply Laws.RoundTrip.not
  | shl => apply Laws.RoundTrip.shl
  | shr => apply Laws.RoundTrip.shr
  | sar => apply Laws.RoundTrip.sar
  | rol => apply Laws.RoundTrip.rol
  | popc => apply Laws.RoundTrip.popc
  | clz => apply Laws.RoundTrip.clz
  | ctz => apply Laws.RoundTrip.ctz
  | brev => apply Laws.RoundTrip.brev
  | bfx => apply Laws.RoundTrip.bfx
  | bfi => apply Laws.RoundTrip.bfi
  | imin => apply Laws.RoundTrip.imin
  | imax => apply Laws.RoundTrip.imax
  | nmin => apply Laws.RoundTrip.nmin
  | nmax => apply Laws.RoundTrip.nmax
  | icmp => apply Laws.RoundTrip.icmp
  | sel => apply Laws.RoundTrip.sel
  | lea => apply Laws.RoundTrip.lea
  | fadd => apply Laws.RoundTrip.fadd
  | fsub => apply Laws.RoundTrip.fsub
  | fmul => apply Laws.RoundTrip.fmul
  | ffma => apply Laws.RoundTrip.ffma
  | fdiv => apply Laws.RoundTrip.fdiv
  | fsqrt => apply Laws.RoundTrip.fsqrt
  | fmin => apply Laws.RoundTrip.fmin
  | fmax => apply Laws.RoundTrip.fmax
  | fcmp => apply Laws.RoundTrip.fcmp
  | frnd => apply Laws.RoundTrip.frnd
  | fabs => apply Laws.RoundTrip.fabs
  | fneg => apply Laws.RoundTrip.fneg
  | log2 => apply Laws.RoundTrip.log2
  | exp2 => apply Laws.RoundTrip.exp2
  | rcp => apply Laws.RoundTrip.rcp
  | rsq => apply Laws.RoundTrip.rsq
  | sin => apply Laws.RoundTrip.sin
  | cos => apply Laws.RoundTrip.cos
  | cvt => apply Laws.RoundTrip.cvt
  | pack => apply Laws.RoundTrip.pack
  | unpk => apply Laws.RoundTrip.unpk
  | k8dec => apply Laws.RoundTrip.k8dec
  | hash => apply Laws.RoundTrip.hash
  | rndu => apply Laws.RoundTrip.rndu
  | jmp => apply Laws.RoundTrip.jmp
  | br => apply Laws.RoundTrip.br
  | call => apply Laws.RoundTrip.call
  | callr => apply Laws.RoundTrip.callr
  | ret => apply Laws.RoundTrip.ret
  | loopd => apply Laws.RoundTrip.loopd
  | exit => apply Laws.RoundTrip.exit
  | nop => apply Laws.RoundTrip.nop
  | ld => apply Laws.RoundTrip.ld
  | st => apply Laws.RoundTrip.st
  | ldt => apply Laws.RoundTrip.ldt
  | stt => apply Laws.RoundTrip.stt
  | hld => apply Laws.RoundTrip.hld
  | hst => apply Laws.RoundTrip.hst
  | alloc => apply Laws.RoundTrip.alloc
  | ldl => apply Laws.RoundTrip.ldl
  | trap => apply Laws.RoundTrip.trap
  | sysc => apply Laws.RoundTrip.sysc
  | hret => apply Laws.RoundTrip.hret
  | bkpt => apply Laws.RoundTrip.bkpt
  | mfs => apply Laws.RoundTrip.mfs
  | mts => apply Laws.RoundTrip.mts
  | snap => apply Laws.RoundTrip.snap
  | mand => apply Laws.RoundTrip.mand
  | mor => apply Laws.RoundTrip.mor
  | mxor => apply Laws.RoundTrip.mxor
  | mnot => apply Laws.RoundTrip.mnot
  | mpopc => apply Laws.RoundTrip.mpopc
  | mffs => apply Laws.RoundTrip.mffs
  | mset => apply Laws.RoundTrip.mset
  | mget => apply Laws.RoundTrip.mget
  | brd => apply Laws.RoundTrip.brd
  | vote => apply Laws.RoundTrip.vote
  | shfl => apply Laws.RoundTrip.shfl
  | lgather => apply Laws.RoundTrip.lgather
  | bcast => apply Laws.RoundTrip.bcast
  | redw => apply Laws.RoundTrip.redw
  | scanw => apply Laws.RoundTrip.scanw
  | topk => apply Laws.RoundTrip.topk
  | merge => apply Laws.RoundTrip.merge
  | sortw => apply Laws.RoundTrip.sortw
  | gbar => apply Laws.RoundTrip.gbar
  | spawn => apply Laws.RoundTrip.spawn
  | join => apply Laws.RoundTrip.join
  | jadd => apply Laws.RoundTrip.jadd
  | regs => apply Laws.RoundTrip.regs
  | launch => apply Laws.RoundTrip.launch
  | atom => apply Laws.RoundTrip.atom
  | cas => apply Laws.RoundTrip.cas
  | cas2 => apply Laws.RoundTrip.cas2
  | lda => apply Laws.RoundTrip.lda
  | stl => apply Laws.RoundTrip.stl
  | phase => apply Laws.RoundTrip.phase
  | cflush => apply Laws.RoundTrip.cflush
  | cinvl => apply Laws.RoundTrip.cinvl
  | pref => apply Laws.RoundTrip.pref
  | lds => apply Laws.RoundTrip.lds
  | sts => apply Laws.RoundTrip.sts
  | ldw => apply Laws.RoundTrip.ldw
  | stw => apply Laws.RoundTrip.stw
  | chbind => apply Laws.RoundTrip.chbind
  | enq => apply Laws.RoundTrip.enq
  | deq => apply Laws.RoundTrip.deq
  | sld => apply Laws.RoundTrip.sld
  | sst => apply Laws.RoundTrip.sst
  | sadd => apply Laws.RoundTrip.sadd
  | sxch => apply Laws.RoundTrip.sxch
  | scas => apply Laws.RoundTrip.scas
  | snext => apply Laws.RoundTrip.snext
  | sscan => apply Laws.RoundTrip.sscan
  | sstat => apply Laws.RoundTrip.sstat
  | cpy => apply Laws.RoundTrip.cpy
  | cpyg => apply Laws.RoundTrip.cpyg
  | cpym => apply Laws.RoundTrip.cpym
  | cpyd => apply Laws.RoundTrip.cpyd
  | cpys => apply Laws.RoundTrip.cpys
  | cpyx => apply Laws.RoundTrip.cpyx
  | gwait => apply Laws.RoundTrip.gwait
  | gtest => apply Laws.RoundTrip.gtest
  | garm => apply Laws.RoundTrip.garm
  | gdis => apply Laws.RoundTrip.gdis
  | cpyq => apply Laws.RoundTrip.cpyq
  | cpyqCancel => apply Laws.RoundTrip.cpyqCancel
  | tshape => apply Laws.RoundTrip.tshape
  | tld => apply Laws.RoundTrip.tld
  | tst => apply Laws.RoundTrip.tst
  | mma => apply Laws.RoundTrip.mma
  | sacc => apply Laws.RoundTrip.sacc
  | acq => apply Laws.RoundTrip.acq
  | rel => apply Laws.RoundTrip.rel
  | accout => apply Laws.RoundTrip.accout
  | accz => apply Laws.RoundTrip.accz
  | mfence => apply Laws.RoundTrip.mfence
  | mwait => apply Laws.RoundTrip.mwait
  | cbld => apply Laws.RoundTrip.cbld
  | sret => apply Laws.RoundTrip.sret
  | sretHost => apply Laws.RoundTrip.sretHost
  | pmap => apply Laws.RoundTrip.pmap
  | pmapAttr => apply Laws.RoundTrip.pmapAttr
  | pmapUnmap => apply Laws.RoundTrip.pmapUnmap
  | pinv => apply Laws.RoundTrip.pinv
  | pinvAll => apply Laws.RoundTrip.pinvAll
  | pmigStart => apply Laws.RoundTrip.pmigStart
  | pmigStat => apply Laws.RoundTrip.pmigStat
  | icinvLine => apply Laws.RoundTrip.icinvLine
  | icinvPage => apply Laws.RoundTrip.icinvPage
  | icinvAsid => apply Laws.RoundTrip.icinvAsid
  | rdctlShb => apply Laws.RoundTrip.rdctlShb
  | rdctlItab => apply Laws.RoundTrip.rdctlItab
  | rdctlRbase => apply Laws.RoundTrip.rdctlRbase
  | rdctlRsize => apply Laws.RoundTrip.rdctlRsize
  | rdctlCtl => apply Laws.RoundTrip.rdctlCtl
  | rdctlRhead => apply Laws.RoundTrip.rdctlRhead
  | rdctlRtail => apply Laws.RoundTrip.rdctlRtail
  | rdctlRdrop => apply Laws.RoundTrip.rdctlRdrop
  | sdeclCreate => apply Laws.RoundTrip.sdeclCreate
  | sdeclGrow => apply Laws.RoundTrip.sdeclGrow
  | sdeclRetire => apply Laws.RoundTrip.sdeclRetire
  | gtblSpill => apply Laws.RoundTrip.gtblSpill
  | gtblCont => apply Laws.RoundTrip.gtblCont
  | rep => apply Laws.RoundTrip.rep
  | _ => exact fun h => by cases h

/-! ### The literal word -/

/-- Fields that name no literal word have none. -/
def Raw.LitOnlyIfUsed (r : Raw) : Prop := r.lx ≠ 1#1 → r.lit = 0#64

theorem lxOf_eq_one_or_litOf_eq_zero : ∀ l : List Src, lxOf l = 1#1 ∨ litOf l = 0#64
  | [] => .inr rfl
  | s :: l => by
    cases h : s.isLit
    · simpa [lxOf, litOf, h] using lxOf_eq_one_or_litOf_eq_zero l
    · simp [lxOf, h]

theorem mkRaw_litOnlyIfUsed (op : Nat) (g : Guard) (d a b c : BitVec 11) (md : Nat) (l : List Src) :
    (mkRaw op g d a b c md l).LitOnlyIfUsed :=
  (lxOf_eq_one_or_litOf_eq_zero l).resolve_left

theorem toRaw_litOnlyIfUsed (i : Instr) : (toRaw i).LitOnlyIfUsed := by
  cases i with
  | brd | cpym => exact fun h => absurd rfl h
  | unassignedOpcode => exact fun _ => rfl
  | _ => apply mkRaw_litOnlyIfUsed

/-! ### Bytes -/

@[simp] theorem length_bytesOfWord (w : Word) : (bytesOfWord w).length = 8 := rfl

@[simp] theorem take_bytesOfWord (w : Word) (l : List Byte) : (bytesOfWord w ++ l).take 8 = bytesOfWord w := rfl

@[simp] theorem drop_bytesOfWord (w : Word) (l : List Byte) : (bytesOfWord w ++ l).drop 8 = l := rfl

/-- LX is bit 0 of the word. -/
theorem Raw.lx_toWord (r : Raw) : r.toWord.extractLsb' 0 1 = r.lx := congrArg Raw.lx r.ofWord_toWord

theorem decode_short {w : Word} {rest : List Byte} (h : w.extractLsb' 0 1 ≠ 1#1) :
    decode (bytesOfWord w ++ rest) = (decodeWord w 0#64).map (·, rest) := by
  have hl : ¬(bytesOfWord w ++ rest).length < 8 := by
    rw [List.length_append, length_bytesOfWord]
    omega
  simp only [decode, take_bytesOfWord, drop_bytesOfWord, wordOfBytes_bytesOfWord, h, hl, if_false]
  cases decodeWord w 0#64 <;> rfl

theorem decode_long {w lit : Word} {rest : List Byte} (h : w.extractLsb' 0 1 = 1#1) :
    decode (bytesOfWord w ++ (bytesOfWord lit ++ rest)) = (decodeWord w lit).map (·, rest) := by
  have hd : (bytesOfWord w ++ (bytesOfWord lit ++ rest)).drop 16 = rest := rfl
  have hl : ¬(bytesOfWord w ++ (bytesOfWord lit ++ rest)).length < 16 := by
    rw [List.length_append, List.length_append, length_bytesOfWord, length_bytesOfWord]
    omega
  have hl8 : ¬(bytesOfWord w ++ (bytesOfWord lit ++ rest)).length < 8 := fun h8 => hl (Nat.lt_trans h8 (by decide))
  simp only [decode, take_bytesOfWord, drop_bytesOfWord, wordOfBytes_bytesOfWord, h, hd, hl, hl8, if_false, if_true]
  cases decodeWord w lit <;> rfl

/-- The word of an instruction's fields, with their literal, decodes to it. -/
theorem decodeWord_toRaw {i : Instr} (hi : i.isWord = true) (h : i.wf = true) :
    decodeWord (toRaw i).toWord (toRaw i).lit = .ok i := by
  rw [decodeWord, Raw.ofWord_toWord]
  exact decodeRaw_toRaw i hi h

/-- Settles O59: the encoder's fields read back (`decodeRaw_toRaw`), and the bytes give the fields. -/
theorem decodeInvertsEncode : Obligations.DecodeInvertsEncode := by
  intro i rest hi hwf
  have hw := decodeWord_toRaw hi hwf
  by_cases h : (toRaw i).lx = 1#1
  · have he : encodeBytes i = bytesOfWord (toRaw i).toWord ++ bytesOfWord (toRaw i).lit := by
      simp [encodeBytes, encode, h]
    rw [he, List.append_assoc, decode_long ((Raw.lx_toWord _).trans h), hw]
    rfl
  · have he : encodeBytes i = bytesOfWord (toRaw i).toWord := by simp [encodeBytes, encode, h]
    rw [toRaw_litOnlyIfUsed i h] at hw
    rw [he, decode_short (by rwa [Raw.lx_toWord]), hw]
    rfl

/-- Settles O60. -/
theorem writtenWordsDecode : Obligations.WrittenWordsDecode := by
  unfold Obligations.WrittenWordsDecode
  decide +kernel

end Sys2Proof
end

section
/-! SUPPORT. Accesses that nothing stands in the way of (R166, R279, R280, R495-R511): what the checks, a read and a
write answer where `open_` and `reach` say so. -/

namespace Sys2Proof.Machine

@[simp] theorem Res.ok_bind {α β : Type} (s : State) (x : α) (f : State → α → Res β) : (Res.ok s x).bind f = f s x := rfl

@[simp] theorem Res.ok_map {α β : Type} (s : State) (x : α) (f : α → β) : (Res.ok s x).map f = .ok s (f x) := rfl

@[simp] theorem Res.ok_at {α : Type} (s : State) (x : α) (a : Nat) : (Res.ok s x).at a = .ok s x := rfl

@[simp] theorem Warp.who_fw (w : Warp) : w.who.fw = false := rfl

section
variable {s : State} {who : Who} {a : Nat}

theorem waysWait_eq_false {l : List Nat} (h : (l.any fun x => s.hub.linkDown.contains x) = false) :
    waysWait s l = false := by
  simp only [waysWait, List.any_eq_false, List.contains_iff_mem] at *
  exact fun x hx hl => h x hl hx

/-- What stands open: no migration names the frame, and its line has no error. -/
theorem open_noMigration (h : open_ s who a = true) : migOf s a = none := by
  simp only [open_, Bool.and_eq_true, Option.isNone_iff_eq_none] at h
  exact h.1.1.1

theorem open_notBad (h : open_ s who a = true) : lineOf a ∉ s.bad := by
  simp only [open_, Bool.and_eq_true, Bool.not_eq_true', List.contains_eq_mem, decide_eq_false_iff_not] at h
  exact h.1.1.2

theorem open_notSoft (h : open_ s who a = true) : lineOf a ∉ s.soft := by
  simp only [open_, Bool.and_eq_true, Bool.not_eq_true', List.contains_eq_mem, decide_eq_false_iff_not] at h
  exact h.1.2

theorem migResolve_open (h : open_ s who a = true) (det : Nat) : migResolve s who det a = .ok s a := by
  simp [migResolve, open_noMigration h]

/-- An access is carried out at the address itself. -/
theorem homeOf_open (h : open_ s who a = true) (det : Nat) : homeOf s who det a = .ok s a := by
  have hm := migResolve_open h det
  simp only [open_, Bool.and_eq_true] at h
  obtain ⟨-, h⟩ := h
  unfold homeOf
  by_cases hd : domDev a = s.dev
  · simp only [hd, if_true, Bool.and_eq_true, Bool.not_eq_true'] at h
    obtain ⟨hway, hheld⟩ := h
    simp only [List.contains_eq_mem, decide_eq_false_iff_not] at hheld
    simp [hd, waysWait_eq_false hway, hm, hheld]
  · simp only [hd, if_false, Bool.and_eq_true, Bool.not_eq_true'] at h
    obtain ⟨⟨hdev, hlapsed⟩, hway⟩ := h
    simp only [List.contains_eq_mem, decide_eq_false_iff_not] at hlapsed
    simp [hd, deviceWay, hdev, hlapsed, waysWait_eq_false hway, hm]

theorem noteSoft_open (h : open_ s who a = true) : noteSoft s a = s := by
  simp [noteSoft, open_notSoft h]

theorem physLoad_open (h : open_ s who a = true) (hf : who.fw = false) (det n : Nat) :
    physLoad s who det a n = .ok s (memLoad s.mem a n) := by
  simp [physLoad, fwBars, hf, homeOf_open h, noteSoft_open h, open_notBad h]

theorem physLoadW_open (h : open_ s who a = true) (hf : who.fw = false) (det : Nat) :
    physLoadW s who det a = .ok s (memWord s.mem a) := by
  simp [physLoadW, fwBars, hf, homeOf_open h, noteSoft_open h, open_notBad h]

/-! ### Translations -/

variable {k : AKind} {va n : Nat} {p : Tr}

/-- What `reach` says of the access it grants. -/
theorem reach_eq_some (h : reach s who k va n = some p) : ∃ e, tlbFind s who va = some e ∧
    p = trOf va e.pte.toNat e.size ∧ va < 2 ^ 56 ∧ va % n = 0 ∧ (k.writes = true → pteW p.pte = true ∧ pteD p.pte = true) ∧
    dramOk (domPa p.da) = true ∧ permOk k who.sup p.pte = true ∧ k.classOk (pteCls p.pte) = true ∧ open_ s who p.da = true := by
  unfold reach at h
  split at h
  · rename_i e he
    simp only [Option.ite_none_right_eq_some, Option.some.injEq] at h
    obtain ⟨⟨h1, h2, h3, h4, h5, h6, h7⟩, rfl⟩ := h
    exact ⟨e, he, rfl, h1, h2, h3, h4, h5, h6, h7⟩
  · cases h

theorem reach_open (h : reach s who k va n = some p) : open_ s who p.da = true := by
  obtain ⟨e, he, rfl, h1, h2, h3, h4, h5, h6, h7⟩ := reach_eq_some h
  exact h7

/-- The checks of R166 pass with the translation that `reach` gives. -/
theorem checkVa_reach (h : reach s who k va n = some p) : checkVa s who k va n = .ok s p := by
  obtain ⟨e, he, rfl, h1, h2, h3, h4, h5, h6, -⟩ := reach_eq_some h
  have ht : translate s who va k.writes = .ok s (trOf va e.pte.toNat e.size) := by
    have hw : (!k.writes || (pteW e.pte.toNat && pteD e.pte.toNat)) = true := by
      cases hk : k.writes
      · rfl
      · simpa [hk, trOf] using h3 hk
    simp [translate, he, hw, trOk, h4]
  have hva : ¬ va ≥ 2 ^ 56 := Nat.not_le.mpr h1
  rw [checkVa, if_neg hva]
  simp [ht, h5, h6, h2]

/-- A frame begins at a multiple of 64 KiB. -/
theorem pteFrame_mod (p : Nat) : pteFrame p % 65536 = 0 := by
  unfold pteFrame; omega

end

/-! ### Words as bytes -/

theorem sum_map_mul_left_nat {α : Type} (c : Nat) (f : α → Nat) : ∀ l : List α, (l.map fun x => c * f x).sum = c * (l.map f).sum
  | [] => rfl
  | x :: l => by
    rw [List.map_cons, List.sum_cons, List.map_cons, List.sum_cons, sum_map_mul_left_nat c f l, Nat.mul_add]

/-- Little-endian (R61). -/
theorem cellsGet_eq_sum (l : List Host.Cell) : ∀ (n a : Nat),
    cellsGet l a n = ((List.range n).map fun k => (spGet 0#8 l (a + k)).toNat * 256 ^ k).sum
  | 0, _ => rfl
  | n + 1, a => by
    have hbyte : ∀ k, (spGet 0#8 l (a + (k + 1))).toNat * 256 ^ (k + 1) =
        256 * ((spGet 0#8 l (a + 1 + k)).toNat * 256 ^ k) := fun k => by
      rw [Nat.pow_succ, Nat.add_comm k 1, ← Nat.add_assoc, ← Nat.mul_assoc, Nat.mul_comm]
    rw [cellsGet, cellsGet_eq_sum l n (a + 1), List.range_succ_eq_map, List.map_cons, List.sum_cons, List.map_map,
      ← sum_map_mul_left_nat]
    simp only [Function.comp_def, Nat.succ_eq_add_one, hbyte, Nat.add_zero, Nat.pow_zero, Nat.mul_one]

theorem memLoad_eq_sum (m : Memory) (a n : Nat) :
    memLoad m a n = ((List.range n).map fun k => (memByte m (a + k)).toNat * 256 ^ k).sum :=
  cellsGet_eq_sum m.bytes n a

end Sys2Proof.Machine
end

section
/-! PROOF. Fetching (R61, R85 check 1, R489). -/

namespace Sys2Proof.Machine

/-- The words of a line that stands open. -/
theorem lineWords_open {s : State} {who : Who} (hf : who.fw = false) : ∀ (n a : Nat),
    (∀ k, k < n → open_ s who (a + 8 * k) = true) →
      lineWords s who a n = .ok s ((List.range n).map fun k => wordN (memLoad s.mem (a + 8 * k) 8))
  | 0, _, _ => rfl
  | n + 1, a, h => by
    have h' : ∀ k, k < n → open_ s who (a + 8 + 8 * k) = true := fun k hk => by
      have := h (k + 1) (by omega)
      rwa [show a + 8 * (k + 1) = a + 8 + 8 * k by omega] at this
    have h0 := physLoad_open (h 0 (by omega)) hf 1 8
    simp only [Nat.mul_zero, Nat.add_zero] at h0
    simp [lineWords, h0, lineWords_open hf n (a + 8) h', List.range_succ_eq_map, Function.comp_def, Nat.mul_add,
      Nat.add_assoc, Nat.add_comm 8]

/-- The cluster fills a line it does not hold from memory. -/
theorem clusterLine_open {s : State} {w : Warp} {da : Nat}
    (hc : ∀ l ∈ (getCluster s (clusterOf w.pos)).icache, l.dom ≠ da / 64)
    (ho : ∀ k, k < 8 → open_ s w.who (da / 64 * 64 + 8 * k) = true) :
    ∃ t, clusterLine s w da = .ok t ((List.range 8).map fun k => wordN (memLoad s.mem (da / 64 * 64 + 8 * k) 8)) := by
  have hfind : ((getCluster s (clusterOf w.pos)).icache.find? fun l => l.dom == lineOf da) = none := by
    simpa [lineOf] using hc
  simp only [clusterLine, hfind, lineWords_open w.who_fw 8 _ ho, Res.ok_bind]
  exact ⟨_, rfl⟩

/-- Settles O57: the line is filled from memory, and the word is that of its place in the line. -/
theorem fetchReadsLittleEndianWords : Obligations.FetchReadsLittleEndianWords := by
  intro s w va p hi hr hsz hpos hc ho
  obtain ⟨t, ht⟩ := clusterLine_open hc ho
  have hplace : p.da / 64 * 64 + 8 * (va / 8 % 8) = p.da := by
    obtain ⟨e, -, rfl, -, h8, -⟩ := reach_eq_some hr
    obtain ⟨c, hc⟩ := hsz
    have hm : va % (trOf va e.pte.toNat e.size).size % 65536 = va % 65536 := by rw [hc, Nat.mod_mul_right_mod]
    have hf := pteFrame_mod e.pte.toNat
    simp only [trOf] at hm ⊢
    omega
  have hword : ((List.range 8).map fun k => wordN (memLoad s.mem (p.da / 64 * 64 + 8 * k) 8)).getD (va / 8 % 8) 0#64 =
      wordN (memLoad s.mem p.da 8) := by
    have hlt : va / 8 % 8 < 8 := Nat.mod_lt _ (by omega)
    simp [List.getD_eq_getElem?_getD, List.getElem?_range hlt, hplace]
  simp only [fetchWord, hi, checkVa_reach hr, Res.ok_bind, ht, Res.ok_at, hword]
  exact ⟨_, rfl, memLoad_eq_sum s.mem p.da 8⟩

end Sys2Proof.Machine
end

section
/-! PROOF. The repeat prefix, the unassigned opcodes and the step that runs a fetched instruction (R61, R77-R87, R202). -/

namespace Sys2Proof.Machine

/-! ### The issuer and its fault -/

theorem findWarp_uid {s : State} {u : Nat} {w : Warp} (h : findWarp s u = some w) : w.uid = u := by
  simpa using List.find?_some h

theorem issuer_eq_some {s : State} {w : Warp} (h : s.issuer = some w) :
    findWarp s s.cur = some w ∧ w.isResident = true := by
  unfold State.issuer at h
  split at h
  · rename_i x hx
    simp only [Option.ite_none_right_eq_some, Option.some.injEq] at h
    exact ⟨h.2 ▸ hx, h.2 ▸ h.1⟩
  · cases h

theorem findWarp_issuer {s : State} {w : Warp} (h : s.issuer = some w) : findWarp s w.uid = some w := by
  have hc := (issuer_eq_some h).1
  rwa [findWarp_uid hc]

theorem fvaAll_zero (m : Mask) : fvaAll m 0 = lanes.map fun _ => 0#64 := by
  simp [fvaAll, wordN]

/-- A fault of the whole word, without an address, is the report of the statements. -/
theorem faultAll_flt (s : State) (w : Warp) (c : FClass) (det : Nat) (m : Mask) (size : Nat) :
    faultAll s w (flt c det) m size = takeFault s w.uid (atOnce w c det m size) := by
  simp [faultAll, wholeReport, atOnce, flt, fvaAll_zero, replayPopped_eq, replayPart_eq]

/-! ### The handler's entry (R447; log 33) -/

/-- Every link is trained. -/
def linksUp (s : State) : State := { s with hub := { s.hub with linkDown := [] } }

/-- An access that meets nothing to wait for once the links are trained leaves the state as it is. -/
theorem atHand_ok {α : Type} {s : State} {f : State → Res α} {x : α} (h : f (linksUp s) = .ok (linksUp s) x) :
    atHand s f = .ok s x := by
  have hgo : ∀ n, atHandGo f n (linksUp s) = .ok (linksUp s) x
    | 0 => h
    | n + 1 => by simp [atHandGo, h]
  simp only [linksUp] at hgo
  simp [atHand, hgo]

theorem open_linksUp {s : State} {who : Who} {a : Nat} (h : open_ s who a = true) : open_ (linksUp s) who a = true := by
  simp only [open_, Bool.and_eq_true] at h ⊢
  obtain ⟨⟨⟨hm, hb⟩, hs⟩, h⟩ := h
  refine ⟨⟨⟨hm, hb⟩, hs⟩, ?_⟩
  have hd : (linksUp s).dev = s.dev := rfl
  by_cases hdev : domDev a = s.dev
  · simp only [hd, hdev, if_true, Bool.and_eq_true] at h ⊢
    exact ⟨by simp [linksUp], h.2⟩
  · simp only [hd, hdev, if_false, Bool.and_eq_true] at h ⊢
    exact ⟨h.1, by simp [linksUp]⟩

theorem reach_linksUp {s : State} {who : Who} {k : AKind} {va n : Nat} {p : Tr} (h : reach s who k va n = some p) :
    reach (linksUp s) who k va n = some p := by
  obtain ⟨e, he, rfl, h1, h2, h3, h4, h5, h6, h7⟩ := reach_eq_some h
  have he' : tlbFind (linksUp s) who va = some e := he
  simp only [reach, he']
  exact if_pos ⟨h1, h2, h3, h4, h5, h6, open_linksUp h7⟩

/-- A word read as LD reads it. -/
theorem readVal_open {s : State} {who : Who} {p : Tr} {v : Val} (ho : open_ s who p.da = true) (hf : who.fw = false)
    (hv : valueAt s p = some v) (det va : Nat) : readVal s who det va p = .ok s v := by
  unfold valueAt at hv
  simp only [readVal, physLoadW_open ho hf, Res.ok_bind, memWord, valOfCode]
  split at hv
  · rename_i hc
    cases hv
    simp [hc]
  · rename_i hc
    simp [hc, hv]

theorem loadVal_reach {s : State} {who : Who} {va : Nat} {p : Tr} {v : Val} (h : reach s who .load va 8 = some p)
    (hf : who.fw = false) (hv : valueAt s p = some v) : loadVal s who va = .ok s v := by
  simp [loadVal, checkVa_reach h, readVal_open (reach_open h) hf hv]

/-- The handler that the statements name is the one the fault enters. -/
theorem supTarget_handlerOf {s : State} {w : Warp} {c : FClass} {pc : Addr} (h : handlerOf s w c = some pc) :
    w.sup = false ∧ supTarget s w c.code = (s, .inl pc) := by
  unfold handlerOf at h
  simp only [Option.ite_none_left_eq_some, not_or, Bool.not_eq_true, Option.bind_eq_some_iff,
    Option.ite_none_right_eq_some, Option.some.injEq] at h
  obtain ⟨⟨hsup, hbase⟩, p, hp, v, hv, htag, rfl⟩ := h
  have hl := atHand_ok (s := s) (f := fun t => loadVal t w.who ((getCtx s w.asid).svtb.toNat + 8 * c.code))
    (loadVal_reach (reach_linksUp hp) w.who_fw hv)
  exact ⟨hsup, by simp [supTarget, hbase, hl, htag]⟩

/-- A fault whose handler stands, and that neither a debugger nor the Blotter watches, enters it. -/
theorem takeFault_atHandler {s t : State} {w : Warp} {p : Report} (hw : findWarp s w.uid = some w)
    (hc : p.cls ≠ .instruction) (h : atHandler s w p = some t) : takeFault s w.uid p = t := by
  simp only [atHandler, Option.ite_none_right_eq_some, Option.map_eq_some_iff] at h
  obtain ⟨hb, pc, hpc, rfl⟩ := h
  obtain ⟨hsup, ht⟩ := supTarget_handlerOf hpc
  have hblot : blotFault s w.asid w.wnum p.cls.code = s := by
    simp only [unblotted, Bool.not_eq_true'] at hb
    simp only [blotFault, hb, Bool.false_eq_true, if_false]
  simp [takeFault, hw, hc, enterSup, hblot, hsup, ht]

/-! ### Words of their own kind (R77-R82, R87) -/

/-- Settles O26: the fault of check 2 enters the handler. -/
theorem unassignedOpcodeFaults : Obligations.UnassignedOpcodeFaults := by
  intro s t w x hi ht
  have hw := findWarp_issuer hi.issuer
  have hf := takeFault_atHandler hw (p := atOnce w .undefinedInstr 0 w.em (wordSize x)) (by simp [atOnce]) ht
  rw [exec_unassignedOpcode, execUnassignedOpcode, hi.issuer]
  simp [hi.issued, faultAll_flt, hf]

/-- Settles O25. -/
theorem repeatPrefixBeginsSequence : Obligations.RepeatPrefixBeginsSequence := by
  intro s t w n ds as bs cs x lit hi ⟨hfetch, hok, hrange⟩
  have hfits : (repLanes w x lit != 0#32 && !repRangeOk w (Raw.ofWord x lit) (repSteps ds as bs cs) (n.toNat + 1)) = false := by
    by_cases hl : repLanes w x lit = 0#32
    · simp [hl]
    · simp [hrange hl, repSteps]
  have hb : repBegin s w (n.toNat + 1) (repSteps ds as bs cs) = repeating t w (n.toNat + 1) := by
    unfold repLanes at hfits
    simp only [repBegin, hfetch, repSteps, hok, Bool.not_true, Bool.false_eq_true, if_false]
    simp only [repSteps] at hfits
    simp only [hfits, Bool.false_eq_true, if_false]
    rfl
  rw [exec_rep, execRep, hi.issuer]
  simp [hi.issued, hb]

/-! ### The turn of a warp that goes straight (R85, R194, R202, R203, R449, R474) -/

/-- A fetched pair has a literal only where its LX bit is set (R61). -/
theorem fetchPair_lit {s t : State} {w : Warp} {va : Nat} {x lit : Word} (h : fetchPair s w va = .ok t (x, lit))
    (hx : x.getLsbD 0 = false) : lit = 0#64 := by
  unfold fetchPair at h
  cases hf : fetchWord s w va with
  | ok s1 y =>
    rw [hf, Res.ok_bind] at h
    split at h
    · rename_i hy
      cases hl : fetchWord s1 w ((va + 8) % 2 ^ 56) with
      | ok s2 l =>
        rw [hl, Res.ok_map] at h
        cases h
        exact absurd hx (by simp [hy])
      | bad => rw [hl] at h; cases h
      | hold => rw [hl] at h; cases h
    · cases h; rfl
  | bad => rw [hf] at h; cases h
  | hold => rw [hf] at h; cases h

/-- The fetched words decode as their bytes do. -/
theorem decodeWord_of_decode {x lit : Word} {i : Instr} {rest : List Byte} (hl : x.getLsbD 0 = false → lit = 0#64)
    (h : decode (bytesOfWord x ++ bytesOfWord lit) = .ok (i, rest)) : decodeWord x lit = .ok i := by
  have hbit : x.extractLsb' 0 1 = 1#1 ↔ x.getLsbD 0 = true := by
    constructor
    · intro h
      simpa using congrArg (BitVec.getLsbD · 0) h
    · intro h
      ext k hk
      obtain rfl : k = 0 := by omega
      simpa using h
  have hmap : ∀ {r : Except DecodeError Instr} {l : List Byte}, r.map (·, l) = .ok (i, rest) → r = .ok i := by
    intro r l h
    cases r with
    | error e => cases h
    | ok j => cases h; rfl
  by_cases hx : x.getLsbD 0 = true
  · have := decode_long (rest := []) (hbit.mpr hx) (lit := lit)
    rw [List.append_nil] at this
    exact hmap (this ▸ h)
  · rw [hl (by simpa using hx)] at h ⊢
    rw [decode_short (mt hbit.mp hx)] at h
    exact hmap h

/-- The warp stands at its word: nothing to reload, no path to take up. -/
theorem atWord_straight {s : State} {w : Warp} (hstack : w.stack ≠ [] ∨ w.spill = []) (hem : w.em ≠ 0#32)
    (ha : arrive s w = w) : atWord s w = (w, true) := by
  have hr : refillWarp s w = (w, true) := by
    unfold refillWarp
    rcases hstack with h | h
    · simp [h]
    · rcases w with ⟨⟩
      simp_all [refillGo]
  simp [atWord, hr, hem, ha]

/-- With no sparse operation in flight nothing comes before the warp's turn. -/
theorem sparseTurn_noSparse {s : State} {w : Warp} (h : w.sparse = []) : sparseTurn s w = none := by
  simp [sparseTurn, spBack, Warp.inFlight, h]

/-- The turn of a warp that goes straight to its word is the fetch of the word. -/
theorem turn_straight {s : State} {w : Warp} (h : GoesStraight s w) :
    turn s = fetchTurn (putWarp (beforeTurn s) w) w := by
  obtain ⟨⟨p, q, l, hag, hpick⟩, ⟨hstop, hreset⟩, hdue, hsp, ⟨hst, hre, hspill⟩, hem, harr, hrep, hbr⟩ := h
  have hb : beforeTurn s = { beginTurn s with agenda := l } := by simp [beforeTurn, hag]
  have hstill : standsStill (beforeTurn s) = false := by simp [standsStill, hstop, hreset]
  have hw : { w with refillErr := false } = w := by rw [← hre]
  have hturn : turn s = issueTurn (beforeTurn s) w := by
    simp only [turn, hag, ← hb, hstill, hpick, Bool.false_eq_true, if_false]
  have hflight : (!w.inFlight) = true := by simp [Warp.inFlight, hsp]
  rw [hturn]
  simp only [issueTurn, sparseTurn_noSparse hsp, hdue, hspill, atWord_straight hst hem harr, hre, Bool.not_true,
    Bool.false_and, hw, unlessSparse, hflight, if_true, Bool.false_eq_true, if_false, wordTurn, hbr, Option.isSome_none]

/-- Settles O58. -/
theorem stepRunsDecodedInstruction : Obligations.StepRunsDecodedInstruction := by
  intro s t w x lit i rest hgo hfetch hdec hrep
  have hword := decodeWord_of_decode (fetchPair_lit hfetch) hdec
  have hnext : fetchNext { takesTurn (putWarp (beforeTurn s) w) w 1 with suppUsed := false } w = (t, .run i) := by
    simp [fetchNext, hfetch, hgo.noRepeat, hword]
  have hturn : turn s = (updWarp { t with uncounted := issueCycles t w i, suppUsed := w.supp } w.uid fun w =>
      { w with supp := false }, some i) := by
    rw [turn_straight hgo]
    simp only [fetchTurn, hnext]
  have hafter : ∀ t, afterPrefix t i = (t, none) := by
    intro t
    cases i with
    | rep n a b c d => exact absurd rfl (hrep n a b c d)
    | _ => rfl
  rw [step, hturn]
  simp only [hafter]
  split <;> simp_all

end Sys2Proof.Machine
end

section
/-! PROOF. The supervisor's instructions at the user level (R85, R86). -/

namespace Sys2Proof.Machine

/-- Check 3 of R85: a privileged word at CPL.SUP = 0, guarded off or not. -/
theorem issue_atUserLevel {s : State} {w : Warp} {i : Ins} (hw : AtWord s w i) (hskip : skipped w = false)
    (hp : i.priv = true) (hs : w.sup = false) (k : State → Ready → State) :
    issue s i k = .next (takeFault s w.uid (atOnce w .instruction 0 w.em i.size)) := by
  simp [issue, hw.issuer, hw.arrived, hw.defined, hp, hs, hskip, faultAll_flt]

/-- The supervisor's instructions are privileged, and go through the checks of R85 as their table says. -/
theorem privSpec_issues {s : State} {i : Instr} {e : Effect} (h : privSpec s i = some e) :
    e.ins.priv = true ∧ ∃ k, exec i s = issue s e.ins k := by
  cases i with
  | sret | sretHost =>
    cases h
    refine ⟨rfl, ?_⟩
    simp only [exec_sret, exec_sretHost, execSret, execSretHost]
    exact ⟨_, rfl⟩
  | pmap | pmapAttr | pmapUnmap =>
    cases h
    refine ⟨rfl, ?_⟩
    simp only [exec_pmap, exec_pmapAttr, exec_pmapUnmap, execPmap, execPmapAttr, execPmapUnmap, pmapLanes, stateIns]
    exact ⟨_, rfl⟩
  | pinv | pinvAll =>
    cases h
    refine ⟨rfl, ?_⟩
    simp only [exec_pinv, exec_pinvAll, execPinv, execPinvAll]
    exact ⟨_, rfl⟩
  | pmigStart | pmigStat =>
    cases h
    refine ⟨rfl, ?_⟩
    simp only [exec_pmigStart, exec_pmigStat, execPmigStart, execPmigStat, onceIns]
    exact ⟨_, rfl⟩
  | icinvLine | icinvPage | icinvAsid =>
    cases h
    refine ⟨rfl, ?_⟩
    simp only [exec_icinvLine, exec_icinvPage, exec_icinvAsid, execIcinvLine, execIcinvPage, execIcinvAsid, icinvRange]
    exact ⟨_, rfl⟩
  | rdctlShb | rdctlItab | rdctlRbase | rdctlRsize =>
    cases h
    refine ⟨rfl, ?_⟩
    simp only [exec_rdctlShb, exec_rdctlItab, exec_rdctlRbase, exec_rdctlRsize, execRdctlShb, execRdctlItab,
      execRdctlRbase, execRdctlRsize, rdctl, onceIns]
    exact ⟨_, rfl⟩
  | rdctlCtl | rdctlRhead | rdctlRtail | rdctlRdrop =>
    cases h
    refine ⟨rfl, ?_⟩
    simp only [exec_rdctlCtl, exec_rdctlRhead, exec_rdctlRtail, exec_rdctlRdrop, execRdctlCtl, execRdctlRhead,
      execRdctlRtail, execRdctlRdrop, rdctl, onceIns]
    exact ⟨_, rfl⟩
  | sdeclCreate | sdeclGrow | sdeclRetire =>
    cases h
    refine ⟨rfl, ?_⟩
    simp only [exec_sdeclCreate, exec_sdeclGrow, exec_sdeclRetire, execSdeclCreate, execSdeclGrow, execSdeclRetire,
      stateIns]
    exact ⟨_, rfl⟩
  | gtblSpill | gtblCont =>
    cases h
    refine ⟨rfl, ?_⟩
    simp only [exec_gtblSpill, exec_gtblCont, execGtblSpill, execGtblCont, stateIns]
    exact ⟨_, rfl⟩
  | _ => cases h

/-- Settles O32. -/
theorem privilegedInstructionsTrapAtUserLevel : Obligations.PrivilegedInstructionsTrapAtUserLevel := by
  intro s w i e he hi hw hs
  obtain ⟨hp, k, hk⟩ := privSpec_issues he
  rw [hk, issue_atUserLevel hw hi.issued hp hs]

end Sys2Proof.Machine
end

section
/-! PROOF. Two statements that fail, each with the state that refutes it. -/

namespace Sys2Proof.Machine

/-- The places among the latches that the warps' sparse operations in flight still have to fill (R72, R363). -/
def sparseLatches (s : State) : List (List (Option Nat)) := s.warps.map fun w => w.sparse.map fun p => p.wait.latch

/-- Where the warps stand. -/
def programCounters (s : State) : List Addr := s.warps.map Warp.pc

/-- Of the state that an instruction leaves. -/
def seen {α : Type} (f : State → α) : Host.Outcome State Fault Refusal → Option α
  | .next t => some (f t)
  | _ => none

/-! ### A guarded-off instruction behind a sparse operation (R72, R76, R363) -/

/-- A sparse load in flight, whose latch entry is the newest. -/
def sparseLoad : SpPend where
  id := 0
  pc := 0#56
  lanes := 1#32
  dsts := []
  pushes := true
  size := 8
  vec := true
  rows := false
  left := 1
  res := []
  faults := []
  popped := []
  wait := ⟨[], some 0⟩
  block := false
  ops := []
  back := []

/-- The warp that waits for it, with lane 0 in EM and no lane in m1. -/
def sparseWarp : Warp := { newWarp 1 1 0 0 0 0#56 1#32 16 with status := .resident, sparse := [sparseLoad] }

def sparseState : State := { State.reset with warps := [sparseWarp], cur := 1 }

/-- An addition under m1. -/
def guardedAdd : Instr := .iadd ⟨1#3, false⟩ .wrap (.reg (.v 9#8)) (.reg (.v 1#8)) (.reg (.v 2#8))

def guardedAddIns : Ins := insOf ⟨1#3, false⟩ (.reg (.v 9#8)) [.reg (.v 1#8), .reg (.v 2#8)]

theorem guardedAdd_atWord : AtWord sparseState sparseWarp guardedAddIns where
  issuer := rfl
  arrived := rfl
  defined := rfl
  noRound := ⟨rfl, rfl⟩

/-- The push of the guarded-off addition takes the entry of the load one place further down. -/
theorem guardedAdd_agesSparse : seen sparseLatches (exec guardedAdd sparseState) = some [[some 1]] := by decide +kernel

/-- Refutes O33: `passedOver` moves the entries that outstanding loads will fill (R72), but not those of sparse
operations in flight; R363's wait in the latch history in the same way, and the push moves them too. -/
theorem not_guardedOffInstructionsPass : ¬ Obligations.GuardedOffInstructionsPass := by
  intro h
  have hexec := h sparseState sparseWarp guardedAdd guardedAddIns rfl guardedAdd_atWord rfl (by decide +kernel) (fun hp => by cases hp)
  have hpassed : sparseLatches (passedOver sparseState sparseWarp guardedAddIns) = [[some 0]] := by decide +kernel
  have hages := guardedAdd_agesSparse
  rw [hexec, seen, hpassed] at hages
  cases hages

/-! ### Two words across a line (R335, R511) -/

/-- The warp that compares and swaps the two words at address 128. -/
def swapWarp : Warp :=
  { newWarp 1 1 0 0 0 0#56 1#32 16 with
    status := .resident, sreg := setAt (List.replicate 64 vNil) 1 ⟨.int, 128#64⟩ }

/-- Its translation buffer holds an entry of 72 bytes, a size that no page has: address 128 lies 56 bytes behind the frame's
start. The host holds the line that the second word is in. -/
def swapState : State :=
  { State.reset with
    warps := [swapWarp], cur := 1
    clusters := [{ Cluster.fresh (0, 0, 0) with tlb := [⟨1, 64, 72, 0x10003A3#64⟩] }]
    hub := { State.reset.hub with hostLines := [0x40001] } }

def swap : Instr := .cas2 ⟨0#3, false⟩ .none (.s 2#6) ⟨.reg (.s 1#6), 0#4, 0#9⟩

def swapEffect : Effect := ((storing swapState swap).get rfl)

/-- The operands of the swap. -/
def swapReady : Ready := ⟨swapWarp, 1#32, false, [.sca ⟨.int, 128#64⟩], [], false⟩

theorem swap_accepted : Accepts swapState swapEffect.ins swapState swapReady where
  issuer := rfl
  arrived := rfl
  defined := rfl
  comb := rfl
  lanes := rfl
  active := by decide
  vec := rfl
  mode := fun h => by cases h
  operands := by decide +kernel
  channels := rfl
  use := rfl
  reads := rfl

/-- The table has the swap complete. -/
theorem swap_completes : (swapEffect.post swapState swapReady).map programCounters = some [8#56] := by decide +kernel

/-- The model has it wait for the second word's line. -/
theorem swap_waits : seen programCounters (exec swap swapState) = some [0#56] := by decide +kernel

/-- Refutes O28: of a CAS2 the table asks that nothing stands between the warp and the first word's line alone. Under a
translation of a size that no page has, which the statement admits, the second word may lie in another line; where the host
holds that line, the instruction waits (R511) and does not complete. -/
theorem not_storesKeepOtherBytes : ¬ Obligations.StoresKeepOtherBytes := by
  intro h
  obtain ⟨t', hpost, hpc⟩ := Option.map_eq_some_iff.mp swap_completes
  have hexec := (h swapState swapState t' swap swapEffect swapReady rfl swap_accepted hpost rfl).1
  have hwaits := swap_waits
  rw [hexec, seen, hpc] at hwaits
  cases hwaits

end Sys2Proof.Machine
end
